-- ==== Sys2Proof/Word.lean ====
section
/-! DEFINITION. The byte of the line and of the configuration memory (4.2, 11.2). -/

namespace Sys2Proof

/-- One byte of a frame or of the configuration record. -/
abbrev Byte := BitVec 8

end Sys2Proof
end

