-- ==== Sys2Proof/Config.lean ====
section
/-! DEFINITION. The configuration record's items as the blocks use them (11.2, R183), and the
values the manual leaves free. -/

namespace Sys2Proof

/-- A set drawn from AZ, EL and HEAT: a lockout scope or a lock mask (R33, 4.10.1). -/
structure Scope where
  az : Bool
  el : Bool
  heat : Bool
  deriving DecidableEq, Repr

/-- A neighbour and its sector as configured, in mdeg (R52, 11.2). -/
structure Neighbour where
  station : Nat
  azFrom : Nat
  azTo : Nat
  elMin : Nat
  deriving DecidableEq, Repr

/-- The items of a valid configuration record, after defaults (11.2, R183).
Angles are in mdeg, rates in mdeg/s, wind speeds in dm/s, times in seconds but for the scan
interval, which is in milliseconds. -/
structure ConfigRecord where
  ownCell : Nat
  followed : List Nat
  sensor : Bool
  azLo : Int
  azHi : Int
  elLo : Int
  elHi : Int
  stowEl : Int
  azMax : Nat
  elMax : Nat
  creep : Nat
  watchCap : Nat
  coldCap : Nat
  decel : Nat
  legLength : Nat
  tolerance : Nat
  azIndex : Int
  elIndex : Int
  neighbours : List Neighbour
  keyScopes : List Scope
  entitlement : Nat
  axisShares : Nat
  zoneCount : Nat
  zoneEnable : Nat
  zoneShares : List Nat
  heaterPeriod : Nat
  loanTerm : Nat
  scanInterval : Nat
  anemoFactor : Nat
  filterWidth : Nat
  calmSpeed : Nat
  watchSpeed : Nat
  stowSpeed : Nat
  gustSpeed : Nat
  watchConfirm : Nat
  stowConfirm : Nat
  calmTime : Nat
  stowHold : Nat
  settleTime : Nat
  disagreeLimit : Nat
  refLo : Int
  refHi : Int
  airLo : Int
  airHi : Int
  iceLo : Int
  iceHi : Int
  reportMask : BitVec 16
  deriving DecidableEq, Repr

/-- The record a block reads while no configuration is loaded: every item 0 or empty
(R90, R166: the fields that come from configuration carry 0). -/
def ConfigRecord.blank : ConfigRecord where
  ownCell := 0
  followed := []
  sensor := false
  azLo := 0
  azHi := 0
  elLo := 0
  elHi := 0
  stowEl := 0
  azMax := 0
  elMax := 0
  creep := 0
  watchCap := 0
  coldCap := 0
  decel := 0
  legLength := 0
  tolerance := 0
  azIndex := 0
  elIndex := 0
  neighbours := []
  keyScopes := []
  entitlement := 0
  axisShares := 0
  zoneCount := 0
  zoneEnable := 0
  zoneShares := []
  heaterPeriod := 0
  loanTerm := 0
  scanInterval := 0
  anemoFactor := 0
  filterWidth := 0
  calmSpeed := 0
  watchSpeed := 0
  stowSpeed := 0
  gustSpeed := 0
  watchConfirm := 0
  stowConfirm := 0
  calmTime := 0
  stowHold := 0
  settleTime := 0
  disagreeLimit := 0
  refLo := 0
  refHi := 0
  airLo := 0
  airHi := 0
  iceLo := 0
  iceHi := 0
  reportMask := 0

/-- DESIGN CHOICE (log 16), safe: the value the manual does not state, taken afresh at each use
from the counter `State.free`.  It has no body, so no proof can know it. -/
opaque Config.freeValue : Nat → Nat

end Sys2Proof
end

