-- ==== Sys2Proof/Syntax.lean ====
section
/-! DEFINITION. The commands of the block: one constructor of `Instr` for each row of
spec/opcode_table.json, with the operands of the frame (4.10), of the input, or of the entry the
event is about.  Numbers off the line are raw codes; the machine reads them by 4.10. -/

namespace Sys2Proof

/-- Array time: seconds, then milliseconds (5.1). -/
structure ATime where
  sec : Nat
  ms : Nat
  deriving DecidableEq, Repr

/-- The six station-number straps read as a number (ID5 the most significant) and the rate strap,
set when tied low: 500 kbit/s (R61, R181). -/
structure Straps where
  number : Nat
  fastLine : Bool
  deriving DecidableEq, Repr

/-- The two encoder counts, in station-frame mdeg, as they stand at the event (R1). -/
structure Encoders where
  az : Int
  el : Int
  deriving DecidableEq, Repr

/-- One of the two axes. -/
inductive Axis where
  | az
  | el
  deriving DecidableEq, Repr

/-- One end of an axis, where a hard limit switch stands (R17). -/
inductive LimitEnd where
  | lower
  | upper
  deriving DecidableEq, Repr

/-- One of the two anemometer pulse inputs (R123). -/
inductive Anemometer where
  | a
  | b
  deriving DecidableEq, Repr

/-- The converter's readings in one scan (R120, R122), before they are held at the ends of
their ranges. -/
structure ScanReadings where
  reference : Int
  surface : Int
  air : Int
  ice : Int
  deriving DecidableEq, Repr

/-- A frame as heard on the line, up to its check; `cut` says that the line fell idle before the
check was received, or did not fall idle after it (R62). -/
structure RawFrame where
  bytes : List Byte
  cut : Bool
  deriving DecidableEq, Repr

/-- The payload of a BEACON, each field a code of 4.10.1. -/
structure BeaconPayload where
  sec : Nat
  ms : Nat
  startFlag : Bool
  startCause : Nat
  configFault : Bool
  stationState : Nat
  windLevel : Nat
  sensorStatus : Nat
  sensorRole : Bool
  cell : Nat
  windSpeed : Nat
  faultSummary : Bool
  stowBlocked : Bool
  motion : Nat
  az : Int
  el : Int
  mask : Scope
  compactId : Nat
  spare : Nat
  melt : Nat
  deriving DecidableEq, Repr

/-- The payload of a CALL (4.10.1). -/
structure CallPayload where
  id : Nat
  mode : Nat
  members : BitVec 64
  skyAz : Nat
  el : Nat
  start : ATime
  deadline : ATime
  deriving DecidableEq, Repr

/-- The commands.  Where a kind of frame has several rows, the first of them also carries the code
field of the frame (`scope`, `purpose`, `item`), so that a value 4.10 does not define has a
command too (log 9). -/
inductive Instr where
  /-- POWER_ON -/
  | powerOn (straps : Straps)
  /-- PIN_RESET -/
  | pinReset (straps : Straps)
  /-- RESET_HOLD -/
  | resetHold (supplyLow : Bool)
  /-- LOAD_ATTEMPT_COMPLETE -/
  | loadAttemptComplete (acked : Bool) (bytes : List Byte)
  /-- LOAD_BUS_TIMEOUT -/
  | loadBusTimeout (bytes : List Byte)
  /-- LOAD_RETRY_PAUSE_END -/
  | loadRetryPauseEnd
  /-- LISTEN_END -/
  | listenEnd
  /-- RESET_ALL -/
  | resetAll (sender target scope : Nat) (straps : Straps)
  /-- RESET_MOTION -/
  | resetMotion (sender target : Nat)
  /-- RESET_HEAT -/
  | resetHeat (sender target : Nat)
  /-- REFCLK_STOPS -/
  | refclkStops
  /-- REFCLK_RESUMES -/
  | refclkResumes
  /-- SECOND_PULSE -/
  | secondPulse
  /-- TIME_HOLD_ENDS -/
  | timeHoldEnds
  /-- PULSE_WATCH_EXPIRY -/
  | pulseWatchExpiry
  /-- HAND_OVER -/
  | handOver (at_ : Encoders)
  /-- ARBITRATION_LOST -/
  | arbitrationLost
  /-- ATTEMPT_SUCCEEDS -/
  | attemptSucceeds
  /-- FAILED_ATTEMPT -/
  | failedAttempt
  /-- QUIET_END -/
  | quietEnd
  /-- FRAME_VETOED -/
  | frameVetoed (raw : RawFrame)
  /-- BEACON_RECEIVED -/
  | beaconReceived (sender : Nat) (beacon : BeaconPayload)
  /-- PEER_ABSENT -/
  | peerAbsent (station : Nat)
  /-- BEACON_INTERVAL -/
  | beaconInterval (at_ : Encoders)
  /-- WIND_RECEIVED -/
  | windReceived (sender cell level speed cause : Nat)
  /-- LOCK_SET -/
  | lockSet (sender target token : Nat) (scope : Scope)
  /-- LOCK_CLEAR -/
  | lockClear (sender target token : Nat)
  /-- LOCK_NOTICE_RECEIVED -/
  | lockNoticeReceived (sender : Nat) (mask : Scope) (entries keys remotes : Nat)
  /-- CALL -/
  | call (sender : Nat) (payload : CallPayload)
  /-- REPLY -/
  | reply (sender id verdict reason : Nat)
  /-- HOLD -/
  | hold (sender id : Nat)
  /-- RESUME -/
  | resume (sender id : Nat)
  /-- CANCEL -/
  | cancel (sender id : Nat)
  /-- ARRIVE -/
  | arrive (sender id : Nat) (az el : Int)
  /-- LEAVE -/
  | leave (sender id reason : Nat)
  /-- MOVE_POINT -/
  | movePoint (sender target purpose : Nat) (az : Int) (el rate : Nat)
  /-- MOVE_REFERENCE_AZ -/
  | moveReferenceAz (sender target : Nat)
  /-- MOVE_REFERENCE_EL -/
  | moveReferenceEl (sender target : Nat)
  /-- SHARE_ASK -/
  | shareAsk (sender amount : Nat)
  /-- SHARE_GRANT -/
  | shareGrant (sender borrower amount expiry : Nat)
  /-- SHARE_BACK -/
  | shareBack (sender lender amount : Nat)
  /-- INRUSH -/
  | inrush (sender : Nat) (start : ATime) (zones : Nat)
  /-- QUERY_IDENT -/
  | queryIdent (sender target item index : Nat)
  /-- QUERY_CONFIG -/
  | queryConfig (sender target index : Nat)
  /-- QUERY_DISH -/
  | queryDish (sender target index : Nat) (at_ : Encoders)
  /-- QUERY_LOCKS -/
  | queryLocks (sender target index : Nat)
  /-- QUERY_COMPACTS -/
  | queryCompacts (sender target index : Nat)
  /-- QUERY_MEMBERS -/
  | queryMembers (sender target index : Nat)
  /-- QUERY_LOANS -/
  | queryLoans (sender target index : Nat)
  /-- QUERY_SHARES -/
  | queryShares (sender target index : Nat)
  /-- QUERY_ZONES -/
  | queryZones (sender target index : Nat)
  /-- QUERY_MELT -/
  | queryMelt (sender target index : Nat)
  /-- QUERY_CELLS -/
  | queryCells (sender target index : Nat)
  /-- QUERY_SCAN -/
  | queryScan (sender target index : Nat)
  /-- QUERY_FLAGS -/
  | queryFlags (sender target index : Nat)
  /-- QUERY_PEER -/
  | queryPeer (sender target index : Nat)
  /-- CLEAR -/
  | clear (sender target : Nat) (flags : BitVec 16)
  /-- EVENT_RECEIVED -/
  | eventReceived (sender : Nat)
  /-- ANSWER_RECEIVED -/
  | answerReceived (sender : Nat)
  /-- LEG_END -/
  | legEnd (at_ : Encoders)
  /-- GAP_MINIMUM_END -/
  | gapMinimumEnd
  /-- GAP_BRAKE_TIMEOUT -/
  | gapBrakeTimeout
  /-- STOP_END -/
  | stopEnd (at_ : Encoders) (azRate elRate : Nat)
  /-- LEG_STALL -/
  | legStall (at_ : Encoders)
  /-- STOP_STALL -/
  | stopStall (at_ : Encoders) (azRate elRate : Nat)
  /-- LIMIT_INPUT -/
  | limitInput (axis : Axis) (side : LimitEnd) (at_ : Encoders)
  /-- AMPLIFIER_FAULT -/
  | amplifierFault (axis : Axis) (at_ : Encoders)
  /-- ENCODER_LOSS -/
  | encoderLoss (axis : Axis) (at_ : Encoders)
  /-- INDEX_MARK -/
  | indexMark (axis : Axis)
  /-- REFERENCE_TRAVEL_LIMIT -/
  | referenceTravelLimit (at_ : Encoders)
  /-- REFERENCE_DESCENT_END -/
  | referenceDescentEnd
  /-- REFERENCE_DESCENT_LIMIT -/
  | referenceDescentLimit (at_ : Encoders)
  /-- AMPLIFIER_WARNING -/
  | amplifierWarning (axis : Axis) (active : Bool)
  /-- KEY_INPUT_CHANGE -/
  | keyInputChange (key : Nat) (closed : Bool)
  /-- KEY_CLOSING_COUNT_END -/
  | keyClosingCountEnd (key : Nat)
  /-- KEY_OPENING_COUNT_END -/
  | keyOpeningCountEnd (key : Nat)
  /-- KEY_CHECKING_END -/
  | keyCheckingEnd
  /-- COMPACT_START_TIME -/
  | compactStartTime (id : Nat)
  /-- COMPACT_DEADLINE -/
  | compactDeadline (id : Nat)
  /-- COMPACT_REMOVAL -/
  | compactRemoval (id : Nat)
  /-- SCAN_START -/
  | scanStart
  /-- SCAN_COMPLETE -/
  | scanComplete (readings : ScanReadings)
  /-- ANEMOMETER_PULSE -/
  | anemometerPulse (input : Anemometer) (width : Nat)
  /-- WIND_RESEND -/
  | windResend
  /-- STOW_HOLD_EXPIRY -/
  | stowHoldExpiry (cell : Nat)
  /-- SETTLE_EXPIRY -/
  | settleExpiry (cell : Nat)
  /-- HEATER_BOUNDARY -/
  | heaterBoundary
  /-- ZONE_SWITCH_ON_STEP -/
  | zoneSwitchOnStep
  /-- DUTY_END -/
  | dutyEnd (zone : Nat)
  /-- ASK_RUN_EXPIRY -/
  | askRunExpiry
  /-- BORROWED_EXPIRY -/
  | borrowedExpiry (peer : Nat)
  /-- LENT_EXPIRY -/
  | lentExpiry (peer : Nat)
  /-- LOAN_GRACE_END -/
  | loanGraceEnd (peer : Nat)
  /-- SHARE_BACK_WITHDRAWAL -/
  | shareBackWithdrawal (lender : Nat)
  /-- INRUSH_WINDOW_OPEN -/
  | inrushWindowOpen
  /-- INRUSH_WINDOW_END -/
  | inrushWindowEnd
  /-- STOW_LAMP_FLASH -/
  | stowLampFlash
  /-- LIMIT_INPUT_INACTIVE -/
  | limitInputInactive (axis : Axis) (side : LimitEnd)
  /-- AMPLIFIER_FAULT_INACTIVE -/
  | amplifierFaultInactive (axis : Axis)
  /-- ENCODER_SIGNAL_VALID -/
  | encoderSignalValid (axis : Axis)
  /-- CLEAN_FRAME_VETOED_ELSEWHERE -/
  | cleanFrameVetoedElsewhere (sender : Nat)
  deriving DecidableEq, Repr

end Sys2Proof
end

