-- ==== Sys2Proof/Machine/State.lean ====
section
/-! DEFINITION. The state of the EDS-212: one record for each block of 00_scope.md section 4, the
Start-up Sequencer, the pins, the queue of waiting commands, and `State.reset`. -/

namespace Sys2Proof.Machine

/-! ### Start-up Sequencer (chapter 11) -/

/-- The fault kinds of R180. -/
inductive FaultKind where
  | number
  | config
  | clash
  deriving DecidableEq, Repr

/-- Station state, with the phase of STARTING and the kind of FAULTED (R180). -/
inductive Station where
  | sample
  | load
  | selfcheck
  | listen
  | ready
  | faulted (kind : FaultKind)
  deriving DecidableEq, Repr

/-- The start causes of R187. -/
inductive StartCause where
  | powerOn
  | pin
  | remote
  deriving DecidableEq, Repr

/-- The configuration fault causes of R182, VALUE with its byte offset. -/
inductive ConfigFault where
  | read
  | check
  | value (offset : Nat)
  deriving DecidableEq, Repr

/-- The Start-up Sequencer's state (R180, R181, R182, R187). -/
structure SeqUnit where
  station : Station
  held : Bool
  supplyLost : Bool
  number : Nat
  fastLine : Bool
  cause : StartCause
  remoteSender : Nat
  failedAttempts : Nat
  pauseRun : Option Nat
  listenRun : Nat
  config : Option ConfigRecord
  raw : List Byte
  configFault : Option ConfigFault
  deriving DecidableEq, Repr

/-! ### Pins (11.7) -/

/-- The field inputs as they stand (11.7); the outputs are functions of the state (log 29). -/
structure Pins where
  azLower : Bool
  azUpper : Bool
  elLower : Bool
  elUpper : Bool
  azFault : Bool
  elFault : Bool
  azValid : Bool
  elValid : Bool
  azWarning : Bool
  elWarning : Bool
  refclk : Bool
  keys : List Bool
  deriving DecidableEq, Repr

/-! ### Report Unit's records and the values of an ANSWER (chapter 12) -/

/-- The record of one event flag (R189). -/
structure FlagRecord where
  on : Bool
  detail : Nat
  extra : Nat
  time : ATime
  deriving DecidableEq, Repr

/-! ### Axis Engine (chapter 1) -/

/-- The dish motion states of 1.2. -/
inductive Motion where
  | idle
  | leg
  | gap
  | stopping
  | stowing
  | stowed
  | halted
  deriving DecidableEq, Repr

/-- The origin of a move entry (R5); a REFERENCE entry with the axis it searches. -/
inductive Origin where
  | solo
  | joint
  | stow
  | reference (axis : Axis)
  deriving DecidableEq, Repr

/-- The legs of a head entry as fixed at its first leg start (R9). -/
structure LegPlan where
  startAz : Int
  startEl : Int
  index : Nat
  count : Nat
  deriving DecidableEq, Repr

/-- A move entry (R5).  The compact id is 0 but for JOINT, the console 0 but for SOLO and
REFERENCE. -/
structure MoveEntry where
  origin : Origin
  az : Int
  el : Int
  rateAz : Nat
  rateEl : Nat
  compactId : Nat
  console : Nat
  plan : Option LegPlan
  deriving DecidableEq, Repr

/-- What a leg is: a cut of a move, a search of an axis (R20), the descent an elevation search
begins with (R20), or the stow leg, referenced (R22) or not (R23). -/
inductive LegKind where
  | normal
  | search (axis : Axis)
  | descent
  | stow
  | stowUnreferenced
  deriving DecidableEq, Repr

/-- The leg-in-flight record (R4), with the milliseconds it has run (R16).  `descended` says that an
elevation search began with the descent of R20, which its sweep keeps to the leg's end (R55). -/
structure Leg where
  kind : LegKind
  descended : Bool
  origin : Origin
  startAz : Int
  startEl : Int
  targetAz : Int
  targetEl : Int
  movesAz : Bool
  movesEl : Bool
  rateAz : Nat
  rateEl : Nat
  estimate : Nat
  startedAt : ATime
  run : Nat
  deriving DecidableEq, Repr

/-- The stop reasons of R4. -/
inductive StopReason where
  | stow
  | lock
  | keepOut
  | stall
  | reset
  | calm
  | clash
  deriving DecidableEq, Repr

/-- The stop record (R4): the reasons, the milliseconds it has run, the detail of a stall (R16). -/
structure Stop where
  reasons : List StopReason
  run : Nat
  stallDetail : Nat
  deriving DecidableEq, Repr

/-- The Axis Engine's state (R1 to R5, R6, R14, R17, R27). -/
structure AxisUnit where
  posAz : Int
  posEl : Int
  refAz : Bool
  refEl : Bool
  releasedAz : Bool
  releasedEl : Bool
  motion : Motion
  queue : List MoveEntry
  leg : Option Leg
  stop : Option Stop
  gapRun : Nat
  stowMark : Bool
  pairFaulted : Bool
  jointHeld : Bool
  withdrawPending : Bool
  pendingAnswers : List (Nat × Nat)
  deriving DecidableEq, Repr

/-! ### Lockout Unit (chapter 2) and Keep-out Unit (chapter 3) -/

/-- Whose a lockout entry is (R32). -/
inductive LockHolder where
  | key (input : Nat)
  | remote (token console : Nat)
  deriving DecidableEq, Repr

/-- An entry of the Lockout List (R32). -/
structure LockEntry where
  holder : LockHolder
  scope : Scope
  placed : ATime
  deriving DecidableEq, Repr

/-- The debounce states of R35. -/
inductive KeyState where
  | checking
  | opened
  | closing
  | closed
  | opening
  deriving DecidableEq, Repr

/-- The debounce machine of one key, with its count and its scope (R34, R35). -/
structure KeyMachine where
  state : KeyState
  run : Nat
  scope : Scope
  deriving DecidableEq, Repr

/-- An answer kept until READY (R41): console, subject, token, outcome. -/
structure LockAnswer where
  console : Nat
  subject : Nat
  token : Nat
  outcome : Nat
  deriving DecidableEq, Repr

/-- The Lockout Unit's state (R32 to R41). -/
structure LockUnit where
  list : List LockEntry
  keys : List KeyMachine
  checkRun : Option Nat
  pending : List LockAnswer
  deriving DecidableEq, Repr

/-- An entry of the Keep-out Table (R52). -/
structure KeepEntry where
  station : Nat
  azFrom : Nat
  azTo : Nat
  elMin : Nat
  inForce : Bool
  deriving DecidableEq, Repr

/-! ### Compact Unit (chapter 6) -/

/-- The compact states of R91. -/
inductive CompactState where
  | forming
  | moving
  | held
  | complete
  | abandoned
  | timedOut
  | cancelled
  deriving DecidableEq, Repr

/-- The member states of R92, with the reason or the final position (R119). -/
inductive MemberState where
  | unanswered
  | accepted
  | declined (reason : Nat)
  | arrived (az el : Int)
  | left (reason : Nat)
  deriving DecidableEq, Repr

/-- A member entry (R92). -/
structure Member where
  station : Nat
  state : MemberState
  deriving DecidableEq, Repr

/-- A compact record (R91).  `inserted` says that the JOINT entry has been inserted (R101, R115);
`terminalRun` counts since the terminal time (R93). -/
structure CompactRecord where
  id : Nat
  console : Nat
  partialMode : Bool
  skyAz : Nat
  el : Nat
  ownAz : Int
  start : ATime
  deadline : ATime
  state : CompactState
  members : List Member
  holds : List Nat
  progress : Option (Nat × Nat)
  terminalAt : Option ATime
  terminalRun : Nat
  inserted : Bool
  deriving DecidableEq, Repr

/-- The Compact Unit's state (R91, R94, R104). -/
structure CompactUnit where
  list : List CompactRecord
  stowMark : Bool
  pending : List Nat
  deriving DecidableEq, Repr

/-! ### Sensor Unit (chapter 7) -/

/-- The band positions of R122. -/
inductive Band where
  | below
  | within
  | above
  deriving DecidableEq, Repr

/-- A crossing (R122); `up` is its polarity, UP or DOWN. -/
structure Crossing where
  before : Band
  after : Band
  up : Bool
  time : ATime
  deriving DecidableEq, Repr

/-- The scan record of one channel (R122). -/
structure Channel where
  reading : Option Int
  band : Band
  crossing : Option Crossing
  deriving DecidableEq, Repr

/-- The record of one anemometer channel (R123, R125). -/
structure AnemoRecord where
  working : Bool
  zeroRun : Nat
  recovery : Nat
  speed : Nat
  deriving DecidableEq, Repr

/-- A scan in flight: its run, the latched counts, its window (R120, R123). -/
structure Scan where
  run : Nat
  countA : Nat
  countB : Nat
  window : Option Nat
  deriving DecidableEq, Repr

/-- The sensor status of R126. -/
inductive Status where
  | ok
  | degraded
  | faulted
  deriving DecidableEq, Repr

/-- A wind level (R130). -/
inductive Level where
  | calm
  | watch
  | stow
  deriving DecidableEq, Repr

/-- The cause of a level STOW or of a cell in STOW or SETTLE (R130, R135). -/
inductive WindCause where
  | speed
  | gust
  | noSensor
  deriving DecidableEq, Repr

/-- The Sensor Unit's state (R120 to R132). -/
structure SensorUnit where
  scan : Option Scan
  nextScan : Nat
  latched : Bool
  sinceLatch : Nat
  pulsesA : Nat
  pulsesB : Nat
  discarded : Nat
  good : Nat
  referenceFailed : Bool
  reference : Channel
  anemoA : Channel
  anemoB : Channel
  surface : Channel
  air : Channel
  ice : Channel
  channelA : AnemoRecord
  channelB : AnemoRecord
  combined : Nat
  disagree : Option Anemometer
  latest : Option (ATime × Bool)
  status : Status
  cold : Bool
  icePresent : Bool
  melt : Nat
  meltChanged : Bool
  level : Level
  watchCount : Nat
  stowCount : Nat
  calmRun : Option Nat
  stowCause : Option WindCause
  windRun : Option Nat
  deriving DecidableEq, Repr

/-! ### Wind Unit (chapter 8) -/

/-- The cell states of R135. -/
inductive CellState where
  | calm
  | watch
  | stow
  | settle
  deriving DecidableEq, Repr

/-- A roster entry (R136). -/
structure RosterEntry where
  station : Nat
  level : Option Level
  status : Status
  working : Bool
  deriving DecidableEq, Repr

/-- A record of the Cell Table (R135). -/
structure Cell where
  state : CellState
  cause : Option WindCause
  lastStow : Option ATime
  holdRun : Nat
  settleStart : Option ATime
  settleRun : Nat
  roster : List RosterEntry
  deriving DecidableEq, Repr

/-- The Wind Unit's state (R135, R137, R138, R145, R148); `ownEntry` says that the station has added
an entry for itself to the roster of its own cell (R138; log 81). -/
structure WindUnit where
  cells : List Cell
  lastNamed : List (Nat × Nat)
  ownEntry : Bool
  ordered : Bool
  blocked : Bool
  deriving DecidableEq, Repr

/-! ### Heater Unit (chapter 9) and Share Unit (chapter 10) -/

/-- The zone states of R153. -/
inductive ZoneState where
  | off
  | want
  | claim
  | on
  | rest
  deriving DecidableEq, Repr

/-- The switch-off causes of R152. -/
inductive OffCause where
  | duty
  | shed
  | lock
  | sensor
  | demand
  | reset
  deriving DecidableEq, Repr

/-- An entry of the Zone Table (R152). -/
structure Zone where
  enable : Bool
  shares : Nat
  state : ZoneState
  switchedAt : Option ATime
  onRun : Nat
  lastCause : Option OffCause
  deriving DecidableEq, Repr

/-- The Heater Unit's state (R152, R159).  `claims` lists the zones in CLAIM in claim order,
`onOrder` those in ON in order of switch-on; `admitted` zones are still to be switched in the open
window, the last of them `stepRun` ms ago. -/
structure HeaterUnit where
  zones : List Zone
  pointer : Nat
  nextBoundary : Option Nat
  duty : Nat
  claims : List Nat
  onOrder : List Nat
  admitted : Nat
  stepRun : Nat
  deriving DecidableEq, Repr

/-- An entry of the Loan Table (R170), with its grace and the grace's run (R174). -/
structure Loan where
  peer : Nat
  lent : Bool
  amount : Nat
  expiry : Nat
  grace : Bool
  graceRun : Nat
  deriving DecidableEq, Repr

/-- The own inrush claim (R177); WON with its effective start in total milliseconds, the zones
the frame admitted, and whether the window has been opened. -/
inductive Claim where
  | none
  | queued
  | sent
  | won (start zones : Nat) (opened : Bool)
  deriving DecidableEq, Repr

/-- The Share Unit's state (R166, R170, R171, R176, R177); busy-until in total milliseconds. -/
structure ShareUnit where
  motion : Nat
  heaterCommit : Nat
  heaterWant : Nat
  claimCount : Nat
  loans : List Loan
  askRun : Option Nat
  busyUntil : Nat
  claim : Claim
  deriving DecidableEq, Repr

/-! ### Line Unit (chapter 4) and the frames it holds -/

/-- What index 0 of SCAN adds (R122, R193): COLD, ice-present, the sensor status, the combined
speed, and the latest scan's time with its good mark, which R193 does not list (log 8). -/
structure ScanConditions where
  cold : Bool
  icePresent : Bool
  status : Status
  combined : Nat
  latest : Option (Nat × Bool)
  deriving DecidableEq, Repr

/-- The value of an ANSWER to a QUERY: its fields in the order the item's owning rule lists them,
times as array seconds (R192, R193).  `valueBytes` gives their bytes. -/
inductive AnswerValue where
  /-- IDENT (R193). -/
  | ident (vendor part revision : Nat)
  /-- CONFIG, index 0 (R193): the remote sender is absent after another cause than REMOTE (log 8). -/
  | configSummary (number : Nat) (cause : StartCause) (remoteSender : Option Nat)
      (kind : Option FaultKind) (fault : Option ConfigFault)
  /-- CONFIG, indices 1 to 8 (R193). -/
  | configPart (bytes : List Byte)
  /-- DISH (R193): the leg index and count are those of the head entry, once its first leg has started
  (R5). -/
  | dish (motion : Motion) (az el : Int) (refAz refEl : Bool) (progress : Option (Nat × Nat))
  /-- LOCKS (R49): an entry, and for a key its debounce state. -/
  | lock (holder : LockHolder) (scope : Scope) (placed : Nat) (key : Option KeyState)
  /-- COMPACTS (R119). -/
  | compact (id console : Nat) (partialMode : Bool) (state : CompactState)
      (start deadline : Nat) (ownAz el : Int) (own : MemberState)
      (progress : Option (Nat × Nat)) (unanswered accepted declined arrived left holds : Nat)
      (terminalAt : Option Nat)
  /-- MEMBERS (R119). -/
  | member (id : Nat) (entry : Member) (holding : Bool)
  /-- LOANS (R170). -/
  | loan (peer : Nat) (lent : Bool) (amount expiry : Nat) (grace : Bool)
  /-- SHARES (R166). -/
  | shares (entitlement axisShares motion heaterCommit heaterWant lent borrowed held committed
      spare free shortfall busyUntil : Nat) (claim : Claim)
  /-- ZONES (R165). -/
  | zone (enable : Bool) (shares : Nat) (state : ZoneState)
      (switchedAt onRun claimOrder : Option Nat) (lastCause : Option OffCause)
      (pointer duty : Nat)
  /-- MELT (R193). -/
  | melt (code : Nat) (changed : Bool)
  /-- CELLS (R151). -/
  | cell (state : CellState) (cause : Option WindCause) (own followed : Bool)
      (lastStow settleStart : Option Nat) (entries working : Nat) (roster : List (Nat × Bool))
  /-- SCAN (R122, R193): the channel's latest reading, band position and latest crossing (the
position before and after, UP or not, the time); at index 0 also the station's conditions. -/
  | scan (reading : Option Int) (band : Band) (crossing : Option (Band × Band × Bool × Nat))
      (conditions : Option ScanConditions)
  /-- FLAGS, index 0 (R193). -/
  | flags (set mask : BitVec 16) (summary : Bool)
  /-- FLAGS, index n (R189, R193). -/
  | flag (on : Bool) (detail extra time : Nat)
  /-- PEER (R83). -/
  | peer (present : Bool) (lastHeard : Option Nat) (silence : Nat) (console : Bool)
      (beacon : Option BeaconPayload) (restartSeen : Bool) (mask : Option Scope)
  deriving DecidableEq, Repr

/-- The frames this station sends (4.10). -/
inductive Frame where
  | beacon (payload : BeaconPayload)
  | wind (cell level speed cause : Nat)
  | lockNotice (mask : Scope) (entries keys remotes : Nat)
  | reply (id verdict reason : Nat)
  | hold (id : Nat)
  | resume (id : Nat)
  | arrive (id : Nat) (az el : Int)
  | leave (id reason : Nat)
  | shareAsk (amount : Nat)
  | shareGrant (borrower amount expiry : Nat)
  | shareBack (lender amount : Nat)
  | inrush (start : ATime) (zones : Nat)
  | event (flag detail : Nat) (time : ATime)
  | answer (console subject key outcome : Nat) (value : Option AnswerValue)
  deriving DecidableEq, Repr

/-- An occupied slot of the transmit queue (R68): slots 0 to 7 general, 8 to 11 reserved.
`again` marks a second queueing (R102, R107, R112); `stillWanted` is the figure of a SHARE_GRANT
(R172); `expiryRun` counts since the expiry a SHARE_BACK answers (R174).  Owner and class are
functions of the frame (log 29). -/
structure TxEntry where
  slot : Nat
  frame : Frame
  age : Nat
  attempts : Nat
  started : Bool
  again : Bool
  stillWanted : Nat
  expiryRun : Option Nat
  deriving DecidableEq, Repr

/-- The Line Unit's state (R65, R67, R68, R69).  The queue is listed in order of age; `sending`
is the age of the frame whose attempt is in progress. -/
structure LineUnit where
  queue : List TxEntry
  nextAge : Nat
  sending : Option Nat
  txErrors : Nat
  quiet : Bool
  quietRun : Nat
  vetoCount : Nat
  passive : Bool
  deriving DecidableEq, Repr

/-! ### Time Unit and Peer Unit (chapter 5) -/

/-- The Time Unit's state (5.1); `holding` marks a hold in progress (log 28). -/
structure TimeUnit where
  sec : Nat
  ms : Nat
  hold : Nat
  watch : Nat
  free : Bool
  holding : Bool
  deriving DecidableEq, Repr

/-- An entry of the Peer Table (R83); its role follows from its number. -/
structure PeerEntry where
  station : Nat
  present : Bool
  lastHeard : Option ATime
  silence : Nat
  restartSeen : Bool
  beacon : Option BeaconPayload
  mask : Option Scope
  deriving DecidableEq, Repr

/-- The Peer Unit's state (R83, R89).  An unlisted number is an ABSENT entry with nothing
recorded. -/
structure PeerUnit where
  table : List PeerEntry
  beaconRun : Option Nat
  startCount : Nat
  deriving DecidableEq, Repr

/-! ### Report Unit (chapter 12) -/

/-- A QUERY or CLEAR kept until READY (R192). -/
structure PendingQuery where
  console : Nat
  subject : Nat
  key : Nat
  deriving DecidableEq, Repr

/-- The Report Unit's state (R189, R192, R194).  `haltedFlags` lists which of flags 1 to 4 have
been set since HALTED was entered. -/
structure ReportUnit where
  flags : List FlagRecord
  haltedFlags : List Nat
  pending : List PendingQuery
  lampOn : Bool
  lampRun : Nat
  deriving DecidableEq, Repr

/-! ### The whole state -/

/-- The state of the part, and `pending`, the commands that wait (first in, first out).
`free` counts the free values taken (log 16). -/
structure State where
  pending : List Instr
  pins : Pins
  seq : SeqUnit
  line : LineUnit
  time : TimeUnit
  peers : PeerUnit
  axis : AxisUnit
  lock : LockUnit
  keepOut : List KeepEntry
  compact : CompactUnit
  sensor : SensorUnit
  wind : WindUnit
  heater : HeaterUnit
  share : ShareUnit
  report : ReportUnit
  free : Nat
  deriving DecidableEq, Repr

/-- No command of this block faults: every row of the table has an effect or none in every state
(NOTES.md, Stops). -/
inductive Fault where
  deriving DecidableEq, Repr

/-- Why a command is refused. -/
inductive Refusal where
  /-- Raised by an arm of `exec` whose command has no meaning yet; safe.  No arm raises it. -/
  | notModelled (mnemonic : String)
  deriving DecidableEq, Repr

/-! ### Values after reset -/

/-- Array time 0 s 0 ms. -/
def zeroTime : ATime := ⟨0, 0⟩

/-- The scope of all three parts, DISH (R33). -/
def Scope.dish : Scope := ⟨true, true, true⟩

/-- The empty scope. -/
def Scope.none : Scope := ⟨false, false, false⟩

/-- R77. -/
def LineUnit.initial : LineUnit where
  queue := []
  nextAge := 0
  sending := none
  txErrors := 0
  quiet := false
  quietRun := 0
  vetoCount := 0
  passive := false

/-- R78. -/
def TimeUnit.initial : TimeUnit where
  sec := 0
  ms := 0
  hold := 0
  watch := 0
  free := false
  holding := false

/-- R83, R89. -/
def PeerUnit.initial : PeerUnit where
  table := []
  beaconRun := none
  startCount := 0

/-- R31, with the positions R1 gives. -/
def AxisUnit.initial (az el : Int) : AxisUnit where
  posAz := az
  posEl := el
  refAz := false
  refEl := false
  releasedAz := false
  releasedEl := false
  motion := .idle
  queue := []
  leg := none
  stop := none
  gapRun := 0
  stowMark := false
  pairFaulted := false
  jointHeld := false
  withdrawPending := false
  pendingAnswers := []

/-- The key entries of R36, in key order. -/
def keyEntriesAtReset : List LockEntry :=
  [⟨.key 1, Scope.dish, zeroTime⟩, ⟨.key 2, Scope.dish, zeroTime⟩,
   ⟨.key 3, Scope.dish, zeroTime⟩, ⟨.key 4, Scope.dish, zeroTime⟩]

/-- R36, R50: the remote entries kept, then the key entries. -/
def LockUnit.initial (kept : List LockEntry) : LockUnit where
  list := kept ++ keyEntriesAtReset
  keys := [⟨.checking, 0, Scope.dish⟩, ⟨.checking, 0, Scope.dish⟩,
    ⟨.checking, 0, Scope.dish⟩, ⟨.checking, 0, Scope.dish⟩]
  checkRun := none
  pending := []

/-- R118. -/
def CompactUnit.initial : CompactUnit where
  list := []
  stowMark := false
  pending := []

/-- R122: no reading, no crossing, WITHIN. -/
def Channel.initial : Channel := ⟨none, .within, none⟩

/-- R125. -/
def AnemoRecord.initial : AnemoRecord := ⟨true, 0, 0, 0⟩

/-- R134 and the rules of chapter 7 it names. -/
def SensorUnit.initial : SensorUnit where
  scan := none
  nextScan := 0
  latched := false
  sinceLatch := 0
  pulsesA := 0
  pulsesB := 0
  discarded := 0
  good := 0
  referenceFailed := false
  reference := Channel.initial
  anemoA := Channel.initial
  anemoB := Channel.initial
  surface := Channel.initial
  air := Channel.initial
  ice := Channel.initial
  channelA := AnemoRecord.initial
  channelB := AnemoRecord.initial
  combined := 0
  disagree := none
  latest := none
  status := .ok
  cold := false
  icePresent := false
  melt := 0
  meltChanged := false
  level := .calm
  watchCount := 0
  stowCount := 0
  calmRun := none
  stowCause := none
  windRun := none

/-- R135. -/
def Cell.initial : Cell := ⟨.calm, none, none, 0, none, 0, []⟩

/-- R135, R150. -/
def WindUnit.initial : WindUnit where
  cells := List.replicate 8 Cell.initial
  lastNamed := []
  ownEntry := false
  ordered := false
  blocked := false

/-- R164; no next boundary is held before READY (log 35). -/
def HeaterUnit.initial : HeaterUnit where
  zones := []
  pointer := 0
  nextBoundary := none
  duty := 0
  claims := []
  onOrder := []
  admitted := 0
  stepRun := 0

/-- R178. -/
def ShareUnit.initial : ShareUnit where
  motion := 0
  heaterCommit := 0
  heaterWant := 0
  claimCount := 0
  loans := []
  askRun := none
  busyUntil := 0
  claim := .none

/-- A clear flag record (R189). -/
def FlagRecord.initial : FlagRecord := ⟨false, 0, 0, zeroTime⟩

/-- R189, with the record of ID_CLASH a remote ALL reset keeps; R192, R194. -/
def ReportUnit.initial (idClash : FlagRecord) : ReportUnit where
  flags := List.replicate 15 FlagRecord.initial ++ [idClash]
  haltedFlags := []
  pending := []
  lampOn := false
  lampRun := 0

/-- The inputs before any has been reported: inactive, valid, running, open (log 7). -/
def Pins.initial : Pins where
  azLower := false
  azUpper := false
  elLower := false
  elUpper := false
  azFault := false
  elFault := false
  azValid := true
  elValid := true
  azWarning := false
  elWarning := false
  refclk := true
  keys := [false, false, false, false]

/-- The sequencer at the start of SAMPLE, with what the restart keeps and records (R180, R187). -/
def SeqUnit.initial (held supplyLost : Bool) (number : Nat) (fastLine : Bool)
    (cause : StartCause) (remoteSender : Nat) : SeqUnit where
  station := .sample
  held := held
  supplyLost := supplyLost
  number := number
  fastLine := fastLine
  cause := cause
  remoteSender := remoteSender
  failedAttempts := 0
  pauseRun := none
  listenRun := 0
  config := none
  raw := List.replicate 143 0
  configFault := none

/-- The part right after a power-on reset, held at the start of SAMPLE until a command gives the
straps; the supply has been below its threshold, so that the start cause is POWER_ON whichever it
is (R187; log 4). -/
def State.reset : State where
  pending := []
  pins := Pins.initial
  seq := SeqUnit.initial true true 0 false .powerOn 0
  line := LineUnit.initial
  time := TimeUnit.initial
  peers := PeerUnit.initial
  axis := AxisUnit.initial 0 0
  lock := LockUnit.initial []
  keepOut := []
  compact := CompactUnit.initial
  sensor := SensorUnit.initial
  wind := WindUnit.initial
  heater := HeaterUnit.initial
  share := ShareUnit.initial
  report := ReportUnit.initial FlagRecord.initial
  free := 0

end Sys2Proof.Machine
end

