-- ==== Sys2Proof/Machine/Ops.lean ====
section
/-! DEFINITION. The updates of the state: one for each block, and the small reads every block
shares. -/

namespace Sys2Proof.Machine

/-- The state with `pending` replaced. -/
def State.withPending (s : State) (x : List Instr) : State := { s with pending := x }

/-- The state with `pins` replaced. -/
def State.withPins (s : State) (x : Pins) : State := { s with pins := x }

/-- The state with `seq` replaced. -/
def State.withSeq (s : State) (x : SeqUnit) : State := { s with seq := x }

/-- The state with `line` replaced. -/
def State.withLine (s : State) (x : LineUnit) : State := { s with line := x }

/-- The state with `time` replaced. -/
def State.withTime (s : State) (x : TimeUnit) : State := { s with time := x }

/-- The state with `peers` replaced. -/
def State.withPeers (s : State) (x : PeerUnit) : State := { s with peers := x }

/-- The state with `axis` replaced. -/
def State.withAxis (s : State) (x : AxisUnit) : State := { s with axis := x }

/-- The state with `lock` replaced. -/
def State.withLock (s : State) (x : LockUnit) : State := { s with lock := x }

/-- The state with `keepOut` replaced. -/
def State.withKeepOut (s : State) (x : List KeepEntry) : State := { s with keepOut := x }

/-- The state with `compact` replaced. -/
def State.withCompact (s : State) (x : CompactUnit) : State := { s with compact := x }

/-- The state with `sensor` replaced. -/
def State.withSensor (s : State) (x : SensorUnit) : State := { s with sensor := x }

/-- The state with `wind` replaced. -/
def State.withWind (s : State) (x : WindUnit) : State := { s with wind := x }

/-- The state with `heater` replaced. -/
def State.withHeater (s : State) (x : HeaterUnit) : State := { s with heater := x }

/-- The state with `share` replaced. -/
def State.withShare (s : State) (x : ShareUnit) : State := { s with share := x }

/-- The state with `report` replaced. -/
def State.withReport (s : State) (x : ReportUnit) : State := { s with report := x }

/-- The state with `free` replaced. -/
def State.withFree (s : State) (x : Nat) : State := { s with free := x }

/-- The loaded configuration, or the blank record while none is loaded (R182). -/
def cfg (s : State) : ConfigRecord := s.seq.config.getD ConfigRecord.blank

/-- Array time as it stands (5.1). -/
def now (s : State) : ATime := ⟨s.time.sec, s.time.ms⟩

/-- An instant of array time in milliseconds from 0 s 0 ms (R82). -/
def toMs (t : ATime) : Nat := t.sec * 1000 + t.ms

/-- The instant that stands a number of milliseconds after 0 s 0 ms. -/
def ofMs (n : Nat) : ATime := ⟨n / 1000, n % 1000⟩

/-- Array time as it stands, in milliseconds. -/
def nowMs (s : State) : Nat := toMs (now s)

/-- The station is READY. -/
def isReady (s : State) : Bool := s.seq.station == .ready

/-- The station is FAULTED for a station number clash. -/
def isClash (s : State) : Bool := s.seq.station == .faulted .clash

/-- The station is FAULTED for a configuration failure. -/
def isConfigFault (s : State) : Bool := s.seq.station == .faulted .config

/-- R61: the station receives and checks frames. -/
def receives (s : State) : Bool :=
  !s.seq.held && (s.seq.station == .listen || isReady s || isConfigFault s || isClash s)

/-- R61: the station transmits frames. -/
def transmits (s : State) : Bool :=
  !s.seq.held && (isReady s || isConfigFault s)

/-- R61: the station drives the veto slot. -/
def vetoes (s : State) : Bool :=
  !s.seq.held && (s.seq.station == .listen || isReady s || isConfigFault s)

/-- A value the manual does not state (log 16), and the state that has taken it. -/
def takeFree (s : State) : Nat × State :=
  (Config.freeValue s.free, s.withFree (s.free + 1))

end Sys2Proof.Machine
end

