-- ==== Sys2Proof/Machine/Operands.lean ====
section
/-! DEFINITION. The readings of operands: codes of 4.10 and 12.1, scopes, angles. -/

namespace Sys2Proof.Machine

/-! ### Scopes -/

/-- The union of two scopes (R33). -/
def scopeUnion (a b : Scope) : Scope := ⟨a.az || b.az, a.el || b.el, a.heat || b.heat⟩

/-- The scope covers no part. -/
def scopeEmpty (a : Scope) : Bool := !(a.az || a.el || a.heat)

/-- The scope covers AZ or EL. -/
def scopeMotion (a : Scope) : Bool := a.az || a.el

/-! ### Numbers of stations -/

/-- A console's number (6.2). -/
def isConsole (n : Nat) : Bool := decide (60 ≤ n ∧ n ≤ 63)

/-- A dish's number (6.2). -/
def isDish (n : Nat) : Bool := decide (1 ≤ n ∧ n ≤ 59)

/-! ### Codes of 4.10 -/

/-- Wind level code (4.10.1). -/
def levelOf : Nat → Option Level
  | 0 => some .calm
  | 1 => some .watch
  | 2 => some .stow
  | _ => none

/-- The code of a wind level. -/
def levelCode : Level → Nat
  | .calm => 0
  | .watch => 1
  | .stow => 2

/-- Sensor status code (4.10.1). -/
def statusOf : Nat → Option Status
  | 0 => some .ok
  | 1 => some .degraded
  | 2 => some .faulted
  | _ => none

/-- The code of a sensor status. -/
def statusCode : Status → Nat
  | .ok => 0
  | .degraded => 1
  | .faulted => 2

/-- Dish motion state code (4.10.1). -/
def motionCode : Motion → Nat
  | .idle => 0
  | .leg => 1
  | .gap => 2
  | .stopping => 3
  | .stowing => 4
  | .stowed => 5
  | .halted => 6

/-- Start cause code (4.10.1). -/
def causeCode : StartCause → Nat
  | .powerOn => 1
  | .pin => 2
  | .remote => 3

/-- WIND cause code of a STOW cause (4.10.2). -/
def windCauseCode : WindCause → Nat
  | .gust => 1
  | _ => 0

/-- The order of the band positions, toward ABOVE (R122). -/
def bandRank : Band → Nat
  | .below => 0
  | .within => 1
  | .above => 2

/-- Reason codes of 4.10.3. -/
def reasonFull : Nat := 1
def reasonDuplicate : Nat := 2
def reasonTime : Nat := 3
def reasonOverlap : Nat := 4
def reasonWind : Nat := 5
def reasonLocked : Nat := 6
def reasonFault : Nat := 7
def reasonUnreferenced : Nat := 8
def reasonLimit : Nat := 9
def reasonKeepOut : Nat := 10
def reasonSlow : Nat := 11
def reasonBusy : Nat := 12
def reasonNotReady : Nat := 13
def reasonStow : Nat := 14
def reasonLock : Nat := 15
def reasonReset : Nat := 16
def reasonAbsent : Nat := 17

/-- Outcome codes of 4.10.3. -/
def outcomeOk : Nat := 0
def outcomeNoItem : Nat := 1
def outcomeNotReady : Nat := 2
def outcomeFull : Nat := 3
def outcomeDuplicate : Nat := 4
def outcomeNoSuchToken : Nat := 5
def outcomeNotConsole : Nat := 6
def outcomeBadScope : Nat := 7
def outcomeBusy : Nat := 8
def outcomeUnreferenced : Nat := 9
def outcomeLimit : Nat := 10
def outcomeKeepOut : Nat := 11
def outcomeLocked : Nat := 12
def outcomeWind : Nat := 13
def outcomeFault : Nat := 14

/-- Subjects of an ANSWER (4.10.1). -/
def subjectQuery : Nat := 1
def subjectClear : Nat := 2
def subjectMove : Nat := 3
def subjectLockSet : Nat := 4
def subjectLockClear : Nat := 5

/-! ### Angles -/

/-- The sky azimuth of a station-frame azimuth (R1). -/
def skyOf (az : Int) : Nat := (az % 360000).toNat

/-- Two positions on one axis are taken as equal (R1). -/
def within (tolerance : Nat) (a b : Int) : Bool := decide ((a - b).natAbs ≤ tolerance)

/-- A quotient rounded up. -/
def ceilDiv (a b : Nat) : Nat := (a + b - 1) / b

/-- A value held at the ends of a range (R122). -/
def clampInt (lo hi x : Int) : Int := max lo (min hi x)

/-- A value lies in a closed range. -/
def inRange (lo hi x : Int) : Bool := decide (lo ≤ x ∧ x ≤ hi)

end Sys2Proof.Machine
end

