-- ==== Sys2Proof/Machine/Line.lean ====
section
/-! DEFINITION. The transmit queue: classes, owners, coalescing, displacement, withdrawal and
revision (R66, R68 to R73), and what an owner does when a frame of its own is lost. -/

namespace Sys2Proof.Machine

/-- The classes of a frame, SAFETY first (4.2). -/
inductive FrameClass where
  | safety
  | coord
  | routine
  deriving DecidableEq, Repr

/-- The blocks that own frames (R68). -/
inductive Owner where
  | peer
  | sensor
  | lockout
  | compact
  | share
  | report
  | axis
  deriving DecidableEq, Repr

/-- The fault group (R189). -/
def isFaultFlag (n : Nat) : Bool := [0, 1, 2, 3, 4, 5, 7, 8, 15].contains n

/-- The class of a frame (4.10). -/
def frameClass : Frame → FrameClass
  | .beacon _ => .routine
  | .wind .. => .safety
  | .lockNotice .. => .safety
  | .reply .. => .coord
  | .hold _ => .coord
  | .resume _ => .coord
  | .arrive .. => .coord
  | .leave .. => .coord
  | .shareAsk _ => .routine
  | .shareGrant .. => .routine
  | .shareBack .. => .routine
  | .inrush .. => .coord
  | .event flag _ _ => if isFaultFlag flag then .safety else .routine
  | .answer .. => .routine

/-- The block that owns a frame (4.7, 4.10). -/
def frameOwner : Frame → Owner
  | .beacon _ => .peer
  | .wind .. => .sensor
  | .lockNotice .. => .lockout
  | .reply .. => .compact
  | .hold _ => .compact
  | .resume _ => .compact
  | .arrive .. => .compact
  | .leave .. => .compact
  | .shareAsk _ => .share
  | .shareGrant .. => .share
  | .shareBack .. => .share
  | .inrush .. => .share
  | .event .. => .report
  | .answer _ subject _ _ _ =>
    if subject == subjectMove then .axis
    else if subject == subjectLockSet || subject == subjectLockClear then .lockout
    else .report

/-- The frame is an ANSWER. -/
def isAnswer : Frame → Bool
  | .answer .. => true
  | _ => false

/-- The groups of R70: at most one frame of each waits unstarted. -/
def sameGroup : Frame → Frame → Bool
  | .beacon _, .beacon _ => true
  | .wind .., .wind .. => true
  | .lockNotice .., .lockNotice .. => true
  | .event f _ _, .event g _ _ => f == g
  | _, _ => false

/-- A frame as a block hands it over for queueing; slot and age are given in the queue. -/
def TxEntry.fresh (f : Frame) : TxEntry where
  slot := 0
  frame := f
  age := 0
  attempts := 0
  started := false
  again := false
  stillWanted := 0
  expiryRun := none

/-- The lowest free slot from `lo` on, of `n` (R68); that the lowest is taken is log 46. -/
def freeSlot (q : List TxEntry) (lo n : Nat) : Option Nat :=
  (List.range' lo n).find? fun k => !q.any (·.slot == k)

/-- The queue with a frame added at the youngest age (R68). -/
def LineUnit.append (l : LineUnit) (slot : Nat) (e : TxEntry) : LineUnit :=
  { l with
    queue := l.queue ++
      [{ e with slot := slot, age := l.nextAge, attempts := 0, started := false }]
    nextAge := l.nextAge + 1 }

/-- The queue without the frame of an age. -/
def LineUnit.remove (l : LineUnit) (age : Nat) : LineUnit :=
  { l with queue := l.queue.filter fun e => e.age != age }

/-- The queue without the unstarted frames a predicate picks (R73, withdrawal). -/
def LineUnit.withdraw (l : LineUnit) (p : TxEntry → Bool) : LineUnit :=
  { l with queue := l.queue.filter fun e => e.started || !p e }

/-- The queue with the contents of its unstarted frames revised (R73). -/
def LineUnit.revise (l : LineUnit) (f : TxEntry → TxEntry) : LineUnit :=
  { l with queue := l.queue.map fun e =>
      if e.started then e
      else { f e with slot := e.slot, age := e.age, started := e.started } }

/-- A frame of the same group that waits unstarted (R70). -/
def LineUnit.groupMate (l : LineUnit) (f : Frame) : Option TxEntry :=
  l.queue.find? fun e => !e.started && sameGroup e.frame f

/-- The waiting frame's contents replaced in place (R70). -/
def LineUnit.coalesce (l : LineUnit) (age : Nat) (f : Frame) : LineUnit :=
  { l with queue := l.queue.map fun e => if e.age == age then { e with frame := f } else e }

/-- An unstarted ROUTINE frame that is not an ANSWER (R71). -/
def isDisplaceable (e : TxEntry) : Bool :=
  !e.started && frameClass e.frame == .routine && !isAnswer e.frame

/-- A COORD or ROUTINE frame placed by R71; none where it is refused. -/
def LineUnit.place (l : LineUnit) (e : TxEntry) : Option LineUnit :=
  match freeSlot l.queue 0 8 with
  | some k => some (l.append k e)
  | none =>
    match l.queue.find? fun v => isDisplaceable v && v.slot < 8 with
    | some v => some ((l.remove v.age).append v.slot e)
    | none =>
      -- a routine frame never stands in a reserved slot (R68)
      none

/-- An unstarted ANSWER (R72). -/
def waitingAnswer (e : TxEntry) : Bool := !e.started && isAnswer e.frame

/-- An unstarted COORD frame (R72). -/
def waitingCoord (e : TxEntry) : Bool := !e.started && frameClass e.frame == .coord

/-- A started frame of a class that is not in the middle of an attempt (R72). -/
def startedOf (l : LineUnit) (c : FrameClass) (e : TxEntry) : Bool :=
  e.started && l.sending != some e.age && frameClass e.frame == c

/-- The frame a SAFETY frame takes the place of when all 12 slots are occupied (R72). -/
def LineUnit.victim (l : LineUnit) : Option TxEntry :=
  (l.queue.find? isDisplaceable)
  <|> (l.queue.find? waitingAnswer)
  <|> (l.queue.reverse.find? waitingCoord)
  <|> (l.queue.find? (startedOf l .routine))
  <|> (l.queue.find? (startedOf l .coord))

/-- A SAFETY frame placed by R72, with the frame discarded or dropped for it. -/
def LineUnit.placeSafety (l : LineUnit) (e : TxEntry) : LineUnit × Option TxEntry :=
  match freeSlot l.queue 8 4 <|> freeSlot l.queue 0 8 with
  | some k => (l.append k e, none)
  | none =>
    match l.victim with
    | some v => ((l.remove v.age).append v.slot e, some v)
    | none => (l, none)

/-- The start of the window an INRUSH proposes: the later of the present array time and
busy-until (R177). -/
def inrushStart (s : State) : ATime := ofMs (max (nowMs s) s.share.busyUntil)

/-- The own claim as made from NONE: an INRUSH is queued for the claim count, if it is above 0 and
the station READY; refused at queueing, the claim is given up (R177). -/
def claimFromNone (s : State) : State :=
  let idle := s.withShare { s.share with claim := .none }
  if isReady s && !s.seq.held && s.share.claimCount != 0 then
    match s.line.place (TxEntry.fresh (.inrush (inrushStart s) s.share.claimCount)) with
    | some l => (s.withShare { s.share with claim := .queued }).withLine l
    | none => idle
  else idle

/-- A lost LEAVE may be queued once more: its record is still in the list, or it is a LEAVE(RESET),
which stands without one (R112, R117). -/
def leaveStands (s : State) (id reason : Nat) : Bool :=
  reason == reasonReset || s.compact.list.any fun r => r.id == id

/-- A frame queued once more after its loss (R102, R107, R112). -/
def queueAgain (s : State) (f : Frame) : State :=
  match s.line.place { TxEntry.fresh f with again := true } with
  | some l => s.withLine l
  | none => s

/-- What the owner does at the discarded or dropped notice of a frame (R89, R99, R102, R107, R112,
R171 to R174, R177, R190, R192); an ANSWER of the Lockout Unit or of the Axis Engine that is
discarded is not sent again (R40, R192; log 77). -/
def onLost (s : State) (e : TxEntry) : State :=
  match e.frame with
  | .hold id => if e.again then s else queueAgain s (.hold id)
  | .resume id => if e.again then s else queueAgain s (.resume id)
  | .arrive id az el => if e.again then s else queueAgain s (.arrive id az el)
  | .leave id reason =>
    if e.again || !leaveStands s id reason then s else queueAgain s (.leave id reason)
  | .inrush .. => claimFromNone s
  | _ => s

/-- What the owner does at the refused notice of a frame (R71): a claim is given up (R177); the
second queueing of R102, R107 and R112 finds the queue that refused the first (log 26). -/
def onRefused (s : State) (e : TxEntry) : State :=
  match e.frame with
  | .inrush .. => s.withShare { s.share with claim := .none }
  | _ => s

/-- A frame that is not coalesced, placed by its class (R71, R72). -/
def enqueueNew (s : State) (e : TxEntry) : State :=
  match frameClass e.frame with
  | .safety =>
    match s.line.placeSafety e with
    | (l, some v) => onLost (s.withLine l) v
    | (l, none) => s.withLine l
  | _ =>
    match s.line.place e with
    | some l => s.withLine l
    | none => onRefused s e

/-- A block queues a frame (R70, R71, R72); a station that does not transmit queues nothing (R61,
R76). -/
def enqueueEntry (s : State) (e : TxEntry) : State :=
  if transmits s then
    match s.line.groupMate e.frame with
    | some old => s.withLine (s.line.coalesce old.age e.frame)
    | none => enqueueNew s e
  else s

/-- A block queues a frame. -/
def enqueue (s : State) (f : Frame) : State := enqueueEntry s (TxEntry.fresh f)

/-- The owning block withdraws its unstarted frames that a predicate picks (R73). -/
def withdrawFrames (s : State) (p : TxEntry → Bool) : State := s.withLine (s.line.withdraw p)

/-- The owning block revises its unstarted frames (R73). -/
def reviseFrames (s : State) (f : TxEntry → TxEntry) : State := s.withLine (s.line.revise f)

end Sys2Proof.Machine
end

