-- ==== Sys2Proof/Machine/Flags.lean ====
section
/-! DEFINITION. The event flags: setting, the report mask, EVENT frames, persisting conditions
(R189, R190, R191), stow-blocked's causes, and the outputs. -/

namespace Sys2Proof.Machine

/-- The numbers of the flags (R189). -/
def flagStowBlocked : Nat := 0
def flagAxisLimit : Nat := 1
def flagDriveFault : Nat := 2
def flagEncoderFault : Nat := 3
def flagDriveStall : Nat := 4
def flagSensorFault : Nat := 5
def flagAnemoDisagree : Nat := 6
def flagHeatSensor : Nat := 7
def flagHeatOver : Nat := 8
def flagLoanLost : Nat := 9
def flagCompactFailed : Nat := 10
def flagCompactLate : Nat := 11
def flagKeepOutStop : Nat := 12
def flagTimeFreerun : Nat := 13
def flagLineFault : Nat := 14
def flagIdClash : Nat := 15

/-- The record of a flag. -/
def flagRecord (s : State) (n : Nat) : FlagRecord := s.report.flags.getD n FlagRecord.initial

/-- The flag is set. -/
def flagOn (s : State) (n : Nat) : Bool := (flagRecord s n).on

/-- Every flag as a set, bit n for flag n (R193). -/
def flagSet (s : State) : BitVec 16 :=
  (List.range 16).foldl
    (fun acc n => if flagOn s n then acc ||| BitVec.twoPow 16 n else acc) 0

/-- The fault summary: a fault-group flag is set (R90, R194). -/
def faultSummary (s : State) : Bool :=
  (List.range 16).any fun n => isFaultFlag n && flagOn s n

/-- The fault-group flags as a mask (R190). -/
def faultGroupMask : BitVec 16 := 0x81BF

/-- The report mask: the configured one once a configuration is loaded, the fault group before
then and in FAULTED of kind CONFIG (R190). -/
def reportMask (s : State) : BitVec 16 :=
  match s.seq.config with
  | some c => c.reportMask
  | none => faultGroupMask

/-- An EVENT for flag `n` as it stands (R190); ID_CLASH queues none. -/
def queueEvent (s : State) (n : Nat) : State :=
  if (reportMask s).getLsbD n && n != flagIdClash then
    enqueue s (.event n (flagRecord s n).detail (flagRecord s n).time)
  else s

/-- The records with the setting of flag `n` recorded (R189), and the flags 1 to 4 set in HALTED
noted. -/
def recordFlag (s : State) (n detail extra : Nat) : State :=
  s.withReport { s.report with
    flags := s.report.flags.set n ⟨true, detail, extra, now s⟩
    haltedFlags :=
      if s.axis.motion == .halted && decide (1 ≤ n ∧ n ≤ 4)
          && !s.report.haltedFlags.contains n then
        s.report.haltedFlags ++ [n]
      else s.report.haltedFlags }

/-- A block sets a flag (R189); from clear to set, a selected flag queues an EVENT (R190). -/
def setFlagRaw (s : State) (n detail extra : Nat) : State :=
  if flagOn s n then recordFlag s n detail extra
  else queueEvent (recordFlag s n detail extra) n

/-- The first cause of stow-blocked present, in the order LOCK, HALTED, LIMIT_PAIR, as its detail
code (R148, R149); `mask` is the lock mask. -/
def blockCause (s : State) (mask : Scope) : Option Nat :=
  if mask.el then some 1
  else if s.axis.motion == .halted then some 2
  else if !s.axis.refEl && s.axis.pairFaulted then some 3
  else none

/-- The lock mask: the union of the scopes of all entries (R33). -/
def lockMask (s : State) : Scope :=
  s.lock.list.foldl (fun m e => scopeUnion m e.scope) Scope.none

/-- The detail SENSOR_FAULT is set again with: the first present cause in table order (R126, log
18). -/
def sensorFaultDetail (s : State) : Nat :=
  if s.sensor.referenceFailed || (s.sensor.latest.map (·.2)) == some false then 1
  else if !s.sensor.channelA.working then 2
  else 3

/-- The detail and extra a flag is set again with, while its condition persists (R189).  HEAT_SENSOR
takes SCAN with three scans discarded in a row, and else RANGE, also where the code is 0 from the
restart alone and no scan has been good (R129; log 83). -/
def persisting (s : State) (n : Nat) : Option (Nat × Nat) :=
  match n with
  | 0 => if s.wind.blocked then some ((blockCause s (lockMask s)).getD 0, 0) else none
  | 1 | 2 | 3 | 4 =>
    if s.axis.motion == .halted && s.report.haltedFlags.contains n then
      some ((flagRecord s n).detail, (flagRecord s n).extra)
    else none
  | 5 =>
    if s.sensor.status != .ok || (s.sensor.latest.map (·.2)) == some false then
      some (sensorFaultDetail s, 0)
    else none
  | 6 =>
    match s.sensor.disagree with
    | some .a => some (1, 0)
    | some .b => some (2, 0)
    | none => none
  | 7 =>
    if s.sensor.melt == 0 && s.sensor.latest.isSome then
      some (if s.sensor.discarded == 3 then 2 else 1, 0)
    else none
  | 8 => if s.sensor.melt == 6 then some (0, 0) else none
  | 13 => if s.time.free then some (1, 0) else if !s.pins.refclk then some (2, 0) else none
  | 14 => if s.line.passive then some (1, 0) else if s.line.quiet then some (2, 0) else none
  | 15 => if isClash s then some (0, 0) else none
  | _ => none

/-! ### The outputs (R3, R152, R153, R194; log 29) -/

/-- The station state lets the amplifiers be enabled (R3, R184, R186, R187). -/
def mayEnable (u : SeqUnit) : Bool :=
  !u.held &&
    match u.station with
    | .selfcheck => true
    | .listen => true
    | .ready => true
    | .faulted .clash => true
    | _ => false

/-- Both amplifiers are enabled; they never differ (R3, R18, R19, R31). -/
def amplifiersEnabled (s : State) : Bool := mayEnable s.seq && s.axis.motion != .halted

/-- The brake of an axis is engaged (R3). -/
def brakeEngaged (s : State) : Axis → Bool
  | .az => !s.axis.releasedAz
  | .el => !s.axis.releasedEl

/-- The contactor output of a zone number is energised: an existing zone that is ON (R152, R153). -/
def contactor (s : State) (zone : Nat) : Bool :=
  match s.heater.zones[zone]? with
  | some z => z.state == .on
  | none => false

/-- The FAULT line is driven low (R194). -/
def faultLine (s : State) : Bool :=
  faultSummary s ||
    match s.seq.station with
    | .faulted _ => true
    | _ => false

/-- The LOCK lamp is lit (R47, R194). -/
def lockLamp (s : State) : Bool := !scopeEmpty (lockMask s)

/-- The level of the STOW lamp (R194). -/
def stowLamp (s : State) : Bool :=
  if s.wind.blocked then s.report.lampOn
  else s.axis.motion == .stowing || s.axis.motion == .stowed

end Sys2Proof.Machine
end

