-- ==== Sys2Proof/Machine/Power.lean ====
section
/-! DEFINITION. The Share Account and the Zone Table: the derived figures, the heater notice, the
own claim, the ask, top-ups, sheds and the commit of motion (chapters 9 and 10). -/

namespace Sys2Proof.Machine

/-! ### The account (R166, R167) -/

/-- The amounts of the Loan Table's entries of one direction. -/
def loanSum (s : State) (lent : Bool) : Nat :=
  ((s.share.loans.filter fun e => e.lent == lent).map (·.amount)).sum

/-- The amounts of the own SHARE_GRANTs that have started (R166). -/
def grantsStarted (s : State) : Nat :=
  (s.line.queue.map fun e =>
    match e.frame with
    | .shareGrant _ amount _ => if e.started then amount else 0
    | _ => 0).sum

/-- L (R166). -/
def lentShares (s : State) : Nat := loanSum s true + grantsStarted s

/-- B (R166). -/
def borrowedShares (s : State) : Nat := loanSum s false

/-- H = E − L + B (R166). -/
def heldShares (s : State) : Nat := (cfg s).entitlement + borrowedShares s - lentShares s

/-- C (R166). -/
def committedShares (s : State) : Nat := s.share.motion + s.share.heaterCommit

/-- The free shares, H − C (R167). -/
def freeShares (s : State) : Nat := heldShares s - committedShares s

/-- The shortfall (R167). -/
def shortfall (s : State) : Nat := s.share.heaterWant - freeShares s

/-- The spare (R167). -/
def spareShares (s : State) : Nat :=
  (cfg s).entitlement -
    (2 * (cfg s).axisShares + lentShares s + s.share.heaterCommit + s.share.heaterWant)

/-! ### The heater notice (R157) -/

/-- The zone shares of the zones in some states. -/
def zoneSum (s : State) (p : ZoneState → Bool) : Nat :=
  ((s.heater.zones.filter fun z => p z.state).map (·.shares)).sum

/-- The heater commitment (R157). -/
def heaterCommitment (s : State) : Nat := zoneSum s fun z => z == .claim || z == .on

/-- The heater want (R157). -/
def heaterWantSum (s : State) : Nat := zoneSum s fun z => z == .want

/-- The INRUSH that waits unstarted recomputed as at queueing (R177). -/
def reviseInrush (s : State) : State :=
  reviseFrames s fun e =>
    match e.frame with
    | .inrush .. => { e with frame := .inrush (inrushStart s) s.share.claimCount }
    | _ => e

/-- The own claim at a heater notice (R157, R177).  A claim that waits QUEUED with a claim count above
0 has its window start recomputed with its zones to start (log 82). -/
def updateClaim (s : State) : State :=
  match s.share.claim with
  | .none => if s.share.claimCount != 0 then claimFromNone s else s
  | .queued =>
    if s.share.claimCount == 0 then
      (withdrawFrames s fun e =>
        match e.frame with
        | .inrush .. => true
        | _ => false).withShare { s.share with claim := .none }
    else reviseInrush s
  | _ => s

/-- The heater notice: sent when one of its three figures has changed (R157). -/
def heaterNotice (s : State) : State :=
  let commit := heaterCommitment s
  let want := heaterWantSum s
  let count := s.heater.claims.length
  if commit == s.share.heaterCommit && want == s.share.heaterWant
      && count == s.share.claimCount then s
  else
    updateClaim (s.withShare { s.share with
      heaterCommit := commit, heaterWant := want, claimCount := count })

/-! ### Demand and top-up (R154, R158) -/

/-- Demand holds (R154). -/
def demand (s : State) : Bool :=
  s.sensor.icePresent && decide (1 ≤ s.sensor.melt ∧ s.sensor.melt ≤ 4) && !(lockMask s).heat

/-- The duty of a melt rate code, in percent (R129, R154); that of codes 0 and 6 is 0 (log 52). -/
def dutyOf (code : Nat) : Nat :=
  match code with
  | 1 => 100
  | 2 => 75
  | 3 => 50
  | 4 => 25
  | _ => 0

/-- The zones in wrapped order from the rotation pointer (R156, R158). -/
def walk (s : State) : List Nat :=
  (List.range s.heater.zones.length).map fun k =>
    (s.heater.pointer + k) % s.heater.zones.length

/-- The zones of a walk that pass a test and fit the room, each lowering it (R156, R158). -/
def takeWalk (zones : List Zone) (p : Zone → Bool) : List Nat → Nat → List Nat
  | [], _ => []
  | i :: rest, room =>
    match zones[i]? with
    | some z =>
      if p z && decide (z.shares ≤ room) then i :: takeWalk zones p rest (room - z.shares)
      else takeWalk zones p rest room
    | none => takeWalk zones p rest room

/-- The zones of a list changed by a function. -/
def changeZones (zones : List Zone) (which : List Nat) (f : Zone → Zone) : List Zone :=
  zones.mapIdx fun i z => if which.contains i then f z else z

/-- A zone enters CLAIM. -/
def zoneClaim (z : Zone) : Zone := { z with state := .claim, switchedAt := none, onRun := 0 }

/-- A zone returns to WANT. -/
def zoneWant (z : Zone) : Zone := { z with state := .want, switchedAt := none, onRun := 0 }

/-- A zone enters REST with a cause (R153). -/
def zoneRest (cause : OffCause) (z : Zone) : Zone :=
  { z with state := .rest, switchedAt := none, onRun := 0, lastCause := some cause }

/-- A zone enters OFF with a cause, if it is not OFF (R153). -/
def zoneOff (cause : OffCause) (z : Zone) : Zone :=
  if z.state == .off then z
  else { z with state := .off, switchedAt := none, onRun := 0, lastCause := some cause }

/-- A top-up: zones in WANT that fit the free shares enter CLAIM (R158). -/
def topUp (s : State) : State :=
  if demand s && isReady s then
    let taken := takeWalk s.heater.zones (fun z => z.enable && z.state == .want) (walk s)
      (freeShares s)
    heaterNotice (s.withHeater { s.heater with
      zones := changeZones s.heater.zones taken zoneClaim
      claims := s.heater.claims ++ taken })
  else s

/-! ### The ask (R171) -/

/-- The amount a SHARE_ASK wants: the shortfall, held at 16 (R171). -/
def askAmount (s : State) : Nat := min (shortfall s) 16

/-- The frame is a SHARE_ASK. -/
def isAsk (e : TxEntry) : Bool :=
  match e.frame with
  | .shareAsk _ => true
  | _ => false

/-- A SHARE_ASK queued, the ask run begun again (R171). -/
def queueAsk (s : State) : State :=
  let t := enqueue s (.shareAsk (askAmount s))
  t.withShare { t.share with askRun := some 0 }

/-- The ask as the shortfall stands: an unstarted SHARE_ASK is revised or withdrawn, and one is
queued where the ask run is absent or has reached 5000 ms (R171). -/
def updateAsk (s : State) : State :=
  if isReady s then
    if shortfall s == 0 then withdrawFrames s isAsk
    else
      let revised := reviseFrames s fun e =>
        if isAsk e then { e with frame := .shareAsk (askAmount s) } else e
      match s.share.askRun with
      | some r => if r < 5000 then revised else queueAsk revised
      | none => queueAsk revised
  else s

/-- What follows an event of the account: where the free shares have risen over the event, the
free-share report and its top-up, with its INRUSH (R158, R167); then the ask (R171; log 72). -/
def settlePower (before after : State) : State :=
  if freeShares before < freeShares after then updateAsk (topUp after) else updateAsk after

/-! ### Sheds and commits (R161, R168, R169) -/

/-- The zones freed by a shed demand, in the order given, until the amount is met (R161). -/
def shedPick (zones : List Zone) : List Nat → Nat → List Nat
  | [], _ => []
  | i :: rest, amount =>
    if amount == 0 then []
    else
      match zones[i]? with
      | some z => i :: shedPick zones rest (amount - z.shares)
      | none => shedPick zones rest amount

/-- The zone shares of some zones. -/
def sharesOf (zones : List Zone) (which : List Nat) : Nat :=
  (which.map fun i => (zones[i]?.map (·.shares)).getD 0).sum

/-- A sequence of switch-ons ends once no zone remains in CLAIM (R159; log 33). -/
def endIfNone (claims : List Nat) (admitted : Nat) : Nat := if claims.isEmpty then 0 else admitted

/-- A shed demand: zones in CLAIM, latest first, then zones in ON, latest switched first, and one
heater notice (R161). -/
def shed (s : State) (amount : Nat) : State :=
  if amount == 0 then s
  else
    let fromClaim := shedPick s.heater.zones s.heater.claims.reverse amount
    let fromOn := shedPick s.heater.zones s.heater.onOrder.reverse
      (amount - sharesOf s.heater.zones fromClaim)
    heaterNotice (s.withHeater { s.heater with
      zones := changeZones (changeZones s.heater.zones fromClaim zoneWant) fromOn (zoneRest .shed)
      claims := s.heater.claims.filter fun i => !fromClaim.contains i
      admitted :=
        endIfNone (s.heater.claims.filter fun i => !fromClaim.contains i) s.heater.admitted
      onOrder := s.heater.onOrder.filter fun i => !fromOn.contains i })

/-- A commit or release of motion, after the shed it needs (R168). -/
def commitMotion (s : State) (amount : Nat) : State :=
  let shedded := shed s (amount + s.share.heaterCommit - heldShares s)
  settlePower s (shedded.withShare { shedded.share with motion := amount })

/-- The leg-start notice to the Share Unit: a for each moving axis (R12, R168). -/
def shareLegStart (s : State) (az el : Bool) : State :=
  commitMotion s ((if az then (cfg s).axisShares else 0) + (if el then (cfg s).axisShares else 0))

/-- The leg-end notice to the Share Unit (R168). -/
def shareLegEnd (s : State) : State := commitMotion s 0

/-- The loans without the entry toward a peer in one direction. -/
def dropLoan (loans : List Loan) (peer : Nat) (lent : Bool) : List Loan :=
  loans.filter fun e => !(e.peer == peer && e.lent == lent)

/-- A BORROWED entry removed after the shed its fall of H needs (R169). -/
def removeBorrowed (s : State) (peer : Nat) : State :=
  let amount := ((s.share.loans.find? fun e => e.peer == peer && !e.lent).map (·.amount)).getD 0
  let shedded := shed s (committedShares s + amount - heldShares s)
  settlePower s (shedded.withShare { shedded.share with
    loans := dropLoan shedded.share.loans peer false })

/-- A LENT entry removed, L lowered by its amount (R174, R175). -/
def removeLent (s : State) (peer : Nat) : State :=
  settlePower s (s.withShare { s.share with loans := dropLoan s.share.loans peer true })

/-! ### Switching off (R44, R162 to R165) -/

/-- Every zone that is not OFF enters OFF with a cause, and one heater notice (R162 to R165). -/
def allOff (s : State) (cause : OffCause) : State :=
  settlePower s (heaterNotice (s.withHeater { s.heater with
    zones := s.heater.zones.map (zoneOff cause)
    claims := []
    onOrder := []
    admitted := 0 }))

/-- The lock-mask change notice as the Heater Unit takes it (R44, R163). -/
def heaterMaskNotice (s : State) (old new : Scope) : State :=
  if new.heat && !old.heat then allOff s .lock else s

/-- The conditions notice, `had` saying whether demand held before it (R162). -/
def heaterConditions (s : State) (had : Bool) : State :=
  if had && !demand s then
    allOff s (if s.sensor.melt == 0 || s.sensor.melt == 6 then .sensor else .demand)
  else s

/-! ### Frames queued above the account -/

/-- A block queues a frame; a SHARE_GRANT dropped to make room for it frees shares (R167, R172). -/
def queueFrame (s : State) (f : Frame) : State := settlePower s (enqueue s f)

/-- A block sets a flag (R189, R190). -/
def setFlag (s : State) (n detail extra : Nat) : State :=
  settlePower s (setFlagRaw s n detail extra)

end Sys2Proof.Machine
end

