-- ==== Sys2Proof/Machine/Keep.lean ====
section
/-! DEFINITION. Sweeps and the sweep test of the Keep-out Unit (R55, R56, R57). -/

namespace Sys2Proof.Machine

/-- A sweep: its azimuth span (every sky azimuth, or clockwise from one to another), its lowest
elevation and its rising mark (R55). -/
structure Sweep where
  whole : Bool
  azFrom : Nat
  azTo : Nat
  lowest : Int
  rising : Bool
  deriving DecidableEq, Repr

/-- The sweep of a straight motion (R55), `movesAz` and `movesEl` saying which axes it commands:
they take a target within the tolerance as the start, while the span and the lowest elevation take
the target as it is (log 62). -/
def sweepOf (s : State) (movesAz movesEl : Bool) (az el az' el' : Int) : Sweep where
  whole := !s.axis.refAz || decide (360000 ≤ (az' - az).natAbs)
  azFrom := skyOf (min az az')
  azTo := skyOf (max az az')
  lowest := if s.axis.refEl then min el el' else 0
  rising := !movesAz && (!movesEl || decide (el ≤ el'))

/-- The sweep of an azimuth search: every sky azimuth at the elevation it begins at (R55). -/
def sweepSearchAz (s : State) (el : Int) : Sweep where
  whole := true
  azFrom := 0
  azTo := 0
  lowest := if s.axis.refEl then el else 0
  rising := false

/-- The sweep of an elevation search; one that begins with the descent of R20 reaches 5 degrees
lower and carries no rising mark (R20, R55; log 23). -/
def sweepSearchEl (s : State) (az el : Int) (descends : Bool) : Sweep where
  whole := !s.axis.refAz
  azFrom := skyOf az
  azTo := skyOf az
  lowest := if s.axis.refEl then (if descends then max 0 (el - 5000) else el) else 0
  rising := !descends

/-- A sky azimuth lies in a span that runs clockwise, both ends included (R52). -/
def inSpan (azFrom azTo x : Nat) : Bool :=
  if azFrom ≤ azTo then decide (azFrom ≤ x ∧ x ≤ azTo) else decide (azFrom ≤ x ∨ x ≤ azTo)

/-- Two spans share a sky azimuth: one begins within the other (R56). -/
def spansMeet (a b a' b' : Nat) : Bool := inSpan a b a' || inSpan a' b' a

/-- A sweep meets a sector in force (R56). -/
def meetsSector (w : Sweep) (k : KeepEntry) : Bool :=
  k.inForce && (w.whole || spansMeet w.azFrom w.azTo k.azFrom k.azTo) &&
    decide (w.lowest < (k.elMin : Int))

/-- The sweep test: the neighbours whose sectors are met, in table order; none for a sweep that
carries the rising mark (R56, R57). -/
def sweepTest (s : State) (w : Sweep) : List Nat :=
  if w.rising then [] else (s.keepOut.filter (meetsSector w)).map (·.station)

end Sys2Proof.Machine
end

