-- ==== Sys2Proof/Machine/Record.lean ====
section
/-! DEFINITION. Stow-blocked (R148, R149), and the Compact Unit's work on its own records: the
withdraw request, leaving, terminal states, the completion test and the arrival (R107, R109, R111,
R115, R116). -/

namespace Sys2Proof.Machine

/-- The Wind Unit judges stow-blocked (R148, R149); the lamp flashes while it holds (R194), and a
flash begins with its lit half (log 80). -/
def judgeBlocked (s : State) : State :=
  match s.wind.ordered, blockCause s (lockMask s) with
  | true, some cause =>
    if s.wind.blocked then s
    else
      setFlag ((s.withWind { s.wind with blocked := true }).withReport
        { s.report with lampOn := true, lampRun := 0 }) flagStowBlocked cause 0
  | _, _ =>
    if s.wind.blocked then
      (s.withWind { s.wind with blocked := false }).withReport
        { s.report with lampOn := false, lampRun := 0 }
    else s

/-- The dish comes to rest in IDLE with both brakes engaged (R3). -/
def toIdle (s : State) : State :=
  judgeBlocked (s.withAxis { s.axis with motion := .idle, releasedAz := false, releasedEl := false })

/-- The head entry is the JOINT entry of a compact. -/
def headIsJoint (s : State) (id : Nat) : Bool :=
  match s.axis.queue with
  | e :: _ => e.origin == .joint && e.compactId == id
  | [] => false

/-- The queue without JOINT entries, their marks cleared. -/
def dropJoint (a : AxisUnit) : AxisUnit :=
  { a with
    queue := a.queue.filter fun e => e.origin != .joint
    jointHeld := false
    withdrawPending := false }

/-- The withdraw request (R27): kept pending in LEG, applied at once in GAP and IDLE. -/
def axisWithdraw (s : State) (id : Nat) : State :=
  if headIsJoint s id then
    match s.axis.motion with
    | .leg => s.withAxis { s.axis with withdrawPending := true }
    | .gap => toIdle (s.withAxis (dropJoint s.axis))
    | .idle => s.withAxis (dropJoint s.axis)
    | _ => s
  else s

/-! ### Records -/

/-- The record that carries a compact id. -/
def findRecord (s : State) (id : Nat) : Option CompactRecord :=
  s.compact.list.find? fun r => r.id == id

/-- The record of a compact id changed by a function. -/
def changeRecord (s : State) (id : Nat) (f : CompactRecord → CompactRecord) : State :=
  s.withCompact { s.compact with
    list := s.compact.list.map fun r => if r.id == id then f r else r }

/-- The record is in FORMING, MOVING or HELD (R93). -/
def isLive (r : CompactRecord) : Bool :=
  r.state == .forming || r.state == .moving || r.state == .held

/-- The record is in MOVING or HELD. -/
def isFlying (r : CompactRecord) : Bool := r.state == .moving || r.state == .held

/-- The state of a member of a record. -/
def memberState (r : CompactRecord) (n : Nat) : Option MemberState :=
  (r.members.find? fun m => m.station == n).map (·.state)

/-- A record with the state of one member set. -/
def setMember (r : CompactRecord) (n : Nat) (m : MemberState) : CompactRecord :=
  { r with members := r.members.map fun x => if x.station == n then { x with state := m } else x }

/-- The member state is LEFT. -/
def isLeft : MemberState → Bool
  | .left _ => true
  | _ => false

/-- The member state is ARRIVED. -/
def isArrived : MemberState → Bool
  | .arrived _ _ => true
  | _ => false

/-- The member state is UNANSWERED, ACCEPTED or DECLINED (R109, R110). -/
def mayLeave : MemberState → Bool
  | .unanswered => true
  | .accepted => true
  | .declined _ => true
  | _ => false

/-- COMPACT_FAILED with its detail and compact id (R116). -/
def compactFailed (s : State) (detail id : Nat) : State := setFlag s flagCompactFailed detail id

/-- The detail of COMPACT_FAILED for a terminal state; none for COMPLETE (R189). -/
def terminalDetail : CompactState → Option Nat
  | .abandoned => some 20
  | .timedOut => some 21
  | .cancelled => some 22
  | _ => none

/-- A record enters a terminal state (R93, R115, R116): its time is set, COMPACT_FAILED is set
where the compact failed, and the JOINT entry it had inserted is withdrawn. -/
def makeTerminal (s : State) (r : CompactRecord) (st : CompactState) : State :=
  let t := changeRecord s r.id fun x =>
    { x with state := st, terminalAt := some (now s), terminalRun := 0 }
  match terminalDetail st with
  | some d =>
    let u := compactFailed t d r.id
    if r.inserted then axisWithdraw u r.id else u
  | none => t

/-- The completion test of R107 on a record in MOVING or HELD. -/
def completionTest (s : State) (id : Nat) : State :=
  match findRecord s id with
  | some r =>
    if isFlying r then
      if r.members.all fun m => isLeft m.state then makeTerminal s r .abandoned
      else if r.members.all fun m => isLeft m.state || isArrived m.state then
        makeTerminal s r .complete
      else s
    else s
  | none => s

/-- The response of a record, by its mode, after a member becomes LEFT (R109). -/
def afterLeft (s : State) (id : Nat) : State :=
  match findRecord s id with
  | some r =>
    if isLive r then
      if r.partialMode then completionTest s id else makeTerminal s r .abandoned
    else s
  | none => s

/-- The own LEAVE, and the RESUME where the own number is in the hold set (R111). -/
def queueLeave (s : State) (r : CompactRecord) (reason : Nat) : State :=
  let t := queueFrame s (.leave r.id reason)
  if r.holds.contains s.seq.number then queueFrame t (.resume r.id) else t

/-- The station leaves a record it flies (R105, R111), and COMPACT_FAILED is set, after the LEAVE
(log 72), whatever the reason (R116), KEEP_OUT at the compact's start included (R58; log 56). -/
def ownLeave (s : State) (r : CompactRecord) (reason : Nat) : State :=
  let t := changeRecord s r.id fun x => setMember x s.seq.number (.left reason)
  afterLeft (compactFailed (queueLeave t r reason) reason r.id) r.id

/-- The records in MOVING or HELD whose own member state is ACCEPTED (R111). -/
def ownFlying (s : State) : List CompactRecord :=
  s.compact.list.filter fun r => isFlying r && memberState r s.seq.number == some .accepted

/-- Every record the station flies is left with one reason (R43, R111), in list order (log 73). -/
def leaveAll (s : State) (reason : Nat) : State :=
  (ownFlying s).foldl (fun t r => ownLeave t r reason) s

/-- The joint-withdrawn notice (R111); in FAULTED for a clash it changes nothing (R118). -/
def jointWithdrawn (s : State) (id cause : Nat) : State :=
  if isClash s then s
  else
    match (ownFlying s).find? fun r => r.id == id with
    | some r => ownLeave s r cause
    | none => s

/-- The arrival notice (R107): the ARRIVE is queued before COMPACT_LATE is set (log 72). -/
def arrivalNotice (s : State) (id : Nat) (az el : Int) : State :=
  match findRecord s id with
  | some r =>
    let arrived := fun u => changeRecord u id fun x => setMember x s.seq.number (.arrived az el)
    if isFlying r && memberState r s.seq.number == some .accepted then
      completionTest (queueFrame (arrived s) (.arrive id az el)) id
    else if r.state == .timedOut then
      setFlag (queueFrame (arrived s) (.arrive id az el)) flagCompactLate s.seq.number id
    else s
  | none => s

/-- The leg-start notice to the Compact Unit (R12, R107). -/
def compactLegStart (s : State) (id index count : Nat) : State :=
  changeRecord s id fun r => { r with progress := some (index, count) }

end Sys2Proof.Machine
end

