-- ==== Sys2Proof/Machine/Axis.lean ====
section
/-! DEFINITION. The Axis Engine's shared operations: rates, estimates, leg starts, stops, HALTED,
the flush, and the notices it takes from other blocks (R5 to R31). -/

namespace Sys2Proof.Machine

/-! ### Wind over the obeyed cells -/

/-- The record of a cell. -/
def cellAt (s : State) (c : Nat) : Cell := s.wind.cells.getD c Cell.initial

/-- The cells the station obeys (R145); none while no configuration is loaded (R147). -/
def obeyed (s : State) : List Nat :=
  match s.seq.config with
  | some c => c.ownCell :: c.followed
  | none => []

/-- The own cell is in WATCH (R10). -/
def ownCellWatch (s : State) : Bool :=
  s.seq.config.isSome && (cellAt s (cfg s).ownCell).state == .watch

/-- An obeyed cell is in STOW or SETTLE (R7, R11, R104). -/
def windHolds (s : State) : Bool :=
  (obeyed s).any fun c => (cellAt s c).state == .stow || (cellAt s c).state == .settle

/-! ### Distances, rates and estimates (R8, R9, R10) -/

/-- The distance of an axis: 0 between positions taken as equal (R1, R9). -/
def axisDist (s : State) (a b : Int) : Nat :=
  if within (cfg s).tolerance a b then 0 else (b - a).natAbs

/-- A rate under the caps in force (R10). -/
def capped (s : State) (rate axisMax : Nat) : Nat :=
  let r := min rate axisMax
  let r := if ownCellWatch s then min r (cfg s).watchCap else r
  if s.sensor.cold then min r (cfg s).coldCap else r

/-- The effective azimuth rate of an entry if its leg started now (R10). -/
def effectiveAz (s : State) (e : MoveEntry) : Nat := capped s e.rateAz (cfg s).azMax

/-- The effective elevation rate of an entry if its leg started now (R10). -/
def effectiveEl (s : State) (e : MoveEntry) : Nat := capped s e.rateEl (cfg s).elMax

/-- The axis time in ms, rounded up (R10). -/
def axisTime (d rate : Nat) : Nat := ceilDiv (d * 1000) rate

/-- The leg count of a straight move (R9). -/
def legCount (s : State) (az el az' el' : Int) : Nat :=
  ceilDiv (max (axisDist s az az') (axisDist s el el')) (cfg s).legLength

/-- The target of leg `k` of `n` on one axis, truncated toward the start (R9). -/
def legTarget (start target : Int) (k n : Nat) : Int :=
  if k == n then target else start + ((target - start) * k).tdiv n

/-- The estimate of leg `k` of `n` of a straight move (R8, R10). -/
def cutEstimate (s : State) (e : MoveEntry) (az el : Int) (n k : Nat) : Nat :=
  let dAz := if axisDist s az e.az == 0 then 0
    else (legTarget az e.az k n - legTarget az e.az (k - 1) n).natAbs
  let dEl := if axisDist s el e.el == 0 then 0
    else (legTarget el e.el k n - legTarget el e.el (k - 1) n).natAbs
  max (axisTime dAz (effectiveAz s e)) (axisTime dEl (effectiveEl s e)) + 1000

/-- The estimates of the legs after leg `done` of a straight move from a position (R8). -/
def cutEstimates (s : State) (e : MoveEntry) (az el : Int) (done n : Nat) : Nat :=
  ((List.range' (done + 1) (n - done)).map (cutEstimate s e az el n)).sum

/-- The estimate of an azimuth search: 400 degrees at creep rate (R8). -/
def searchAzEstimate (s : State) : Nat := axisTime 400000 (cfg s).creep + 1000

/-- The estimate of an elevation search: the climb to 90000 mdeg at creep rate (R8). -/
def searchElEstimate (s : State) (el : Int) : Nat :=
  axisTime (90000 - el).toNat (cfg s).creep + 1000

/-- The estimate of the stow leg from an elevation (R22, R23). -/
def stowEstimate (s : State) (el : Int) : Nat :=
  if s.axis.refEl then axisTime ((cfg s).stowEl - el).toNat (cfg s).elMax + 1000
  else axisTime 90000 (cfg s).creep + 1000

/-- The estimate of an entry that begins at a position (R8). -/
def entryEstimate (s : State) (e : MoveEntry) (az el : Int) : Nat :=
  match e.origin with
  | .reference .az => searchAzEstimate s
  | .reference .el => searchElEstimate s el
  | .stow => stowEstimate s el
  | _ => cutEstimates s e az el 0 (legCount s az el e.az e.el)

/-- The estimates of a list of entries, the first beginning at a position (R8). -/
def entriesEstimate (s : State) : List MoveEntry → Int → Int → Nat
  | [], _, _ => 0
  | e :: rest, az, el => entryEstimate s e az el + entriesEstimate s rest e.az e.el

/-- The estimate of the head entry's legs not yet started (R8); a stow leg that a stop has cut is
flown again (R15, R30). -/
def headEstimate (s : State) (e : MoveEntry) : Nat :=
  match e.plan with
  | some p =>
    match e.origin with
    | .reference _ => 0
    | .stow => if s.axis.leg.isSome then 0 else stowEstimate s s.axis.posEl
    | _ => cutEstimates s e p.startAz p.startEl p.index p.count
  | none => entryEstimate s e s.axis.posAz s.axis.posEl

/-- The queue finish estimate of a queue, in total milliseconds (R8). -/
def finishEstimate (s : State) (queue : List MoveEntry) : Nat :=
  nowMs s + ((s.axis.leg.map fun l => l.estimate - l.run).getD 0) +
    match queue with
    | [] => 0
    | e :: rest => headEstimate s e + entriesEstimate s rest e.az e.el

/-! ### Removing entries -/

/-- The joint-withdrawn notices of a list of entries taken out of the queue (R5). -/
def noticeRemoved (s : State) (gone : List MoveEntry) (cause : Nat) : State :=
  gone.foldl (fun t e => if e.origin == .joint then jointWithdrawn t e.compactId cause else t) s

/-- A flush: every entry but a STOW entry leaves the queue (R5). -/
def flush (s : State) (cause : Nat) : State :=
  let gone := s.axis.queue.filter fun e => e.origin != .stow
  noticeRemoved (s.withAxis { s.axis with
    queue := s.axis.queue.filter fun e => e.origin == .stow
    jointHeld := false
    withdrawPending := false }) gone cause

/-- The head entry leaves the queue; a JOINT entry's marks go with it. -/
def popHead (a : AxisUnit) : AxisUnit :=
  { a with queue := a.queue.tail, jointHeld := false, withdrawPending := false }

/-- The queue without STOW entries. -/
def dropStow (a : AxisUnit) : AxisUnit :=
  { a with queue := a.queue.filter fun e => e.origin != .stow }

/-- The STOW entry (R5).  Its azimuth target is the azimuth at which it is placed, until its leg
starts (`aimStow`; log 54). -/
def stowEntry (s : State) : MoveEntry where
  origin := .stow
  az := s.axis.posAz
  el := (cfg s).stowEl
  rateAz := 0
  rateEl := (cfg s).elMax
  compactId := 0
  console := 0
  plan := none

/-! ### Leg starts (R11, R12) -/

/-- A leg starts: the record is filled, the brakes of the moving axes released, the Share Unit told
(R3, R12). -/
def startLeg (s : State) (l : Leg) (m : Motion) : State :=
  judgeBlocked (shareLegStart (s.withAxis { s.axis with
    leg := some l
    motion := m
    releasedAz := l.movesAz
    releasedEl := l.movesEl
    gapRun := 0 }) l.movesAz l.movesEl)

/-- The stow leg's record (R22, R23). -/
def stowLeg (s : State) (e : MoveEntry) : Leg where
  kind := if s.axis.refEl then .stow else .stowUnreferenced
  descended := false
  origin := .stow
  startAz := s.axis.posAz
  startEl := s.axis.posEl
  targetAz := s.axis.posAz
  targetEl := e.el
  movesAz := false
  movesEl := true
  rateAz := 0
  rateEl := if s.axis.refEl then (cfg s).elMax else (cfg s).creep
  estimate := stowEstimate s s.axis.posEl
  startedAt := now s
  run := 0

/-- The head entry with its legs fixed and its leg index raised (R9). -/
def planHead (a : AxisUnit) (p : LegPlan) : AxisUnit :=
  match a.queue with
  | e :: rest => { a with queue := { e with plan := some p } :: rest }
  | [] => a

/-- The STOW entry at the head takes the azimuth at which its leg starts as its target (R22; log
54). -/
def aimStow (a : AxisUnit) : AxisUnit :=
  match a.queue with
  | e :: rest => { a with queue := { e with az := a.posAz } :: rest }
  | [] => a

/-- The stow leg cannot start: the elevation is locked, the state HALTED, or the elevation
UNREFERENCED with its pair faulted (1.9), whether or not the mark is set (R3, R11, R23, R42). -/
def stowBlocked (s : State) : Bool := (blockCause s (lockMask s)).isSome

/-- The stow needs no further motion: the STOW entry leaves the queue, the brakes engage, and the
dish is STOWED (R22, R23), or IDLE where a calm notice has cleared the mark (log 53). -/
def becomeStowed (s : State) : State :=
  judgeBlocked (s.withAxis { popHead s.axis with
    motion := if s.axis.stowMark then .stowed else .idle
    releasedAz := false
    releasedEl := false })

/-- The STOW entry's leg starts: its target azimuth is where the dish stands (R22, R23). -/
def flyStow (s : State) (e : MoveEntry) : State :=
  startLeg (s.withAxis (planHead (aimStow s.axis) ⟨s.axis.posAz, s.axis.posEl, 1, 1⟩))
    (stowLeg s e) .stowing

/-- The stow leg of the STOW entry at the head starts, unless the dish is stowed already (R22,
R23). -/
def startStow (s : State) (e : MoveEntry) : State :=
  if s.axis.refEl then
    if e.el ≤ s.axis.posEl || within (cfg s).tolerance s.axis.posEl e.el then becomeStowed s
    else flyStow s e
  else if s.pins.elUpper then becomeStowed s
  else flyStow s e

/-- The legs of the head entry: as fixed, or fixed now from the actual position (R9). -/
def planOf (s : State) (e : MoveEntry) : LegPlan :=
  match e.plan with
  | some p => p
  | none =>
    match e.origin with
    | .reference _ => ⟨s.axis.posAz, s.axis.posEl, 0, 1⟩
    | _ => ⟨s.axis.posAz, s.axis.posEl, 0,
        legCount s s.axis.posAz s.axis.posEl e.az e.el⟩

/-- The next leg of the head entry, from the dish's actual position (R9, R10, R20); an axis whose
leg target is exactly its actual position does not move in it (log 63). -/
def nextLeg (s : State) (e : MoveEntry) (p : LegPlan) : Leg :=
  let a := s.axis
  match e.origin with
  | .reference .az =>
    { kind := .search .az, descended := false, origin := e.origin
      startAz := a.posAz, startEl := a.posEl
      targetAz := e.az, targetEl := a.posEl, movesAz := true, movesEl := false
      rateAz := (cfg s).creep, rateEl := 0, estimate := searchAzEstimate s
      startedAt := now s, run := 0 }
  | .reference .el =>
    { kind := if s.pins.elUpper then .descent else .search .el
      descended := s.pins.elUpper, origin := e.origin
      startAz := a.posAz, startEl := a.posEl, targetAz := a.posAz, targetEl := e.el
      movesAz := false, movesEl := true, rateAz := 0, rateEl := (cfg s).creep
      estimate := searchElEstimate s a.posEl, startedAt := now s, run := 0 }
  | _ =>
    let k := p.index + 1
    let movesAz := axisDist s p.startAz e.az != 0
    let movesEl := axisDist s p.startEl e.el != 0
    let targetAz := if movesAz then legTarget p.startAz e.az k p.count else a.posAz
    let targetEl := if movesEl then legTarget p.startEl e.el k p.count else a.posEl
    { kind := .normal, descended := false, origin := e.origin
      startAz := a.posAz, startEl := a.posEl
      targetAz := targetAz, targetEl := targetEl
      movesAz := movesAz && targetAz != a.posAz, movesEl := movesEl && targetEl != a.posEl
      rateAz := effectiveAz s e, rateEl := effectiveEl s e
      estimate := max (axisTime (targetAz - a.posAz).natAbs (effectiveAz s e))
        (axisTime (targetEl - a.posEl).natAbs (effectiveEl s e)) + 1000
      startedAt := now s, run := 0 }

/-- The sweep of a leg (R11, R55). -/
def legSweep (s : State) (l : Leg) : Sweep :=
  match l.kind with
  | .search .az => sweepSearchAz s l.startEl
  | .search .el => sweepSearchEl s l.startAz l.startEl l.descended
  | .descent => sweepSearchEl s l.startAz l.startEl true
  | .normal => sweepOf s l.movesAz l.movesEl l.startAz l.startEl l.targetAz l.targetEl
  | _ => sweepOf s false true l.startAz l.startEl l.startAz (max l.startEl l.targetEl)

/-- A leg the engine has chosen starts, and the Compact Unit is told of a JOINT entry's (R9,
R12). -/
def flyLeg (s : State) (e : MoveEntry) (p : LegPlan) (l : Leg) : State :=
  let t := startLeg (s.withAxis (planHead s.axis { p with index := p.index + 1 })) l .leg
  if e.origin == .joint then compactLegStart t e.compactId (p.index + 1) p.count else t

/-- The head entry fails the sweep test at its leg start and is removed; its flag is set before the
notice of a JOINT entry (R11, R59; log 72). -/
def removeForSector (s : State) (e : MoveEntry) (neighbour : Nat) : State :=
  let t := setFlag (s.withAxis (popHead s.axis)) flagKeepOutStop 1 neighbour
  if e.origin == .joint then jointWithdrawn t e.compactId reasonKeepOut else t

/-- The head entry has no leg to fly and leaves the queue as completed (R9). -/
def completeHead (s : State) (e : MoveEntry) : State :=
  let t := s.withAxis (popHead s.axis)
  if e.origin == .joint then arrivalNotice t e.compactId s.axis.posAz s.axis.posEl else t

/-- The state lets a leg start: READY, and IDLE or GAP with the minimum gap passed (R11). -/
def legMayStart (s : State) : Bool :=
  isReady s && (s.axis.motion == .idle || (s.axis.motion == .gap && decide (100 ≤ s.axis.gapRun)))

/-- The engine tries to start a leg of the head entry (R11); `fuel` bounds the entries that leave
the queue without a leg.  A STOW entry starts its leg only while the stow order still holds (R21,
R45); one found free to start with the mark cleared leaves the queue, as at the calm notice
(R24; log 53). -/
def tryStartN : Nat → State → State
  | 0, s => s
  | fuel + 1, s =>
    if legMayStart s then
      match s.axis.queue with
      | [] => if s.axis.motion == .gap then toIdle s else s
      | e :: _ =>
        if e.origin == .stow then
          if stowBlocked s then s
          else if s.axis.stowMark then startStow s e
          else tryStartN fuel (s.withAxis (popHead s.axis))
        else if s.axis.stowMark || windHolds s || (e.origin == .joint && s.axis.jointHeld) then s
        else
          let p := planOf s e
          if p.count == 0 then tryStartN fuel (completeHead s e)
          else
            let l := nextLeg s e p
            if (l.movesAz && (lockMask s).az) || (l.movesEl && (lockMask s).el) then s
            else
              match sweepTest s (legSweep s l) with
              | n :: _ => tryStartN fuel (removeForSector s e n)
              | [] => flyLeg s e p l
    else s

/-- The engine tries to start a leg (R11). -/
def tryStart (s : State) : State := tryStartN (s.axis.queue.length + 1) s

/-- The dish goes on after a stop: the stow leg starts where the STOW entry waits and nothing blocks
it, whatever the mark, and otherwise a leg is tried (R15; log 53). -/
def goOn (s : State) : State :=
  match s.axis.queue with
  | e :: _ =>
    if e.origin == .stow && legMayStart s && !stowBlocked s then startStow s e else tryStart s
  | [] => tryStart s

/-! ### Stops and HALTED (R15, R18) -/

/-- A controlled stop begins with a reason (R15). -/
def beginStop (s : State) (r : StopReason) : State :=
  judgeBlocked (s.withAxis { s.axis with
    leg := none, stop := some ⟨[r], 0, 0⟩, motion := .stopping })

/-- A reason added to the stop record (R15). -/
def addReason (s : State) (r : StopReason) : State :=
  match s.axis.stop with
  | some st =>
    s.withAxis { s.axis with
      stop := some { st with
        reasons := if st.reasons.contains r then st.reasons else st.reasons ++ [r] } }
  | none => s

/-- HALTED is entered from any other state (R18): leg or stop ends, brakes engage, the motion
commit is released and the queue flushed.  A STALL recorded in a stop so ended is dropped
(log 64); the frames of the flush come before a STOW_BLOCKED (log 72). -/
def enterHalted (s : State) : State :=
  if s.axis.motion == .halted then s
  else
    let t := (s.withAxis { s.axis with
      leg := none, stop := none, motion := .halted
      releasedAz := false, releasedEl := false }).withReport { s.report with haltedFlags := [] }
    judgeBlocked (flush (shareLegEnd t) reasonFault)

/-- A fault condition: HALTED with all its notices, and then its flag with a detail (R17, R18, R20;
log 72). -/
def haltWith (s : State) (flag detail : Nat) : State := setFlag (enterHalted s) flag detail 0

/-- The detail of AXIS_LIMIT (R189). -/
def limitDetail : Axis → LimitEnd → Nat
  | .az, .lower => 1
  | .az, .upper => 2
  | .el, .lower => 3
  | .el, .upper => 4

/-- The detail that names an axis: 1 AZ, 2 EL (R189). -/
def axisDetail : Axis → Nat
  | .az => 1
  | .el => 2

/-- The detail that names each axis for which a condition holds: 1 AZ, 2 EL, 3 both (R189). -/
def axesDetail (az el : Bool) : Nat := (if az then 1 else 0) + (if el then 2 else 0)

/-- The elevation upper limit counts as inactive while the elevation is UNREFERENCED and the lower
limit inactive (R19, R31). -/
def elUpperCounts (s : State) : Bool := s.pins.elUpper && (s.axis.refEl || s.pins.elLower)

/-- The fault conditions the inputs show, as flags with their details (R19, R31): those of the
azimuth first, so that of two details of one flag the elevation's stays (log 71). -/
def faultsPresent (s : State) : List (Nat × Nat) :=
  (if s.pins.azLower && s.pins.azUpper then [(flagAxisLimit, 5)]
   else if s.pins.azLower then [(flagAxisLimit, 1)]
   else if s.pins.azUpper then [(flagAxisLimit, 2)] else []) ++
  (if s.pins.elLower && s.pins.elUpper then [(flagAxisLimit, 6)]
   else if s.pins.elLower then [(flagAxisLimit, 3)]
   else if elUpperCounts s then [(flagAxisLimit, 4)] else []) ++
  (if s.pins.azFault then [(flagDriveFault, 1)] else []) ++
  (if s.pins.elFault then [(flagDriveFault, 2)] else []) ++
  (if s.pins.azValid then [] else [(flagEncoderFault, 1)]) ++
  (if s.pins.elValid then [] else [(flagEncoderFault, 2)])

/-- The flags of the conditions present are set (R19, R31). -/
def setFaults (s : State) (faults : List (Nat × Nat)) : State :=
  faults.foldl (fun t f => setFlag t f.1 f.2 0) s

/-- The elevation limit-pair mark set where both elevation limits are active (R17). -/
def markPair (s : State) : State :=
  if s.pins.elLower && s.pins.elUpper then s.withAxis { s.axis with pairFaulted := true } else s

/-- The inputs read afresh in SELFCHECK (R31, R184). -/
def readInputsAfresh (s : State) : State :=
  match faultsPresent s with
  | [] => s
  | faults => setFaults (enterHalted (markPair s)) faults

/-! ### Notices from other blocks -/

/-- A stow order as the Axis Engine takes it (R21). -/
def axisStowOrder (s : State) : State :=
  if s.axis.stowMark || s.axis.motion == .stowing || s.axis.motion == .stowed then
    s.withAxis { s.axis with stowMark := true }
  else
    let gone := s.axis.queue
    let t := noticeRemoved (s.withAxis { s.axis with
      stowMark := true, queue := [stowEntry s], jointHeld := false
      withdrawPending := false }) gone reasonStow
    match s.axis.motion with
    | .idle => tryStart t
    | .gap =>
      if stowBlocked t || !isReady t then toIdle t
      else
        match t.axis.queue with
        | e :: _ => startStow t e
        | [] => t
    | .leg => beginStop t .stow
    | .stopping => addReason t .stow
    | _ => t

/-- A calm notice as the Axis Engine takes it (R24). -/
def axisCalmNotice (s : State) : State :=
  let t := s.withAxis { s.axis with stowMark := false }
  match s.axis.motion with
  | .stowed => tryStart (toIdle t)
  | .idle => tryStart (t.withAxis (dropStow t.axis))
  | .halted => t.withAxis (dropStow t.axis)
  | .stopping => addReason (t.withAxis (dropStow t.axis)) .calm
  | _ => t

/-- The lock-mask change notice as the Axis Engine takes it (R25). -/
def axisMaskNotice (s : State) (old new : Scope) : State :=
  let elIn := new.el && !old.el
  if (new.az && !old.az) || elIn then
    match s.axis.motion with
    | .leg => flush (beginStop s .lock) reasonLock
    | .gap => flush (beginStop s .lock) reasonLock
    | .stopping => flush (addReason s .lock) reasonLock
    | .idle => flush s reasonLock
    | .stowing => if elIn then beginStop s .lock else s
    | _ => s
  else tryStart s

/-- The table-change notice as the Axis Engine takes it (R26, R59): the joint-withdrawn notice is
taken before KEEP_OUT_STOP is set (log 72). -/
def axisTableChange (s : State) : State :=
  match s.axis.motion, s.axis.leg with
  | .leg, some l =>
    match sweepTest s (legSweep s l) with
    | n :: _ => setFlag (flush (beginStop s .keepOut) reasonKeepOut) flagKeepOutStop 2 n
    | [] => s
  | _, _ => s

/-- The state notice of FAULTED for a clash as the Axis Engine takes it (R29). -/
def axisClash (s : State) : State :=
  match s.axis.motion with
  | .leg => flush (beginStop s .clash) reasonFault
  | .gap => flush (beginStop s .clash) reasonFault
  | .stowing => flush (beginStop s .clash) reasonFault
  | .stopping => flush (addReason s .clash) reasonFault
  | _ => flush s reasonFault

/-- HALTED as a remote MOTION reset takes it: left where the inputs are clear, else entered again
with the flags of the conditions present (R19) and the elevation limit-pair mark where both limits
are active (R17). -/
def leaveHalted (s : State) : State :=
  match faultsPresent s with
  | [] =>
    let t := s.withAxis { s.axis with
      motion := .idle
      pairFaulted := s.axis.pairFaulted && !s.axis.refEl
      queue :=
        if s.axis.stowMark && !s.axis.queue.any (fun e => e.origin == .stow) then
          s.axis.queue ++ [stowEntry s]
        else s.axis.queue }
    tryStart (judgeBlocked t)
  | faults => setFaults (markPair (s.withReport { s.report with haltedFlags := [] })) faults

/-- The motion-reset notice as the Axis Engine takes it (R30). -/
def axisMotionReset (s : State) : State :=
  match s.axis.motion with
  | .leg => flush (beginStop s .reset) reasonReset
  | .gap => flush (beginStop s .reset) reasonReset
  | .stowing => flush (beginStop s .reset) reasonReset
  | .stopping => flush (addReason s .reset) reasonReset
  | .idle => tryStart (flush s reasonReset)
  | .halted => leaveHalted (flush s reasonReset)
  | .stowed => s

/-! ### Requests of the Compact Unit (R27) -/

/-- The JOINT entry of a record (R5). -/
def jointEntry (s : State) (r : CompactRecord) : MoveEntry where
  origin := .joint
  az := r.ownAz
  el := r.el
  rateAz := (cfg s).azMax
  rateEl := (cfg s).elMax
  compactId := r.id
  console := 0
  plan := none

/-- The hold request (R27). -/
def axisHold (s : State) (id : Nat) : State :=
  if headIsJoint s id then s.withAxis { s.axis with jointHeld := true } else s

/-- The release request (R27). -/
def axisRelease (s : State) (id : Nat) : State :=
  if headIsJoint s id then tryStart (s.withAxis { s.axis with jointHeld := false }) else s

end Sys2Proof.Machine
end

