-- ==== Sys2Proof/Machine/Compact.lean ====
section
/-! DEFINITION. The Compact Unit: CALL evaluation, the start decision, motion start, holds, and the
notices it takes from other blocks (R94 to R118). -/

namespace Sys2Proof.Machine

/-! ### The warning condition (R28, R102) -/

/-- The warning condition holds (R28). -/
def warning (s : State) : Bool := s.pins.azWarning || s.pins.elWarning

/-- The own member state of a record is ACCEPTED. -/
def ownAccepted (s : State) (r : CompactRecord) : Bool :=
  memberState r s.seq.number == some .accepted

/-- The warning-raised notice (R102): the HOLDs are queued in list order (log 73). -/
def warningRaised (s : State) : State :=
  (s.compact.list.filter fun r => isLive r && ownAccepted s r).foldl
    (fun t r => queueFrame t (.hold r.id)) s

/-- The frame is a HOLD. -/
def isHold (e : TxEntry) : Bool :=
  match e.frame with
  | .hold _ => true
  | _ => false

/-- The warning-cleared notice: every HOLD not started is withdrawn, whatever its record, and then a
RESUME is queued where the own number holds (R102; the order of the two is log 57, that of the
records log 73). -/
def warningCleared (s : State) : State :=
  (s.compact.list.filter fun r =>
    isLive r && ownAccepted s r && r.holds.contains s.seq.number).foldl
      (fun t r => queueFrame t (.resume r.id)) (withdrawFrames s isHold)

/-! ### CALL (R94 to R99) -/

/-- The dishes of a member set, in ascending number (R94). -/
def callMembers (p : CallPayload) : List Nat :=
  (List.range' 1 59).filter fun n => p.members.getLsbD n

/-- A whole repeat of the CALL a record was made from (R96). -/
def sameCall (r : CompactRecord) (sender : Nat) (p : CallPayload) : Bool :=
  r.console == sender && r.partialMode == (p.mode == 1) &&
    r.members.map (·.station) == callMembers p && r.skyAz == p.skyAz && r.el == p.el &&
    r.start == p.start && r.deadline == p.deadline

/-- The record of a list with the latest start earlier than an instant (R97). -/
def latestBefore (l : List CompactRecord) (t : Nat) : Option CompactRecord :=
  (l.filter fun r => isLive r && decide (toMs r.start < t)).getLast?

/-- The planned start position (R97). -/
def plannedStart (s : State) (start : ATime) : Int × Int :=
  match latestBefore s.compact.list (toMs start) with
  | some r => (r.ownAz, (r.el : Int))
  | none =>
    match s.axis.queue.getLast? with
    | some e => (e.az, e.el)
    | none => (s.axis.posAz, s.axis.posEl)

/-- One candidate of the wrap choice is better than another from a start azimuth: nearer to it,
then nearer 0, then the positive one (R97). -/
def wrapBetter (start a b : Int) : Bool :=
  if (a - start).natAbs != (b - start).natAbs then
    decide ((a - start).natAbs < (b - start).natAbs)
  else if a.natAbs != b.natAbs then decide (a.natAbs < b.natAbs)
  else decide (b < a)

/-- The wrap choice (R97); none where no candidate lies within the azimuth limits. -/
def wrapChoice (s : State) (start : Int) (sky : Nat) : Option Int :=
  ([(sky : Int) - 360000, (sky : Int), (sky : Int) + 360000].filter
      fun a => inRange (cfg s).azLo (cfg s).azHi a).foldl
    (fun best a =>
      match best with
      | some b => if wrapBetter start a b then some a else some b
      | none => some a) none

/-- The JOINT estimate (R98). -/
def jointEstimate (s : State) (az el az' el' : Int) : Nat :=
  let e : MoveEntry :=
    { origin := .joint, az := az', el := el', rateAz := (cfg s).azMax, rateEl := (cfg s).elMax
      compactId := 0, console := 0, plan := none }
  cutEstimates s e az el 0 (legCount s az el az' el')

/-- The windows of a record and of a CALL overlap (R95). -/
def windowsOverlap (r : CompactRecord) (p : CallPayload) : Bool :=
  decide (toMs r.start ≤ toMs p.deadline) && decide (toMs p.start ≤ toMs r.deadline)

/-- A target's elevation lies within the configured limits. -/
def elWithinLimits (s : State) (el : Int) : Bool := inRange (cfg s).elLo (cfg s).elHi el

/-- Steps 10 to 13 of the checks of R95; the own azimuth of an ACCEPT, or the reason. -/
def callTarget (s : State) (p : CallPayload) : Except Nat Int :=
  let start := plannedStart s p.start
  if p.skyAz > 359999 || p.el > 90000 || !elWithinLimits s p.el then .error reasonLimit
  else
    match wrapChoice s start.1 p.skyAz with
    | none => .error reasonLimit
    | some az =>
      if !(sweepTest s (sweepOf s (axisDist s start.1 az != 0) (axisDist s start.2 p.el != 0)
          start.1 start.2 az p.el)).isEmpty then .error reasonKeepOut
      else if toMs p.deadline - toMs p.start < jointEstimate s start.1 start.2 az p.el then
        .error reasonSlow
      else if toMs p.start < finishEstimate s s.axis.queue then .error reasonBusy
      else .ok az

/-- Steps 3 to 13 of the checks of R95. -/
def callVerdict (s : State) (p : CallPayload) : Except Nat Int :=
  if 4 ≤ s.compact.list.length then .error reasonFull
  else if toMs p.start < nowMs s + 500 || toMs p.deadline ≤ toMs p.start then .error reasonTime
  else if s.compact.list.any fun r => isLive r && windowsOverlap r p then .error reasonOverlap
  else if windHolds s then .error reasonWind
  else if scopeMotion (lockMask s) then .error reasonLocked
  else if s.axis.motion == .halted then .error reasonFault
  else if !s.axis.refAz || !s.axis.refEl then .error reasonUnreferenced
  else callTarget s p

/-- The record of an accepted CALL (R99). -/
def newRecord (s : State) (sender : Nat) (p : CallPayload) (ownAz : Int) : CompactRecord where
  id := p.id
  console := sender
  partialMode := p.mode == 1
  skyAz := p.skyAz
  el := p.el
  ownAz := ownAz
  start := p.start
  deadline := p.deadline
  state := .forming
  members := (callMembers p).map fun n =>
    ⟨n, if n == s.seq.number then .accepted else .unanswered⟩
  holds := []
  progress := none
  terminalAt := none
  terminalRun := 0
  inserted := false

/-- Records are ordered by start time, then by compact id (R91). -/
def recordBefore (a b : CompactRecord) : Bool :=
  decide (toMs a.start < toMs b.start) || (toMs a.start == toMs b.start && decide (a.id < b.id))

/-- A record in its place in the list (R91). -/
def insertRecord (r : CompactRecord) : List CompactRecord → List CompactRecord
  | [] => [r]
  | x :: rest => if recordBefore r x then r :: x :: rest else x :: insertRecord r rest

/-- The CALL of a station that is READY (R95, R96, R99). -/
def evaluateCall (s : State) (sender : Nat) (p : CallPayload) : State :=
  match findRecord s p.id with
  | some r =>
    if sameCall r sender p then queueFrame s (.reply p.id 0 0)
    else queueFrame s (.reply p.id 1 reasonDuplicate)
  | none =>
    match callVerdict s p with
    | .error reason => queueFrame s (.reply p.id 1 reason)
    | .ok ownAz =>
      let t := queueFrame (s.withCompact { s.compact with
        list := insertRecord (newRecord s sender p ownAz) s.compact.list }) (.reply p.id 0 0)
      if warning s then queueFrame t (.hold p.id) else t

/-- A CALL names this station and 4.10 defines its fields (R94; log 13). -/
def callTaken (s : State) (sender : Nat) (p : CallPayload) : Bool :=
  isConsole sender && (callMembers p).contains s.seq.number && decide (p.mode ≤ 1) &&
    p.id != 0 && decide (p.start.ms ≤ 999) && decide (p.deadline.ms ≤ 999)

/-- A CALL as the Compact Unit takes it (R94). -/
def takeCall (s : State) (sender : Nat) (p : CallPayload) : State :=
  if callTaken s sender p then
    match s.seq.station with
    | .ready => evaluateCall s sender p
    | .listen =>
      if s.compact.pending.length < 4 then
        s.withCompact { s.compact with pending := s.compact.pending ++ [p.id] }
      else s
    | .faulted .config => queueFrame s (.reply p.id 1 reasonNotReady)
    | _ => s
  else s

/-! ### REPLY, HOLD, RESUME, CANCEL, ARRIVE, LEAVE -/

/-- The reason is one 4.10.3 defines for DECLINE (R100). -/
def isDeclineReason (n : Nat) : Bool := decide (1 ≤ n ∧ n ≤ 13)

/-- The reason is one R109 names for LEAVE. -/
def isLeaveReason (n : Nat) : Bool :=
  [reasonFault, reasonLimit, reasonKeepOut, reasonBusy, reasonStow, reasonLock,
    reasonReset].contains n

/-- The record's member list names a station. -/
def isMember (r : CompactRecord) (n : Nat) : Bool := r.members.any fun m => m.station == n

/-- A REPLY as the Compact Unit takes it (R100). -/
def takeReply (s : State) (sender id verdict reason : Nat) : State :=
  match findRecord s id with
  | some r =>
    if isMember r sender && r.state == .forming then
      match memberState r sender with
      | some m =>
        if mayLeave m then
          if verdict == 0 && reason == 0 then
            changeRecord s id fun x => setMember x sender .accepted
          else if verdict == 1 && isDeclineReason reason && reason != reasonDuplicate then
            changeRecord s id fun x => setMember x sender (.declined reason)
          else s
        else s
      | none => s
    else s
  | none => s

/-- A number joins the hold set, and the state follows the set (R101). -/
def addHold (s : State) (id n : Nat) : State :=
  match findRecord s id with
  | some r =>
    if isLive r then
      let t := changeRecord s id fun x =>
        { x with
          holds := if x.holds.contains n then x.holds else x.holds ++ [n]
          state := if x.state == .moving then .held else x.state }
      if r.state == .moving && r.inserted then axisHold t id else t
    else s
  | none => s

/-- A number leaves the hold set, and the state follows the set (R101). -/
def removeHold (s : State) (id n : Nat) : State :=
  match findRecord s id with
  | some r =>
    if isLive r then
      let empties := (r.holds.filter (· != n)).isEmpty
      let t := changeRecord s id fun x =>
        { x with
          holds := x.holds.filter (· != n)
          state := if x.state == .held && (x.holds.filter (· != n)).isEmpty then .moving
            else x.state }
      if r.state == .held && empties && r.inserted then axisRelease t id else t
    else s
  | none => s

/-- The sender of a HOLD or RESUME is a member or a console (R101). -/
def mayHold (s : State) (sender id : Nat) : Bool :=
  match findRecord s id with
  | some r => isMember r sender || isConsole sender
  | none => false

/-- A HOLD as the Compact Unit takes it (R101). -/
def takeHold (s : State) (sender id : Nat) : State :=
  if mayHold s sender id then addHold s id sender else s

/-- A RESUME as the Compact Unit takes it (R101). -/
def takeResume (s : State) (sender id : Nat) : State :=
  if mayHold s sender id then removeHold s id sender else s

/-- A CANCEL as the Compact Unit takes it (R113). -/
def takeCancel (s : State) (sender id : Nat) : State :=
  match findRecord s id with
  | some r =>
    if r.console == sender && isConsole sender && isLive r then makeTerminal s r .cancelled else s
  | none => s

/-- An ARRIVE as the Compact Unit takes it (R108). -/
def takeArrive (s : State) (sender id : Nat) (az el : Int) : State :=
  match findRecord s id with
  | some r =>
    if memberState r sender == some .accepted then
      let t := changeRecord s id fun x => setMember x sender (.arrived az el)
      if isFlying r then completionTest t id
      else if r.state == .timedOut then setFlag t flagCompactLate sender id
      else s
    else s
  | none => s

/-- A member becomes LEFT and the record responds (R109, R110). -/
def memberLeaves (s : State) (id n reason : Nat) : State :=
  match findRecord s id with
  | some r =>
    if isLive r && ((memberState r n).map mayLeave).getD false then
      afterLeft (changeRecord s id fun x => setMember x n (.left reason)) id
    else s
  | none => s

/-- A LEAVE as the Compact Unit takes it (R109). -/
def takeLeave (s : State) (sender id reason : Nat) : State :=
  if isLeaveReason reason then memberLeaves s id sender reason else s

/-- A peer-absent or peer-restarted notice as the Compact Unit takes it (R110): the records respond
in list order (log 73). -/
def compactPeerLost (s : State) (n : Nat) : State :=
  if isDish n then
    (s.compact.list.map (·.id)).foldl (fun t id => memberLeaves t id n reasonAbsent) s
  else s

/-! ### Stow order, calm notice and lock (R43, R104, R111) -/

/-- A stow order as the Compact Unit takes it (R104, R111). -/
def compactStowOrder (s : State) : State :=
  leaveAll (s.withCompact { s.compact with stowMark := true }) reasonStow

/-- A calm notice as the Compact Unit takes it (R104). -/
def compactCalmNotice (s : State) : State :=
  s.withCompact { s.compact with stowMark := false }

/-- The lock-mask change notice as the Compact Unit takes it (R43, R111). -/
def compactMaskNotice (s : State) (old new : Scope) : State :=
  if (new.az && !old.az) || (new.el && !old.el) then leaveAll s reasonLock else s

/-! ### The start time (R103, R104, R105) -/

/-- The reason with which a record cannot start its motion, or the re-made wrap choice (R104). -/
def startCheck (s : State) (r : CompactRecord) : Except Nat Int :=
  if s.compact.stowMark || windHolds s then .error reasonStow
  else if scopeMotion (lockMask s) then .error reasonLock
  else if s.axis.motion == .halted then .error reasonFault
  else if !s.axis.queue.isEmpty || (s.axis.motion != .idle && s.axis.motion != .gap) then
    .error reasonBusy
  else
    match wrapChoice s s.axis.posAz r.skyAz with
    | none => .error reasonLimit
    | some az =>
      if !elWithinLimits s r.el then .error reasonLimit
      else if !(sweepTest s (sweepOf s (axisDist s s.axis.posAz az != 0)
          (axisDist s s.axis.posEl r.el != 0) s.axis.posAz s.axis.posEl az r.el)).isEmpty then
        .error reasonKeepOut
      else .ok az

/-- The insert request: the JOINT entry becomes the only entry, held or not, and a leg is tried
(R5, R27, R104). -/
def insertJoint (s : State) (r : CompactRecord) : State :=
  tryStart (s.withAxis { s.axis with
    queue := [jointEntry s r]
    jointHeld := r.state == .held
    withdrawPending := false })

/-- Motion start of a record that has entered MOVING or HELD (R104); an insert the engine would
refuse is a failed check of step 4 (R105). -/
def motionStart (s : State) (id : Nat) : State :=
  match findRecord s id with
  | some r =>
    match startCheck s r with
    | .error reason => if ownAccepted s r then ownLeave s r reason else s
    | .ok az =>
      insertJoint (changeRecord s id fun x => { x with ownAz := az, inserted := true })
        { r with ownAz := az }
  | none => s

/-- The state of a member that is not ACCEPTED at the start of a PARTIAL compact (R103). -/
def leftAtStart : MemberState → MemberState
  | .unanswered => .left reasonNotReady
  | .declined reason => .left reason
  | m => m

/-- The start decision (R103). -/
def decideStart (s : State) (r : CompactRecord) : State :=
  let proceed := fun t =>
    motionStart (changeRecord t r.id fun x =>
      { x with state := if x.holds.isEmpty then .moving else .held }) r.id
  if r.partialMode then
    let t := changeRecord s r.id fun x =>
      { x with members := x.members.map fun m => { m with state := leftAtStart m.state } }
    if r.members.any fun m => m.state == .accepted && m.station != s.seq.number then proceed t
    else makeTerminal t r .abandoned
  else if r.members.all fun m => m.state == .accepted then proceed s
  else makeTerminal s r .abandoned

/-- The start time of a record in FORMING is reached (R103). -/
def startTime (s : State) (id : Nat) : State :=
  match findRecord s id with
  | some r =>
    if r.state == .forming && decide (toMs r.start ≤ nowMs s) then decideStart s r else s
  | none => s

/-- The deadline of a record is reached (R114), the start decision taken first where both are
(R106). -/
def deadline (s : State) (id : Nat) : State :=
  match findRecord s id with
  | some r =>
    if decide (toMs r.deadline ≤ nowMs s) && isLive r then
      let t := startTime s id
      match findRecord t id with
      | some r' => if isLive r' then makeTerminal t r' .timedOut else t
      | none => t
    else s
  | none => s

/-- The frame is an unstarted LEAVE of a record, but for a LEAVE(RESET) (R112). -/
def isLeaveOf (id : Nat) (e : TxEntry) : Bool :=
  match e.frame with
  | .leave i reason => i == id && reason != reasonReset
  | _ => false

/-- A terminal record is removed 5000 ms after its terminal time (R93, R112). -/
def removeRecord (s : State) (id : Nat) : State :=
  match findRecord s id with
  | some r =>
    if !isLive r && decide (5000 ≤ r.terminalRun) then
      (withdrawFrames s (isLeaveOf id)).withCompact { s.compact with
        list := s.compact.list.filter fun x => x.id != id }
    else s
  | none => s

/-! ### Resets and clash (R117, R118) -/

/-- The frame is one a MOTION reset withdraws: older than the frames the reset itself queues; of the
LEAVE frames, those of another reason than RESET, whose records the reset removes (R112, R117). -/
def isResetFrame (oldest : Nat) (e : TxEntry) : Bool :=
  decide (e.age < oldest) &&
    match e.frame with
    | .hold _ => true
    | .reply .. => true
    | .arrive .. => true
    | .resume _ => true
    | .leave _ reason => reason != reasonReset
    | _ => false

/-- The LEAVE(RESET) of one record, its RESUME and then its flag (R117; log 72). -/
def resetLeave (s : State) (r : CompactRecord) : State :=
  compactFailed (queueLeave s r reasonReset) reasonReset r.id

/-- The motion-reset notice as the Compact Unit takes it (R117). -/
def compactMotionReset (s : State) : State :=
  let leaving := s.compact.list.filter fun r => isLive r && ownAccepted s r
  let t := withdrawFrames (leaving.foldl resetLeave s) (isResetFrame s.line.nextAge)
  t.withCompact { t.compact with list := [], pending := [] }

/-- The compact ids of the live records that hold the own state ACCEPTED (R117, R118). -/
def liveAccepted (s : State) : List Nat :=
  (s.compact.list.filter fun r => isLive r && ownAccepted s r).map (·.id)

/-- The entry into FAULTED for a clash as the Compact Unit takes it (R118): COMPACT_FAILED is set
once where a live record held the own state ACCEPTED, with the compact id of that record (R116,
R189); of which one where there are several, and with which detail, is not stated (log 16). -/
def compactClash (s : State) : State :=
  let t := s.withCompact { s.compact with list := [] }
  match liveAccepted s with
  | [] => t
  | [id] => compactFailed (takeFree t).2 ((takeFree t).1 % 256) id
  | id :: rest =>
    let a := takeFree t
    let b := takeFree a.2
    compactFailed b.2 (a.1 % 256) ((id :: rest).getD (b.1 % (rest.length + 1)) id)

/-- The completion notice of an own HOLD: the own number joins the set of a live record, and a
RESUME is queued for the record at once where the warning condition does not hold (R102); for a
record that has been removed none is queued (log 78). -/
def ownHoldDone (s : State) (id : Nat) : State :=
  let t := addHold s id s.seq.number
  match findRecord s id with
  | some _ => if warning s then t else queueFrame t (.resume id)
  | none => t

/-- The completion notice of an own RESUME (R102). -/
def ownResumeDone (s : State) (id : Nat) : State := removeHold s id s.seq.number

end Sys2Proof.Machine
end

