-- ==== Sys2Proof/Machine/Motion.lean ====
section
/-! DEFINITION. MOVE admission and the events of motion: leg ends, gaps, stops, stalls, the axis
inputs and reference searches (R6, R7, R13 to R20, R23, R28). -/

namespace Sys2Proof.Machine

/-! ### MOVE (R6, R7) -/

/-- The purposes of a MOVE (4.10.2). -/
inductive Purpose where
  | point
  | referenceAz
  | referenceEl
  | undefined
  deriving DecidableEq, Repr

/-- The position a move will begin at (R7). -/
def beginPosition (s : State) : Int × Int :=
  match s.axis.queue.getLast? with
  | some e => (e.az, e.el)
  | none => (s.axis.posAz, s.axis.posEl)

/-- The move entry a MOVE asks for (R5, R6); a MOVE of undefined purpose is estimated by its fields
as a POINT would be (R7, R8; log 55). -/
def requestedEntry (s : State) (sender : Nat) (p : Purpose) (az : Int) (el rate : Nat) :
    MoveEntry :=
  let b := beginPosition s
  match p with
  | .referenceAz =>
    ⟨.reference .az, (cfg s).azIndex, b.2, (cfg s).creep, (cfg s).creep, 0, sender, none⟩
  | .referenceEl =>
    ⟨.reference .el, b.1, (cfg s).elIndex, (cfg s).creep, (cfg s).creep, 0, sender, none⟩
  | _ =>
    ⟨.solo, az, el, if rate == 0 then (cfg s).azMax else rate,
      if rate == 0 then (cfg s).elMax else rate, 0, sender, none⟩

/-- The move would change the azimuth (R7). -/
def changesAz (s : State) (p : Purpose) (az : Int) : Bool :=
  match p with
  | .point => axisDist s (beginPosition s).1 az != 0
  | .referenceAz => true
  | _ => false

/-- The move would change the elevation (R7). -/
def changesEl (s : State) (p : Purpose) (el : Nat) : Bool :=
  match p with
  | .point => axisDist s (beginPosition s).2 el != 0
  | .referenceEl => true
  | _ => false

/-- The sweep of the move's path (R7, R55).  Whether an elevation search queued behind other entries
begins with the descent is judged by the upper limit input as it stands now (log 47). -/
def pathSweep (s : State) (p : Purpose) (az : Int) (el : Nat) : Sweep :=
  let b := beginPosition s
  match p with
  | .referenceAz => sweepSearchAz s b.2
  | .referenceEl => sweepSearchEl s b.1 b.2 s.pins.elUpper
  | _ => sweepOf s (changesAz s p az) (changesEl s p el) b.1 b.2 az el

/-- A compact keeps the dish from taking a move (step 5 of R7). -/
def compactBusy (s : State) (e : MoveEntry) : Bool :=
  s.compact.list.any fun r =>
    isFlying r ||
      (r.state == .forming &&
        decide (toMs r.start < finishEstimate s (s.axis.queue ++ [e])))

/-- A POINT target lies outside the limits, or the purpose is undefined (step 6 of R7). -/
def outsideLimits (s : State) (p : Purpose) (az : Int) (el : Nat) : Bool :=
  match p with
  | .point =>
    !(inRange (cfg s).azLo (cfg s).azHi az && inRange (-270000) 270000 az &&
      elWithinLimits s el && inRange 0 90000 el)
  | .undefined => true
  | _ => false

/-- A POINT move would change an UNREFERENCED axis (step 7 of R7). -/
def changesUnreferenced (s : State) (p : Purpose) (az : Int) (el : Nat) : Bool :=
  p == .point &&
    ((changesAz s p az && !s.axis.refAz) || (changesEl s p el && !s.axis.refEl))

/-- The outcome of the checks of R7 on a MOVE. -/
def moveOutcome (s : State) (sender : Nat) (p : Purpose) (az : Int) (el rate : Nat) : Nat :=
  if !isReady s then outcomeNotReady
  else if windHolds s || s.axis.stowMark then outcomeWind
  else if (changesAz s p az && (lockMask s).az) || (changesEl s p el && (lockMask s).el) then
    outcomeLocked
  else if s.axis.motion == .halted then outcomeFault
  else if compactBusy s (requestedEntry s sender p az el rate) then outcomeBusy
  else if outsideLimits s p az el then outcomeLimit
  else if changesUnreferenced s p az el then outcomeUnreferenced
  else if !(sweepTest s (pathSweep s p az el)).isEmpty then outcomeKeepOut
  else if 8 ≤ s.axis.queue.length then outcomeFull
  else outcomeOk

/-- The ANSWER to a MOVE (1.4). -/
def answerMove (s : State) (sender purpose outcome : Nat) : State :=
  queueFrame s (.answer sender subjectMove purpose outcome none)

/-- An admitted move joins the tail of the queue, and a leg is tried from IDLE (R7, R11). -/
def admitMove (s : State) (e : MoveEntry) : State :=
  let t := s.withAxis { s.axis with queue := s.axis.queue ++ [e] }
  if s.axis.motion == .idle then tryStart t else t

/-- A MOVE as the Axis Engine takes it, `code` being its purpose field (R6, R7): the ANSWER is
queued before a leg is tried (log 72). -/
def takeMove (s : State) (sender target code : Nat) (p : Purpose) (az : Int) (el rate : Nat) :
    State :=
  if target == s.seq.number && isConsole sender then
    match s.seq.station with
    | .ready =>
      let outcome := moveOutcome s sender p az el rate
      let t := answerMove s sender code outcome
      if outcome == outcomeOk then admitMove t (requestedEntry s sender p az el rate) else t
    | .listen =>
      s.withAxis { s.axis with pendingAnswers := s.axis.pendingAnswers ++ [(sender, code)] }
    | .faulted .config => answerMove s sender code outcomeNotReady
    | _ => s
  else s

/-! ### Leg ends and gaps (R13, R14) -/

/-- The positions as the encoders read (R1). -/
def readEncoders (s : State) (p : Encoders) : State :=
  s.withAxis { s.axis with posAz := p.az, posEl := p.el }

/-- The leg-in-flight record is cleared and the motion commit released (R13). -/
def closeLeg (s : State) : State := shareLegEnd (s.withAxis { s.axis with leg := none })

/-- The gap begins (R13). -/
def enterGap (s : State) : State :=
  judgeBlocked (s.withAxis { s.axis with motion := .gap, gapRun := 0 })

/-- The stow leg has ended: the STOW entry leaves, and the dish is STOWED, or IDLE where the mark
has been cleared (R22, R23). -/
def endStow (s : State) : State :=
  let t := closeLeg s
  judgeBlocked (t.withAxis { dropStow t.axis with
    motion := if t.axis.stowMark then .stowed else .idle
    releasedAz := false
    releasedEl := false })

/-- The leg that has ended was the last of its entry (R9). -/
def lastFlown (e : MoveEntry) : Bool :=
  match e.plan with
  | some p => decide (p.count ≤ p.index)
  | none => true

/-- A leg of a move has ended (R13); a pending withdrawal of the JOINT entry is applied (R27). -/
def endMoveLeg (s : State) : State :=
  let t := closeLeg s
  match t.axis.queue with
  | [] => enterGap t
  | e :: _ =>
    if lastFlown e then
      let u := t.withAxis (popHead t.axis)
      enterGap (if e.origin == .joint then
          arrivalNotice u e.compactId s.axis.posAz s.axis.posEl
        else u)
    else if e.origin == .joint && t.axis.withdrawPending then
      enterGap (t.withAxis (dropJoint t.axis))
    else enterGap t

/-- The axes stand at the leg targets (R13). -/
def atTargets (s : State) (l : Leg) (p : Encoders) : Bool :=
  within (cfg s).tolerance p.az l.targetAz && within (cfg s).tolerance p.el l.targetEl

/-- Both axes reach their leg targets (R13, R22). -/
def legEnded (s : State) (p : Encoders) : State :=
  match s.axis.leg with
  | some l =>
    if atTargets s l p then
      match l.kind with
      | .normal => endMoveLeg (readEncoders s p)
      | .stow => endStow (readEncoders s p)
      | _ => s
    else s
  | none => s

/-- The minimum gap has passed (R14). -/
def gapMinimum (s : State) : State :=
  if s.axis.motion == .gap && decide (100 ≤ s.axis.gapRun) then tryStart s else s

/-- A gap has lasted 2 s and the brakes engage (R3, R14). -/
def gapBrakes (s : State) : State :=
  if s.axis.motion == .gap && decide (2000 ≤ s.axis.gapRun) then
    s.withAxis { s.axis with releasedAz := false, releasedEl := false }
  else s

/-! ### Stops and stalls (R15, R16) -/

/-- The milliseconds after which a controlled stop is stalled (R16). -/
def stopLimit (s : State) : Nat :=
  ceilDiv (max (cfg s).azMax (cfg s).elMax * 1000) (cfg s).decel + 2000

/-- The dish at the end of a controlled stop, before it goes on: brakes engaged, commit released
(R15). -/
def endStop (s : State) : State :=
  shareLegEnd (s.withAxis { s.axis with
    stop := none, motion := .idle, releasedAz := false, releasedEl := false })

/-- A controlled stop ends and the dish goes on by the reasons recorded (R15, R16). -/
def stopEnded (s : State) (p : Encoders) (azRate elRate : Nat) : State :=
  match s.axis.motion, s.axis.stop with
  | .stopping, some st =>
    if azRate < (cfg s).creep && elRate < (cfg s).creep then
      let t := readEncoders s p
      if st.reasons.contains .stall then haltWith t flagDriveStall st.stallDetail
      else if st.reasons.contains .clash then judgeBlocked (endStop t)
      else goOn (judgeBlocked (endStop t))
    else s
  | _, _ => s

/-- An axis has not reached its leg target, whether it moves or not (R16); the axis a search or an
unreferenced stow leg moves has none to reach (log 45). -/
def shortOfTarget (s : State) (l : Leg) (moves : Bool) (at_ target : Int) : Bool :=
  (moves && l.kind != .normal && l.kind != .stow) || !within (cfg s).tolerance at_ target

/-- A leg has run longer than twice its estimate plus 2000 ms (R16). -/
def legStalled (s : State) (p : Encoders) : State :=
  match s.axis.leg with
  | some l =>
    if 2 * l.estimate + 2000 < l.run then
      let detail := axesDetail (shortOfTarget s l l.movesAz p.az l.targetAz)
        (shortOfTarget s l l.movesEl p.el l.targetEl)
      let t := readEncoders s p
      flush (judgeBlocked (t.withAxis { t.axis with
        leg := none, stop := some ⟨[.stall], 0, detail⟩, motion := .stopping })) reasonFault
    else s
  | none => s

/-- A controlled stop has outlasted its limit (R16). -/
def stopStalled (s : State) (p : Encoders) (azRate elRate : Nat) : State :=
  match s.axis.motion, s.axis.stop with
  | .stopping, some st =>
    if stopLimit s ≤ st.run then
      haltWith (readEncoders s p) flagDriveStall
        (axesDetail (decide ((cfg s).creep ≤ azRate)) (decide ((cfg s).creep ≤ elRate)))
    else s
  | _, _ => s

/-! ### The axis inputs (R17, R18, R28) -/

/-- A limit input as it stands. -/
def limitPin (p : Pins) : Axis → LimitEnd → Bool
  | .az, .lower => p.azLower
  | .az, .upper => p.azUpper
  | .el, .lower => p.elLower
  | .el, .upper => p.elUpper

/-- The pins with one limit input set. -/
def setLimitPin (p : Pins) (a : Axis) (e : LimitEnd) (v : Bool) : Pins :=
  match a, e with
  | .az, .lower => { p with azLower := v }
  | .az, .upper => { p with azUpper := v }
  | .el, .lower => { p with elLower := v }
  | .el, .upper => { p with elUpper := v }

/-- Both limit inputs of an axis are active (R17). -/
def pairActive (p : Pins) : Axis → Bool
  | .az => p.azLower && p.azUpper
  | .el => p.elLower && p.elUpper

/-- The axis a search in flight searches (R20). -/
def searching (s : State) : Option Axis :=
  match s.axis.leg with
  | some l =>
    match l.kind with
    | .search a => some a
    | .descent => some .el
    | _ => none
  | none => none

/-- The detail of ENCODER_FAULT for a failed search: 3 AZ, 4 EL (R20, R189). -/
def searchDetail : Axis → Nat
  | .az => 3
  | .el => 4

/-- The unreferenced stow leg is in flight (R23). -/
def unreferencedStow (s : State) : Bool :=
  match s.axis.leg with
  | some l => l.kind == .stowUnreferenced
  | none => false

/-- A hard limit input has become active (R17, R20, R23; log 32). -/
def limitActive (s : State) (a : Axis) (e : LimitEnd) : State :=
  let t := markPair s
  match searching t with
  | some x => haltWith t flagEncoderFault (searchDetail x)
  | none =>
    if pairActive t.pins a then haltWith t flagAxisLimit (4 + axisDetail a)
    else if unreferencedStow t && a == .el && e == .upper then endStow t
    else haltWith t flagAxisLimit (limitDetail a e)

/-- An input of the axes may be read: the part is not held in reset (R187). -/
def running (s : State) : Bool := !s.seq.held

/-- LIMIT_INPUT: the input acts on becoming active (R17). -/
def limitEvent (s : State) (a : Axis) (e : LimitEnd) (p : Encoders) : State :=
  if limitPin s.pins a e then s
  else
    let t := s.withPins (setLimitPin s.pins a e true)
    if running s then limitActive (readEncoders t p) a e else t

/-- The upward search that follows the descent (R20). -/
def descentOver (s : State) : State :=
  match s.axis.leg with
  | some l =>
    if l.kind == .descent && !s.pins.elUpper then
      s.withAxis { s.axis with leg := some { l with kind := .search .el } }
    else s
  | none => s

/-- LIMIT_INPUT_INACTIVE (R17, R20). -/
def limitReleased (s : State) (a : Axis) (e : LimitEnd) : State :=
  descentOver (s.withPins (setLimitPin s.pins a e false))

/-- An amplifier fault input as it stands. -/
def faultPin (p : Pins) : Axis → Bool
  | .az => p.azFault
  | .el => p.elFault

/-- The pins with one amplifier fault input set. -/
def setFaultPin (p : Pins) (a : Axis) (v : Bool) : Pins :=
  match a with
  | .az => { p with azFault := v }
  | .el => { p with elFault := v }

/-- An encoder's signal-valid indication as it stands. -/
def validPin (p : Pins) : Axis → Bool
  | .az => p.azValid
  | .el => p.elValid

/-- The pins with one signal-valid indication set. -/
def setValidPin (p : Pins) (a : Axis) (v : Bool) : Pins :=
  match a with
  | .az => { p with azValid := v }
  | .el => { p with elValid := v }

/-- The pins with one amplifier warning input set. -/
def setWarningPin (p : Pins) (a : Axis) (v : Bool) : Pins :=
  match a with
  | .az => { p with azWarning := v }
  | .el => { p with elWarning := v }

/-- AMPLIFIER_FAULT: the input acts on becoming active (R18). -/
def ampFaultEvent (s : State) (a : Axis) (p : Encoders) : State :=
  if faultPin s.pins a then s
  else
    let t := s.withPins (setFaultPin s.pins a true)
    if running s then haltWith (readEncoders t p) flagDriveFault (axisDetail a) else t

/-- ENCODER_LOSS: the indication acts on being lost (R18). -/
def encoderLossEvent (s : State) (a : Axis) (p : Encoders) : State :=
  if validPin s.pins a then
    let t := s.withPins (setValidPin s.pins a false)
    if running s then haltWith (readEncoders t p) flagEncoderFault (axisDetail a) else t
  else s

/-- AMPLIFIER_FAULT_INACTIVE (R19). -/
def ampFaultReleased (s : State) (a : Axis) : State :=
  s.withPins (setFaultPin s.pins a false)

/-- ENCODER_SIGNAL_VALID (R19). -/
def encoderReturned (s : State) (a : Axis) : State :=
  s.withPins (setValidPin s.pins a true)

/-- AMPLIFIER_WARNING: a notice at each change of the warning condition (R28). -/
def warningEvent (s : State) (a : Axis) (active : Bool) : State :=
  let t := s.withPins (setWarningPin s.pins a active)
  if running s then
    if warning t && !warning s then warningRaised t
    else if !warning t && warning s then warningCleared t
    else t
  else t

/-! ### Reference searches (R20) -/

/-- The index mark seen: position set, axis REFERENCED, the leg ends with GAP (R13, R20).  A mark
that passes during the descent of an elevation search is not taken (log 47). -/
def indexSeen (s : State) (a : Axis) : State :=
  match s.axis.leg with
  | some l =>
    if l.kind == .search a then
      let t := match a with
        | .az => s.withAxis { s.axis with posAz := (cfg s).azIndex, refAz := true }
        | .el => s.withAxis { s.axis with
            posEl := (cfg s).elIndex, refEl := true, pairFaulted := false }
      endMoveLeg t
    else s
  | none => s

/-- The azimuth search has travelled 400 degrees without its mark (R20). -/
def travelLimit (s : State) (p : Encoders) : State :=
  match s.axis.leg with
  | some l =>
    if l.kind == .search .az && decide (400000 ≤ (p.az - l.startAz).natAbs) then
      haltWith (readEncoders s p) flagEncoderFault 3
    else s
  | none => s

/-- The descent has covered 5 degrees with the limit input still active (R20). -/
def descentLimit (s : State) (p : Encoders) : State :=
  match s.axis.leg with
  | some l =>
    if l.kind == .descent && s.pins.elUpper && decide (5000 ≤ l.startEl - p.el) then
      haltWith (readEncoders s p) flagEncoderFault 4
    else s
  | none => s

/-- The elevation upper limit input goes inactive during the descent (R20). -/
def descentEnd (s : State) : State :=
  match s.axis.leg with
  | some l =>
    if l.kind == .descent then descentOver (s.withPins { s.pins with elUpper := false }) else s
  | none => s

end Sys2Proof.Machine
end

