-- ==== Sys2Proof/Machine/Wind.lean ====
section
/-! DEFINITION. The Wind Unit: rosters, level reports, the judgements of a cell, stow orders and
calm notices (R136 to R147). -/

namespace Sys2Proof.Machine

/-! ### Orders (R145, R146) -/

/-- A stow order (R145), taken by the Axis Engine first (log 72). -/
def stowOrder (s : State) : State :=
  judgeBlocked (compactStowOrder (axisStowOrder (s.withWind { s.wind with ordered := true })))

/-- A calm notice (R146). -/
def calmNotice (s : State) : State :=
  judgeBlocked (compactCalmNotice (axisCalmNotice (s.withWind { s.wind with ordered := false })))

/-- The station judges NO_SENSOR and sends orders: READY, or FAULTED for a clash with a
configuration (R144, R145, R147). -/
def givesOrders (s : State) : Bool := (isReady s || isClash s) && !s.seq.held

/-- The station obeys a cell (R145). -/
def obeys (s : State) (c : Nat) : Bool := (obeyed s).contains c

/-! ### Cells and rosters -/

/-- A cell's record changed by a function. -/
def changeCell (s : State) (c : Nat) (f : Cell → Cell) : State :=
  s.withWind { s.wind with cells := s.wind.cells.modify c f }

/-- The working entries of a cell. -/
def workingEntries (x : Cell) : List RosterEntry := x.roster.filter (·.working)

/-- There is a working entry and every working entry is CALM (R142, R143). -/
def allCalm (x : Cell) : Bool :=
  !(workingEntries x).isEmpty && (workingEntries x).all fun e => e.level == some .calm

/-- There is a working entry, every working level is known, and one is WATCH (R143). -/
def someWatch (x : Cell) : Bool :=
  (workingEntries x).all (fun e => e.level.isSome) &&
    (workingEntries x).any fun e => e.level == some .watch

/-- A cell enters STOW, or stays in it, with a cause (R140, R144). -/
def cellStow (cause : WindCause) (x : Cell) : Cell :=
  { x with state := .stow, cause := some cause, settleStart := none, settleRun := 0 }

/-- A cell enters CALM or WATCH and its cause is cleared (R143). -/
def cellRelease (st : CellState) (x : Cell) : Cell :=
  { x with state := st, cause := none, settleStart := none, settleRun := 0 }

/-- The stow order that an obeyed cell's entry into STOW gives (R145). -/
def orderFor (s : State) (c : Nat) : State :=
  if obeys s c && givesOrders s then stowOrder s else s

/-- An obeyed cell's entry into CALM (R146). -/
def calmFor (s : State) (c : Nat) : State :=
  if s.wind.ordered && obeys s c && (obeyed s).all fun d => (cellAt s d).state == .calm then
    calmNotice s
  else s

/-! ### Judgements (R142, R143, R144) -/

/-- R144, and the hold run held at 0 without a working entry (R142); `orders` says whether an
entry into STOW gives its own order. -/
def judgeNoSensor (orders : Bool) (s : State) (c : Nat) : State :=
  if (workingEntries (cellAt s c)).isEmpty then
    let t := changeCell s c fun x => { x with holdRun := 0 }
    if obeys s c && givesOrders s then
      if (cellAt s c).state == .stow then changeCell t c (cellStow .noSensor)
      else
        let u := changeCell t c (cellStow .noSensor)
        if orders then orderFor u c else u
    else t
  else s

/-- The hold of a cell in STOW has passed (R142). -/
def holdPassed (s : State) (x : Cell) : Bool :=
  s.seq.config.isSome && decide ((cfg s).stowHold * 1000 ≤ x.holdRun)

/-- The settle interval of a cell in SETTLE has passed (R143). -/
def settlePassed (s : State) (x : Cell) : Bool :=
  s.seq.config.isSome && decide ((cfg s).settleTime * 1000 ≤ x.settleRun)

/-- R142 and R143 on one cell. -/
def judgeLevels (s : State) (c : Nat) : State :=
  let x := cellAt s c
  match x.state with
  | .stow =>
    if holdPassed s x && allCalm x then
      changeCell s c fun y =>
        { y with state := .settle, settleStart := some (now s), settleRun := 0 }
    else s
  | .settle =>
    if settlePassed s x && allCalm x then calmFor (changeCell s c (cellRelease .calm)) c
    else if settlePassed s x && someWatch x then changeCell s c (cellRelease .watch)
    else s
  | .watch => if allCalm x then calmFor (changeCell s c (cellRelease .calm)) c else s
  | .calm => s

/-- A cell is judged by R144, R142 and R143. -/
def judgeCell (orders : Bool) (s : State) (c : Nat) : State :=
  judgeLevels (judgeNoSensor orders s c) c

/-- Every cell is judged, after a change of a roster; cells that have not changed stay (R137).  The
order of the cells, and of the judgements of one cell, is log 50. -/
def judgeCells (s : State) (orders : Bool) : State := (List.range 8).foldl (judgeCell orders) s

/-! ### Roster changes (R136, R137) -/

/-- A station's roster entries in one cell changed by a function. -/
def changeEntry (n : Nat) (f : RosterEntry → RosterEntry) (x : Cell) : Cell :=
  { x with roster := x.roster.map fun e => if e.station == n then f e else e }

/-- The working flag cleared and the level made absent (R137). -/
def entryGone (e : RosterEntry) : RosterEntry := { e with working := false, level := none }

/-- Every cell's record changed by a function of its number. -/
def changeCells (s : State) (f : Nat → Cell → Cell) : State :=
  s.withWind { s.wind with cells := s.wind.cells.mapIdx f }

/-- A station joins a roster at its end, unless it is there or the roster is full (R136).  A WIND
carries no status, and the entry's is then OK (log 51). -/
def joinRoster (n : Nat) (x : Cell) : Cell :=
  if x.roster.any (fun e => e.station == n) || decide (8 ≤ x.roster.length) then x
  else { x with roster := x.roster ++ [⟨n, none, .ok, false⟩] }

/-- The station has an entry in a cell's roster. -/
def inRoster (s : State) (c n : Nat) : Bool := (cellAt s c).roster.any fun e => e.station == n

/-- The cell a station last named (R137). -/
def lastNamed (s : State) (n : Nat) : Option Nat :=
  (s.wind.lastNamed.find? fun p => p.1 == n).map (·.2)

/-- A station's entry in a cell is the own entry of a station FAULTED for a clash, which no WIND
that bears the own number moves: it stays as it stood at the clash, its working flag following the
own sensor status (R138; log 81). -/
def keptOwn (s : State) (n c : Nat) : Bool :=
  isClash s && s.wind.ownEntry && n == s.seq.number && c == (cfg s).ownCell

/-- A station's entry in one cell changed by a frame of that station (R137). -/
def reportEntry (s : State) (n c : Nat) (f : RosterEntry → RosterEntry) : State :=
  if keptOwn s n c then s else changeCell s c (changeEntry n f)

/-- A cell's record after a frame of a station that names a cell: there the station joins the
roster, and elsewhere its entry is gone (R136, R137), but for the own entry after a clash (R138). -/
def namedCell (s : State) (n c d : Nat) (x : Cell) : Cell :=
  if d == c then joinRoster n x
  else if keptOwn s n d then x
  else changeEntry n entryGone x

/-- A frame of a station names a cell: it joins that roster and is gone from the others (R136,
R137). -/
def nameCell (s : State) (n c : Nat) : State :=
  (changeCells s (namedCell s n c)).withWind
    { (changeCells s (namedCell s n c)).wind
      with lastNamed := (s.wind.lastNamed.filter fun p => p.1 != n) ++ [(n, c)] }

/-- The level report of a working entry acts on its cell (R139, R140, R141); `windCause` is the
cause a WIND carries, absent for a beacon. -/
def levelReport (s : State) (n c : Nat) (level : Level) (windCause : Option WindCause) : State :=
  let t := reportEntry s n c fun e => { e with level := some level }
  match level with
  | .stow =>
    let before := (cellAt s c).state
    let u := changeCell t c fun x =>
      { cellStow (windCause.getD (if before == .stow then x.cause.getD .speed else .speed)) x with
        lastStow := some (now s), holdRun := 0 }
    if before == .stow then u else orderFor u c
  | .watch =>
    changeCell t c fun x =>
      match x.state with
      | .calm => { x with state := .watch }
      | .settle => { x with settleStart := some (now s), settleRun := 0 }
      | _ => x
  | .calm => t

/-- A WIND that bears a number is the station's own, taken at its completion (R75, R138); from a
clash on such a WIND is another station's (R76). -/
def isOwnWind (s : State) (n : Nat) : Bool := n == s.seq.number && !isClash s

/-- The entry may work: the own one follows the own sensor status (R138; log 39). -/
def windWorking (s : State) (n : Nat) : Bool :=
  !isOwnWind s n || s.sensor.status != .faulted

/-- An entry after a WIND of cause SENSOR_FAULT (R137); the own one follows the own sensor status
(R138; log 39). -/
def windFaulted (s : State) (e : RosterEntry) : RosterEntry :=
  if isOwnWind s e.station then
    { e with status := s.sensor.status, working := s.sensor.status != .faulted }
  else { e with status := .faulted, working := false }

/-- A WIND as the Wind Unit takes it (R137, R139), another station's or, at its completion, the own;
a field 4.10 does not define has it ignored (R74).  A WIND that bears the own number, taken in
FAULTED for a clash, acts on its cell as any other does and leaves the own entry as it is (R76,
R138; log 81).  The cell is judged once, after the level report and the stow order it gives (log
79). -/
def takeWind (s : State) (sender cell level cause : Nat) : State :=
  match levelOf level with
  | none => s
  | some lv =>
    if 7 < cell || 2 < cause then s
    else
      let t := nameCell s sender cell
      if !inRoster t cell sender then judgeCells t true
      else if cause == 2 then
        judgeCells (reportEntry t sender cell fun e =>
          { windFaulted s e with level := some lv }) true
      else
        let u := reportEntry t sender cell fun e =>
          { e with
            status := if e.status == .faulted && windWorking s sender then .ok else e.status
            working := windWorking s sender }
        judgeCells (levelReport u sender cell lv
          (some (if cause == 1 then .gust else .speed))) true

/-- The level of a station's entry in a cell. -/
def entryLevel (s : State) (c n : Nat) : Option Level :=
  ((cellAt s c).roster.find? fun e => e.station == n).bind (·.level)

/-- A beacon sensor report as the Wind Unit takes it (R137, R139); the cell is judged once, after
the level report and the stow order it gives (log 79). -/
def beaconSensorReport (s : State) (n : Nat) (role : Bool) (cell : Nat) (status : Status)
    (level : Level) : State :=
  if role then
    let t := nameCell s n cell
    if !inRoster t cell n then judgeCells t true
    else
      let u := reportEntry t n cell fun e =>
        { e with status := status, working := status != .faulted }
      if status != .faulted && entryLevel u cell n != some level then
        judgeCells (levelReport u n cell level none) true
      else judgeCells u true
  else judgeCells (changeCells s fun _ x => changeEntry n entryGone x) true

/-- The peer-absent notice as the Wind Unit takes it (R137). -/
def windPeerAbsent (s : State) (n : Nat) : State :=
  judgeCells (changeCells s fun _ x => changeEntry n (fun e => { e with working := false }) x) true

/-- The peer-present notice as the Wind Unit takes it (R137).  At a return (`back`) the peer-restarted
notice that follows makes the level absent, and the cells are judged there for both, so that no cell
is released on a level held before (R137; log 75). -/
def windPeerPresent (s : State) (n : Nat) (back : Bool) : State :=
  match lastNamed s n with
  | some c =>
    let t := changeCell s c (changeEntry n fun e =>
      { e with working := e.working || e.status != .faulted })
    if back then t else judgeCells t true
  | none => s

/-- The peer-restarted notice as the Wind Unit takes it (R137). -/
def windPeerRestarted (s : State) (n : Nat) : State :=
  judgeCells (changeCells s fun _ x => changeEntry n (fun e => { e with level := none }) x) true

/-- The own sensor notice as the Wind Unit takes it from READY on (R138); a station that a clash
kept from READY has no own entry (log 81). -/
def ownSensorNotice (s : State) : State :=
  if isReady s || (isClash s && s.wind.ownEntry) then
    judgeCells (changeCell s (cfg s).ownCell (changeEntry s.seq.number fun e =>
      { e with status := s.sensor.status, working := s.sensor.status != .faulted })) true
  else s

/-- The own cell's record once the station has added itself to its roster (R138). -/
def joinOwn (s : State) (x : Cell) : Cell :=
  changeEntry s.seq.number
    (fun e => { e with
      level := some s.sensor.level, status := s.sensor.status
      working := s.sensor.status != .faulted })
    (joinRoster s.seq.number x)

/-- A sensor station adds itself to the roster of its own cell at READY, where there is room
(R138). -/
def addOwnEntry (s : State) : State :=
  if (cfg s).sensor then
    let t := changeCell s (cfg s).ownCell (joinOwn s)
    t.withWind { t.wind with ownEntry := inRoster t (cfg s).ownCell s.seq.number }
  else s

/-- Every obeyed cell is judged, and one stow order is sent where one is in STOW or SETTLE
(R147). -/
def orderIfStowed (s : State) : State :=
  let t := judgeCells s false
  if windHolds t then stowOrder t else t

/-- The Wind Unit's actions at READY (R147). -/
def windReady (s : State) : State := orderIfStowed (addOwnEntry s)

/-- A cell's hold run has reached the stow hold (R142). -/
def holdExpiry (s : State) (c : Nat) : State :=
  if decide (c < 8) && (cellAt s c).state == .stow && holdPassed s (cellAt s c) then
    judgeLevels s c
  else s

/-- A cell's settle run has reached the settle time (R143). -/
def settleExpired (s : State) (c : Nat) : State :=
  if decide (c < 8) && (cellAt s c).state == .settle && settlePassed s (cellAt s c) then
    judgeLevels s c
  else s

end Sys2Proof.Machine
end

