-- ==== Sys2Proof/Machine/Lockout.lean ====
section
/-! DEFINITION. The Lockout Unit: the Lockout List, the lock mask's change notice, the keys, remote
lockouts, and the mask a BEACON carries (R32 to R47). -/

namespace Sys2Proof.Machine

/-- The entry is a remote entry. -/
def isRemote (e : LockEntry) : Bool :=
  match e.holder with
  | .remote .. => true
  | .key _ => false

/-- A LOCK_NOTICE of the list as it stands (R46). -/
def lockNoticeFrame (s : State) : Frame :=
  .lockNotice (lockMask s) s.lock.list.length
    (s.lock.list.filter fun e => !isRemote e).length (s.lock.list.filter isRemote).length

/-- An unstarted BEACON takes the new mask (R47). -/
def reviseBeaconMask (s : State) : State :=
  reviseFrames s fun e =>
    match e.frame with
    | .beacon p => { e with frame := .beacon { p with mask := lockMask s } }
    | _ => e

/-- The lock-mask change notice to the six blocks, and the LOCK_NOTICE (R33, R46); R33 imposes no
order among them (log 72). -/
def maskChanged (s : State) (old new : Scope) : State :=
  let t := axisMaskNotice s old new
  let t := heaterMaskNotice t old new
  let t := compactMaskNotice t old new
  let t := reviseBeaconMask (judgeBlocked t)
  queueFrame t (lockNoticeFrame t)

/-- The Lockout List replaced; a change of the mask is notified (R33). -/
def setLockList (s : State) (list : List LockEntry) : State :=
  let t := s.withLock { s.lock with list := list }
  if lockMask t == lockMask s then t else maskChanged t (lockMask s) (lockMask t)

/-! ### Remote lockouts (R38 to R41) -/

/-- The entry is the remote entry of a token. -/
def hasToken (token : Nat) (e : LockEntry) : Bool :=
  match e.holder with
  | .remote t _ => t == token
  | .key _ => false

/-- The outcome of a LOCK_SET (R38). -/
def lockSetOutcome (s : State) (sender token : Nat) (scope : Scope) : Nat :=
  if !isConsole sender then outcomeNotConsole
  else if scopeEmpty scope || token == 0 then outcomeBadScope
  else if s.lock.list.any (hasToken token) then outcomeDuplicate
  else if 4 ≤ (s.lock.list.filter isRemote).length then outcomeFull
  else outcomeOk

/-- The outcome of a LOCK_CLEAR (R39). -/
def lockClearOutcome (s : State) (sender token : Nat) : Nat :=
  if !isConsole sender then outcomeNotConsole
  else if s.lock.list.any (hasToken token) then outcomeOk
  else outcomeNoSuchToken

/-- The ANSWER to a lockout frame: queued, kept until READY in LISTEN, or not sent (R40, R41). -/
def answerLock (s : State) (console subject token outcome : Nat) : State :=
  if s.seq.station == .listen then
    if s.lock.pending.length < 8 then
      s.withLock { s.lock with pending := s.lock.pending ++ [⟨console, subject, token, outcome⟩] }
    else s
  else queueFrame s (.answer console subject token outcome none)

/-- A LOCK_SET as the Lockout Unit takes it (R38, R40, R41): the LOCK_NOTICE of a change is queued
before the ANSWER (log 65). -/
def takeLockSet (s : State) (sender target token : Nat) (scope : Scope) : State :=
  if target == s.seq.number then
    let outcome := lockSetOutcome s sender token scope
    let t :=
      if outcome == outcomeOk then
        setLockList s (s.lock.list ++ [⟨.remote token sender, scope, now s⟩])
      else s
    answerLock t sender subjectLockSet token outcome
  else s

/-- A LOCK_CLEAR as the Lockout Unit takes it (R39, R40, R41): the LOCK_NOTICE of a change is queued
before the ANSWER (log 65). -/
def takeLockClear (s : State) (sender target token : Nat) : State :=
  if target == s.seq.number then
    let outcome := lockClearOutcome s sender token
    let t :=
      if outcome == outcomeOk then
        setLockList s (s.lock.list.filter fun e => !hasToken token e)
      else s
    answerLock t sender subjectLockClear token outcome
  else s

/-! ### Keys (R34 to R37) -/

/-- The reading of a key, 1 to 4: closed (R35). -/
def keyReading (s : State) (k : Nat) : Bool := s.pins.keys.getD (k - 1) false

/-- The machine of a key, 1 to 4. -/
def keyMachine (s : State) (k : Nat) : KeyMachine :=
  s.lock.keys.getD (k - 1) ⟨.opened, 0, Scope.none⟩

/-- The machine of a key in a state, its count at 0. -/
def setKey (s : State) (k : Nat) (st : KeyState) : State :=
  s.withLock { s.lock with
    keys := s.lock.keys.modify (k - 1) fun m => { m with state := st, run := 0 } }

/-- The entry is that of a key. -/
def isKeyEntry (k : Nat) (e : LockEntry) : Bool :=
  match e.holder with
  | .key i => i == k
  | .remote .. => false

/-- The key's entry joins the list, unless the key is unused (R34, R37). -/
def addKeyEntry (s : State) (k : Nat) : State :=
  if scopeEmpty (keyMachine s k).scope then s
  else setLockList s (s.lock.list ++ [⟨.key k, (keyMachine s k).scope, now s⟩])

/-- The key's entry leaves the list (R37). -/
def removeKeyEntry (s : State) (k : Nat) : State :=
  setLockList s (s.lock.list.filter fun e => !isKeyEntry k e)

/-- The key is one of KEY1 to KEY4. -/
def isKey (k : Nat) : Bool := decide (1 ≤ k ∧ k ≤ 4)

/-- A key's reading changes (R35); a reading that does not change moves nothing. -/
def keyChange (s : State) (k : Nat) (closed : Bool) : State :=
  if isKey k && keyReading s k != closed then
    let t := s.withPins { s.pins with keys := s.pins.keys.set (k - 1) closed }
    if s.seq.held then t
    else
      match (keyMachine s k).state with
      | .opened => if closed then setKey t k .closing else t
      | .closing => if closed then t else setKey t k .opened
      | .closed => if closed then t else setKey t k .opening
      | .opening => if closed then setKey t k .closed else t
      | .checking => t
  else s

/-- A key's closing count has reached 50 ms (R35, R37). -/
def keyClosed (s : State) (k : Nat) : State :=
  if isKey k && (keyMachine s k).state == .closing && decide (50 ≤ (keyMachine s k).run) then
    addKeyEntry (setKey s k .closed) k
  else s

/-- A key's opening count has reached 500 ms (R35, R37). -/
def keyOpened (s : State) (k : Nat) : State :=
  if isKey k && (keyMachine s k).state == .opening && decide (500 ≤ (keyMachine s k).run) then
    removeKeyEntry (setKey s k .opened) k
  else s

/-- CHECKING ends for one key (R36). -/
def checkKey (s : State) (k : Nat) : State :=
  if (keyMachine s k).state == .checking then
    if keyReading s k then setKey s k .closed else removeKeyEntry (setKey s k .opened) k
  else s

/-- CHECKING ends 500 ms after LOAD (R36). -/
def keyCheckingOver (s : State) : State :=
  match s.lock.checkRun with
  | some r =>
    if 500 ≤ r then
      [1, 2, 3, 4].foldl checkKey (s.withLock { s.lock with checkRun := none })
    else s
  | none => s

/-- The count of CHECKING begins (R36). -/
def beginChecking (s : State) : State := s.withLock { s.lock with checkRun := some 0 }

/-- The entry as the configured scopes leave it: a key entry takes its key's scope (R34). -/
def rescope (scopes : List Scope) (e : LockEntry) : LockEntry :=
  match e.holder with
  | .key k => { e with scope := scopes.getD (k - 1) Scope.none }
  | .remote .. => e

/-- The key scopes of the configuration are taken; an unused key's entry leaves (R34). -/
def takeKeyScopes (s : State) (scopes : List Scope) : State :=
  let t := s.withLock { s.lock with
    keys := s.lock.keys.mapIdx fun i m => { m with scope := scopes.getD i Scope.none } }
  setLockList t ((s.lock.list.map (rescope scopes)).filter fun e =>
    isRemote e || !scopeEmpty e.scope)

/-- The Lockout Unit's actions at READY (R41, R46). -/
def lockReady (s : State) : State :=
  let t := s.lock.pending.foldl
    (fun u a => queueFrame u (.answer a.console a.subject a.token a.outcome none))
    (s.withLock { s.lock with pending := [] })
  queueFrame t (lockNoticeFrame t)

end Sys2Proof.Machine
end

