-- ==== Sys2Proof/Machine/Share.lean ====
section
/-! DEFINITION. The Share Unit's frames, expiries and windows, and the Heater Unit's selection,
switch-on and duty (R155 to R160, R171 to R179). -/

namespace Sys2Proof.Machine

/-! ### The Heater Unit's events -/

/-- The next zone in CLAIM is switched on; without one the sequence ends (R159). -/
def switchOne (s : State) : State :=
  match s.heater.claims with
  | [] => s.withHeater { s.heater with admitted := 0 }
  | i :: rest =>
    heaterNotice (s.withHeater { s.heater with
      zones := changeZones s.heater.zones [i] fun z =>
        { z with state := .on, switchedAt := some (now s), onRun := 0 }
      claims := rest
      onOrder := s.heater.onOrder ++ [i]
      admitted := endIfNone rest (s.heater.admitted - 1)
      stepRun := 0 })

/-- The window-open notice (R159); it ends a sequence that still runs (log 68). -/
def windowOpen (s : State) (zones : Nat) : State :=
  if isReady s then switchOne (s.withHeater { s.heater with admitted := zones, stepRun := 0 })
  else s

/-- 50 ms after the previous switch-on (R159). -/
def switchStep (s : State) : State :=
  if s.heater.admitted != 0 && decide (50 ≤ s.heater.stepRun) then switchOne s else s

/-- A zone as a batch selection leaves it (R156). -/
def selectZone (holds taken : Bool) (z : Zone) : Zone :=
  if !z.enable then z
  else if taken then
    match z.state with
    | .on => { z with onRun := 0 }
    | .claim => z
    | _ => zoneClaim z
  else if holds then
    if z.state == .on then { zoneWant z with lastCause := some .duty } else zoneWant z
  else zoneOff .demand z

/-- The first boundary later than the present array time, in seconds (R155); one past the end of
array time is kept so (log 76). -/
def boundaryAfter (s : State) : Nat :=
  (s.time.sec / (cfg s).heaterPeriod + 1) * (cfg s).heaterPeriod

/-- The pointer after a selection: the zone after the first zone taken, in wrapped order (R156). -/
def pointerAfter (s : State) (taken : List Nat) : Nat :=
  match taken with
  | i :: _ => (i + 1) % s.heater.zones.length
  | [] => s.heater.pointer

/-- A batch selection (R154, R155, R156). -/
def selection (s : State) : State :=
  let holds := demand s
  let taken := takeWalk s.heater.zones (fun z => z.enable && holds) (walk s)
    (heldShares s - s.share.motion)
  let newly := taken.filter fun i =>
    match s.heater.zones[i]? with
    | some z => z.state != .on && z.state != .claim
    | none => false
  settlePower s (heaterNotice (s.withHeater { s.heater with
    zones := s.heater.zones.mapIdx fun i z => selectZone holds (taken.contains i) z
    pointer := pointerAfter s taken
    nextBoundary := some (boundaryAfter s)
    duty := dutyOf s.sensor.melt
    claims := (s.heater.claims.filter fun i => taken.contains i) ++ newly
    admitted := endIfNone ((s.heater.claims.filter fun i => taken.contains i) ++ newly)
      s.heater.admitted
    onOrder := s.heater.onOrder.filter fun i => taken.contains i }))

/-- A heater period boundary is reached in READY (R155). -/
def boundaryReached (s : State) : State :=
  match s.heater.nextBoundary with
  | some b => if isReady s && decide (b ≤ s.time.sec) then selection s else s
  | none => s

/-- A zone's on run has reached the duty fraction of the period (R160). -/
def dutyServed (s : State) (z : Zone) : Bool :=
  z.state == .on && decide (s.heater.duty < 100) &&
    decide (s.heater.duty * (cfg s).heaterPeriod * 10 ≤ z.onRun)

/-- The end of a zone's duty (R160). -/
def dutyEnded (s : State) (i : Nat) : State :=
  match s.heater.zones[i]? with
  | some z =>
    if dutyServed s z then
      settlePower s (heaterNotice (s.withHeater { s.heater with
        zones := changeZones s.heater.zones [i] (zoneRest .duty)
        onOrder := s.heater.onOrder.filter (· != i) }))
    else s
  | none => s

/-! ### Loans (R170, R172, R173, R174, R175) -/

/-- The entry toward a peer in one direction. -/
def findLoan (s : State) (peer : Nat) (lent : Bool) : Option Loan :=
  s.share.loans.find? fun e => e.peer == peer && e.lent == lent

/-- An amount added to the entry toward a peer, or a new entry; the expiry becomes the frame's and
a grace is cleared (R173). -/
def addLoan (loans : List Loan) (peer : Nat) (lent : Bool) (amount expiry : Nat) : List Loan :=
  if loans.any fun e => e.peer == peer && e.lent == lent then
    loans.map fun e =>
      if e.peer == peer && e.lent == lent then
        { e with amount := e.amount + amount, expiry := expiry, grace := false, graceRun := 0 }
      else e
  else loans ++ [⟨peer, lent, amount, expiry, false, 0⟩]

/-- The entry is a SHARE_GRANT to a borrower. -/
def isGrantTo (borrower : Nat) (e : TxEntry) : Bool :=
  match e.frame with
  | .shareGrant b _ _ => b == borrower
  | _ => false

/-- The started grants that would create new LENT entries (R172). -/
def newGrants (s : State) : Nat :=
  (s.line.queue.filter fun e =>
    match e.frame with
    | .shareGrant b _ _ => e.started && (findLoan s b true).isNone
    | _ => false).length

/-- The conditions under which a station grants to an asker (R172). -/
def mayGrant (s : State) (asker : Nat) : Bool :=
  isReady s && spareShares s != 0 && (findLoan s asker false).isNone &&
    ((findLoan s asker true).isSome || decide (s.share.loans.length + newGrants s < 8))

/-- A grant that waits for a later ask of its borrower (R172). -/
def regrant (s : State) (asker wanted : Nat) (e : TxEntry) : TxEntry :=
  if isGrantTo asker e then
    { e with frame := .shareGrant asker (min wanted (spareShares s)) 0, stillWanted := wanted }
  else e

/-- A SHARE_ASK from another dish (R172). -/
def takeShareAsk (s : State) (asker wanted : Nat) : State :=
  if asker == s.seq.number || wanted == 0 || 16 < wanted then s
  else if s.line.queue.any fun e => !e.started && isGrantTo asker e then
    if mayGrant s asker then reviseFrames s (regrant s asker wanted)
    else withdrawFrames s (isGrantTo asker)
  else if mayGrant s asker then
    enqueueEntry s { TxEntry.fresh (.shareGrant asker (min wanted (spareShares s)) 0) with
      stillWanted := wanted }
  else s

/-- A waiting grant as another lender's grant to the same borrower cuts it (R172). -/
def cutGrant (borrower amount : Nat) (e : TxEntry) : TxEntry :=
  match e.frame with
  | .shareGrant b a x =>
    if b == borrower then
      { e with
        frame := .shareGrant b (min a (e.stillWanted - amount)) x
        stillWanted := e.stillWanted - amount }
    else e
  | _ => e

/-- The entry is a SHARE_GRANT to a borrower whose still-wanted figure is 0 (R172). -/
def grantSpent (borrower : Nat) (e : TxEntry) : Bool :=
  isGrantTo borrower e && e.stillWanted == 0

/-- The amount a borrower keeps of a grant (R173), with no bound at the 63 that R166 gives B
(log 69). -/
def keptAmount (s : State) (lender amount : Nat) : Nat :=
  if !isReady s || (findLoan s lender true).isSome ||
      ((findLoan s lender false).isNone && decide (8 ≤ s.share.loans.length)) then 0
  else min amount (shortfall s)

/-- A SHARE_GRANT to this station (R173); one of which nothing is kept leaves an entry from the
lender with its expiry (log 59).  What it makes of the shares precedes its SHARE_BACK (log 72). -/
def borrow (s : State) (lender amount expiry : Nat) : State :=
  let kept := keptAmount s lender amount
  let t :=
    if kept == 0 then s
    else settlePower s (s.withShare { s.share with
      loans := addLoan s.share.loans lender false kept expiry })
  if kept < amount && (isReady s || isConfigFault s) then
    queueFrame t (.shareBack lender (amount - kept))
  else t

/-- A SHARE_GRANT from another dish (R172, R173). -/
def takeShareGrant (s : State) (lender borrower amount expiry : Nat) : State :=
  if lender == s.seq.number || !isDish borrower || amount == 0 || 16 < amount then s
  else if borrower == s.seq.number then borrow s lender amount expiry
  else withdrawFrames (reviseFrames s (cutGrant borrower amount)) (grantSpent borrower)

/-- The Peer Table's entry of a station is PRESENT. -/
def isPresent (s : State) (n : Nat) : Bool :=
  s.peers.table.any fun e => e.station == n && e.present

/-- The Loan Table has room for the LENT entry of a completed grant (R170; log 40). -/
def lentFits (s : State) (borrower : Nat) : Bool :=
  (findLoan s borrower true).isSome ||
    ((findLoan s borrower false).isNone && decide (s.share.loans.length < 8))

/-- The completion of an own SHARE_GRANT: `s` the state before the frame left the queue, `t` after
(R173); what it makes of the shares precedes LOAN_LOST (log 72). -/
def grantDone (s t : State) (borrower amount expiry : Nat) : State :=
  if isPresent t borrower then
    if lentFits t borrower then
      settlePower s (t.withShare { t.share with
        loans := addLoan t.share.loans borrower true amount expiry })
    else settlePower s t
  else setFlag (settlePower s t) flagLoanLost borrower 0

/-- A SHARE_BACK from another dish (R174). -/
def takeShareBack (s : State) (borrower lender amount : Nat) : State :=
  if lender == s.seq.number && borrower != s.seq.number then
    match findLoan s borrower true with
    | some e =>
      if e.amount ≤ amount then removeLent s borrower
      else settlePower s (s.withShare { s.share with
        loans := s.share.loans.map fun x =>
          if x.peer == borrower && x.lent then { x with amount := x.amount - amount } else x })
    | none => s
  else s

/-- A BORROWED entry's expiry is reached (R174): the SHARE_ASK that the fall of B brings is queued
before the SHARE_BACK (R171; log 72). -/
def borrowedExpired (s : State) (peer : Nat) : State :=
  match findLoan s peer false with
  | some e =>
    if e.expiry ≤ s.time.sec then
      enqueueEntry (removeBorrowed s peer)
        { TxEntry.fresh (.shareBack peer e.amount) with expiryRun := some 0 }
    else s
  | none => s

/-- A LENT entry's expiry is reached (R174). -/
def lentExpired (s : State) (peer : Nat) : State :=
  match findLoan s peer true with
  | some e =>
    if !e.grace && decide (e.expiry ≤ s.time.sec) then
      s.withShare { s.share with
        loans := s.share.loans.map fun x =>
          if x.peer == peer && x.lent then { x with grace := true, graceRun := 0 } else x }
    else s
  | none => s

/-- The grace of a LENT entry ends (R174). -/
def graceEnded (s : State) (peer : Nat) : State :=
  match findLoan s peer true with
  | some e => if e.grace && decide (2000 ≤ e.graceRun) then removeLent s peer else s
  | none => s

/-- The entry is a SHARE_BACK to a lender not started 2000 ms after the expiry (R174). -/
def isLateBack (lender : Nat) (e : TxEntry) : Bool :=
  match e.frame, e.expiryRun with
  | .shareBack l _, some r => l == lender && decide (2000 ≤ r)
  | _, _ => false

/-- A loan with a peer is dropped, and LOAN_LOST set (R175, R179), after the SHARE_ASK that the fall
of B brings (R171; log 72). -/
def dropLoanWith (s : State) (peer : Nat) : State :=
  if (findLoan s peer false).isSome then setFlag (removeBorrowed s peer) flagLoanLost peer 0
  else if (findLoan s peer true).isSome then setFlag (removeLent s peer) flagLoanLost peer 0
  else s

/-- A peer-absent or peer-restarted notice as the Share Unit takes it (R175); the unstarted
SHARE_GRANT to the peer is withdrawn last, after the SHARE_ASK and the EVENT of the loan dropped
(log 72). -/
def sharePeerLost (s : State) (peer : Nat) : State :=
  if isDish peer then withdrawFrames (dropLoanWith s peer) (isGrantTo peer) else s

/-- The entry into FAULTED for a clash as the Share Unit takes it (R179): the loans are dropped in
the order of the Loan Table (log 70). -/
def shareClash (s : State) : State :=
  let t := s.withShare { s.share with claim := .none }
  (s.share.loans.map (·.peer)).foldl dropLoanWith t

/-- A BORROWED entry returned at a remote HEAT reset (R178), the SHARE_ASK first (log 72). -/
def returnLoan (s : State) (peer : Nat) : State :=
  match findLoan s peer false with
  | some e => queueFrame (removeBorrowed s peer) (.shareBack peer e.amount)
  | none => s

/-- The heat-reset notice: the Heater Unit's part, then the Share Unit's (R165, R178). -/
def heatReset (s : State) : State :=
  ((s.share.loans.filter fun e => !e.lent).map (·.peer)).foldl returnLoan (allOff s .reset)

/-! ### Inrush windows (R176, R177) -/

/-- The effective start of a window, in total milliseconds (R176). -/
def effectiveStart (s : State) (start : ATime) : Nat := max (toMs start) s.share.busyUntil

/-- Busy-until as an INRUSH taken leaves it (R176), which may pass the last value of array time
(log 61). -/
def takeWindow (s : State) (start : ATime) : State :=
  s.withShare { s.share with busyUntil := effectiveStart s start + 500 }

/-- An INRUSH from another station; a field 4.10 does not define has it ignored (R74, R176). -/
def takeInrush (s : State) (start : ATime) (zones : Nat) : State :=
  if zones == 0 || 8 < zones || 999 < start.ms then s
  else
    let t := takeWindow s start
    if t.share.claim == .queued then reviseInrush t else t

/-- The own INRUSH completes (R176, R177). -/
def inrushDone (s : State) (start : ATime) (zones : Nat) : State :=
  let eff := effectiveStart s start
  let t := takeWindow s start
  if nowMs s < eff + 150 then
    if eff ≤ nowMs s then
      windowOpen (t.withShare { t.share with claim := .won eff zones true }) zones
    else t.withShare { t.share with claim := .won eff zones false }
  else claimFromNone t

/-- The effective start of the won window is reached (R177). -/
def windowReached (s : State) : State :=
  match s.share.claim with
  | .won start zones false =>
    if start ≤ nowMs s then
      windowOpen (s.withShare { s.share with claim := .won start zones true }) zones
    else s
  | _ => s

/-- The won window ends (R177). -/
def windowEnded (s : State) : State :=
  match s.share.claim with
  | .won start _ true => if start + 500 ≤ nowMs s then claimFromNone s else s
  | _ => s

/-- The ask run reaches 5000 ms with a shortfall (R171). -/
def askDue (s : State) : State :=
  match s.share.askRun with
  | some r =>
    if 5000 ≤ r && isReady s && shortfall s != 0 then updateAsk s else s
  | none => s

end Sys2Proof.Machine
end

