-- ==== Sys2Proof/Machine/Sensor.lean ====
section
/-! DEFINITION. The Sensor Unit: scans, anemometer pulses, bands, status, conditions, the own wind
level and WIND frames (R120 to R134). -/

namespace Sys2Proof.Machine

/-! ### Channels (R122) -/

/-- The band position of a reading (R122). -/
def bandOf (lower upper reading : Int) : Band :=
  if reading < lower then .below else if upper < reading then .above else .within

/-- A channel with a new reading, its band position and any crossing, with its polarity (R122). -/
def readChannel (c : Channel) (lower upper reading : Int) (t : ATime) : Channel where
  reading := some reading
  band := bandOf lower upper reading
  crossing := if c.band == bandOf lower upper reading then c.crossing
    else some ⟨c.band, bandOf lower upper reading,
      decide (bandRank c.band < bandRank (bandOf lower upper reading)), t⟩

/-- A condition set when a band position is BELOW and cleared when it is ABOVE, kept WITHIN (R127;
R128 the other way round). -/
def hysteresis (setAt clearAt : Band) (b : Band) (was : Bool) : Bool :=
  if b == setAt then true else if b == clearAt then false else was

/-- The melt rate code of a surface reading (R129). -/
def meltCode (surface : Int) : Nat :=
  if surface < -500 then 0
  else if surface ≤ -201 then 1
  else if surface ≤ -101 then 2
  else if surface ≤ -31 then 3
  else if surface ≤ 29 then 4
  else if surface ≤ 600 then 5
  else 6

/-! ### Anemometers (R123, R124, R125) -/

/-- The speed of a channel in dm/s (R123). -/
def anemoSpeed (s : State) (count window : Nat) : Nat :=
  min 1000 (count * (cfg s).anemoFactor / window)

/-- A channel's record after a good scan with a window, judged against its partner's record before
and speed (R125). -/
def judgeAnemo (r : AnemoRecord) (count speed window : Nat) (partnerWorks : Bool)
    (partnerSpeed : Nat) : AnemoRecord :=
  if r.working then
    if count == 0 && partnerWorks && decide (50 < partnerSpeed) then
      if 60000 ≤ r.zeroRun + window then ⟨false, 0, r.recovery, speed⟩
      else ⟨true, r.zeroRun + window, r.recovery, speed⟩
    else ⟨true, 0, r.recovery, speed⟩
  else if count == 0 then ⟨false, r.zeroRun, 0, speed⟩
  else if 10 ≤ r.recovery + 1 then ⟨true, 0, 0, speed⟩
  else ⟨false, r.zeroRun, r.recovery + 1, speed⟩

/-- Both channels work and differ by more than the limit: the higher one (R124). -/
def disagreement (s : State) (a b : AnemoRecord) : Option Anemometer :=
  if a.working && b.working then
    if (cfg s).disagreeLimit < a.speed - b.speed then some .a
    else if (cfg s).disagreeLimit < b.speed - a.speed then some .b
    else none
  else none

/-- The combined wind speed (R124). -/
def combinedSpeed (s : State) (a b : AnemoRecord) : Nat :=
  if a.working && b.working then
    if (disagreement s a b).isSome then max a.speed b.speed else (a.speed + b.speed) / 2
  else if a.working then a.speed
  else if b.working then b.speed
  else 0

/-- The sensor status (R126). -/
def statusNow (u : SensorUnit) : Status :=
  if u.referenceFailed || (!u.channelA.working && !u.channelB.working) then .faulted
  else if !u.channelA.working || !u.channelB.working then .degraded
  else .ok

/-! ### The own wind level (R130, R131) -/

/-- The counts and the calm run of the level machine on a scan's speed (R130). -/
def levelCounts (s : State) (u : SensorUnit) : SensorUnit :=
  { u with
    watchCount := if (cfg s).watchSpeed ≤ u.combined then min 8 (u.watchCount + 1) else 0
    stowCount := if (cfg s).stowSpeed ≤ u.combined then min 8 (u.stowCount + 1) else 0
    calmRun := if u.combined < (cfg s).calmSpeed then some (u.calmRun.getD 0) else none }

/-- The first step of R130 that applies, on counts already updated. -/
def levelStep (s : State) (u : SensorUnit) : SensorUnit :=
  if u.level != .stow && decide ((cfg s).gustSpeed ≤ u.combined) then
    { u with level := .stow, stowCause := some .gust }
  else if u.level != .stow && decide ((cfg s).stowConfirm ≤ u.stowCount) then
    { u with level := .stow, stowCause := some .speed }
  else if u.level == .calm && decide ((cfg s).watchConfirm ≤ u.watchCount) then
    { u with level := .watch }
  else if u.level != .calm &&
      (u.calmRun.map fun r => decide ((cfg s).calmTime * 1000 ≤ r)) == some true then
    { u with level := .calm, stowCause := none }
  else u

/-- The level machine at a good scan with a window (R130). -/
def judgeLevel (s : State) (u : SensorUnit) : SensorUnit := levelStep s (levelCounts s u)

/-- On entry to FAULTED the counts are 0 and the calm run ends (R131). -/
def holdLevel (u : SensorUnit) : SensorUnit :=
  { u with watchCount := 0, stowCount := 0, calmRun := none }

/-! ### A scan's results (R121 to R130) -/

/-- The unit after a discarded scan (R121, R126, R129, R130). -/
def discardedScan (s : State) (u : SensorUnit) (reference : Int) : SensorUnit :=
  let n := min 3 (u.discarded + 1)
  { u with
    reference := readChannel u.reference (cfg s).refLo (cfg s).refHi reference (now s)
    discarded := n
    good := 0
    referenceFailed := u.referenceFailed || n == 3
    latest := some (now s, false)
    melt := if n == 3 then 0 else u.melt
    meltChanged := u.meltChanged || (n == 3 && u.melt != 0)
    calmRun := none }

/-- The channels every station converts, after a good scan (R121, R122, R127, R128, R129). -/
def goodChannels (s : State) (u : SensorUnit) (r : ScanReadings) : SensorUnit :=
  let reference := clampInt 0 4095 r.reference
  let surface := clampInt (-999) 999 r.surface
  let air := clampInt (-999) 999 r.air
  let ice := clampInt 0 1000 r.ice
  let n := min 10 (u.good + 1)
  { u with
    reference := readChannel u.reference (cfg s).refLo (cfg s).refHi reference (now s)
    surface := readChannel u.surface (-500) 600 surface (now s)
    air := readChannel u.air (cfg s).airLo (cfg s).airHi air (now s)
    ice := readChannel u.ice (cfg s).iceLo (cfg s).iceHi ice (now s)
    discarded := 0
    good := n
    referenceFailed := u.referenceFailed && n != 10
    latest := some (now s, true)
    cold := hysteresis .below .above (bandOf (cfg s).airLo (cfg s).airHi air) u.cold
    icePresent := hysteresis .above .below (bandOf (cfg s).iceLo (cfg s).iceHi ice) u.icePresent
    melt := meltCode surface
    meltChanged := u.meltChanged || meltCode surface != u.melt }

/-- The anemometer channels' readings in the scan record (R122). -/
def anemoChannels (s : State) (u : SensorUnit) : SensorUnit :=
  { u with
    anemoA := readChannel u.anemoA (cfg s).calmSpeed (cfg s).stowSpeed u.channelA.speed (now s)
    anemoB := readChannel u.anemoB (cfg s).calmSpeed (cfg s).stowSpeed u.channelB.speed (now s) }

/-- The anemometers after a good scan of a sensor station; a scan without a window reads 0 and
takes part in no check (R123, R124, R125; log 19).  Each channel is judged with the working state
its partner had before the scan (log 74). -/
def goodAnemos (s : State) (u : SensorUnit) (c : Scan) : SensorUnit :=
  match c.window with
  | none =>
    anemoChannels s { u with
      channelA := { u.channelA with speed := 0 }, channelB := { u.channelB with speed := 0 } }
  | some w =>
    let a := anemoSpeed s c.countA w
    let b := anemoSpeed s c.countB w
    let ra := judgeAnemo u.channelA c.countA a w u.channelB.working b
    let rb := judgeAnemo u.channelB c.countB b w u.channelA.working a
    anemoChannels s { u with
      channelA := ra
      channelB := rb
      combined := combinedSpeed s ra rb
      disagree := disagreement s ra rb }

/-- The status judged, and the level machine held or judged (R126, R130, R131); the scan at which
the status leaves FAULTED is judged too (log 49). -/
def finishScan (s : State) (u : SensorUnit) (judged : Bool) : SensorUnit :=
  let v := { u with status := statusNow u, scan := none }
  if v.status == .faulted then
    if u.status == .faulted then v else holdLevel v
  else if judged then judgeLevel s v
  else v

/-- The unit after a completed scan (R121). -/
def scanResult (s : State) (c : Scan) (r : ScanReadings) : SensorUnit :=
  let reference := clampInt 0 4095 r.reference
  if inRange (cfg s).refLo (cfg s).refHi reference then
    let u := goodChannels s s.sensor r
    if (cfg s).sensor then finishScan s (goodAnemos s u c) c.window.isSome
    else finishScan s u false
  else finishScan s (discardedScan s s.sensor reference) false

/-! ### WIND (R132) -/

/-- A WIND with the own cell, level and speed is queued (R132). -/
def queueWind (s : State) (cause : Nat) : State :=
  let t := queueFrame s (.wind (cfg s).ownCell (levelCode s.sensor.level) s.sensor.combined cause)
  t.withSensor { t.sensor with windRun := some 0 }

/-- The cause a WIND carries for the level held (R132). -/
def levelCause (s : State) : Nat :=
  match s.sensor.level, s.sensor.stowCause with
  | .stow, some c => windCauseCode c
  | _, _ => 0

/-- The WIND a scan gives at a sensor station in READY (R132). -/
def windAfterScan (before s : State) : State :=
  if (cfg s).sensor && isReady s then
    if s.sensor.level != before.sensor.level then queueWind s (levelCause s)
    else if s.sensor.status == .faulted && before.sensor.status != .faulted then queueWind s 2
    else if s.sensor.status != .faulted && before.sensor.status == .faulted then
      queueWind s (levelCause s)
    else s
  else s

/-! ### The flags of a scan (R121, R124, R125, R129) -/

/-- SENSOR_FAULT as a scan sets it (R121, R125). -/
def scanFaultFlags (before s : State) : State :=
  let t := if (s.sensor.latest.map (·.2)) == some false then setFlag s flagSensorFault 1 0 else s
  let t := if before.sensor.channelA.working && !s.sensor.channelA.working then
      setFlag t flagSensorFault 2 0 else t
  if before.sensor.channelB.working && !s.sensor.channelB.working then
    setFlag t flagSensorFault 3 0 else t

/-- ANEMO_DISAGREE as a good scan with a window sets it (R124). -/
def scanDisagreeFlag (s : State) (judged : Bool) : State :=
  if judged then
    match s.sensor.disagree with
    | some .a => setFlag s flagAnemoDisagree 1 0
    | some .b => setFlag s flagAnemoDisagree 2 0
    | none => s
  else s

/-- HEAT_SENSOR and HEAT_OVER as a scan sets them (R129); a code that stays 0 sets none (log 20). -/
def scanHeatFlags (before s : State) : State :=
  if s.sensor.discarded == 3 && before.sensor.discarded != 3 then setFlag s flagHeatSensor 2 0
  else if s.sensor.melt == before.sensor.melt then s
  else if s.sensor.melt == 0 then setFlag s flagHeatSensor 1 0
  else if s.sensor.melt == 6 then setFlag s flagHeatOver 0 0
  else s

/-! ### Scan events (R120, R123) -/

/-- A scan begins and latches the pulse counts (R120, R123). -/
def beginScan (s : State) : State :=
  s.withSensor { s.sensor with
    scan := some ⟨0, s.sensor.pulsesA, s.sensor.pulsesB,
      if s.sensor.latched then some s.sensor.sinceLatch else none⟩
    nextScan := (nowMs s / (cfg s).scanInterval + 1) * (cfg s).scanInterval
    latched := true
    sinceLatch := 0
    pulsesA := 0
    pulsesB := 0 }

/-- A scan instant is reached; one reached while a scan is in flight begins none (R120). -/
def scanInstant (s : State) : State :=
  if s.seq.config.isSome && s.sensor.latched && decide (s.sensor.nextScan ≤ nowMs s) then
    if s.sensor.scan.isSome then
      s.withSensor { s.sensor with
        nextScan := (nowMs s / (cfg s).scanInterval + 1) * (cfg s).scanInterval }
    else beginScan s
  else s

/-- SELFCHECK ends with the first scan, and LISTEN begins (R184). -/
def endSelfcheck (s : State) : State :=
  if s.seq.station == .selfcheck then s.withSeq { s.seq with station := .listen, listenRun := 0 }
  else s

/-- The notices of a scan, in the order of R133: own sensor notice, conditions, WIND.  The event
flags are set before them, SENSOR_FAULT, ANEMO_DISAGREE and the heat flags in turn (log 58). -/
def scanNotices (before s : State) (judged : Bool) : State :=
  let t := scanHeatFlags before (scanDisagreeFlag (scanFaultFlags before s) judged)
  let t :=
    if s.sensor.level != before.sensor.level || s.sensor.status != before.sensor.status then
      ownSensorNotice t
    else t
  windAfterScan before (heaterConditions t (demand before))

/-- The scan completes (R120, R121, R133). -/
def scanDone (s : State) (r : ScanReadings) : State :=
  match s.sensor.scan with
  | some c =>
    if 12 ≤ c.run then
      let u := scanResult s c r
      let judged := (u.latest.map (·.2)) == some true && (cfg s).sensor && c.window.isSome
      endSelfcheck (scanNotices s (s.withSensor u) judged)
    else s
  | none => s

/-- An anemometer pulse ends (R123); its width is in tenths of a millisecond. -/
def pulse (s : State) (input : Anemometer) (width : Nat) : State :=
  if (cfg s).sensor && s.sensor.latched && decide ((cfg s).filterWidth ≤ width) then
    match input with
    | .a => s.withSensor { s.sensor with pulsesA := s.sensor.pulsesA + 1 }
    | .b => s.withSensor { s.sensor with pulsesB := s.sensor.pulsesB + 1 }
  else s

/-- A STOW WIND is due to be sent again (R132). -/
def resendDue (s : State) : Bool :=
  isReady s && (cfg s).sensor && s.sensor.level == .stow && s.sensor.status != .faulted &&
    (s.sensor.windRun.map fun r => decide (30000 ≤ r)) == some true

/-- A STOW WIND is queued again (R132). -/
def resend (s : State) : State := if resendDue s then queueWind s (levelCause s) else s

/-- The WIND of a station that becomes READY (R132). -/
def sensorReady (s : State) : State :=
  if (cfg s).sensor && s.sensor.status == .faulted then queueWind s 2
  else if (cfg s).sensor && s.sensor.level != .calm then queueWind s (levelCause s)
  else s

end Sys2Proof.Machine
end

