-- ==== Sys2Proof/Machine/Instants.lean ====
section
/-! DEFINITION. The instants of array time: which are reached, and their taking at a step of the
seconds (R82, R106, R120, R155, R174, R177). -/

namespace Sys2Proof.Machine

/-- A command posted where a condition holds. -/
def post (b : Bool) (i : Instr) : List Instr := if b then [i] else []

/-- The instants of the compacts that are reached, in the order of R106. -/
def dueCompacts (s : State) : List Instr :=
  s.compact.list.flatMap fun r =>
    post (r.state == .forming && decide (toMs r.start ≤ nowMs s)) (.compactStartTime r.id) ++
    post (isLive r && decide (toMs r.deadline ≤ nowMs s)) (.compactDeadline r.id)

/-- The instants of the loans that are reached (R174). -/
def dueLoans (s : State) : List Instr :=
  s.share.loans.flatMap fun e =>
    post (!e.lent && decide (e.expiry ≤ s.time.sec)) (.borrowedExpiry e.peer) ++
    post (e.lent && !e.grace && decide (e.expiry ≤ s.time.sec)) (.lentExpiry e.peer)

/-- The instants of the won window that are reached: its start and its end (R177). -/
def dueWindow (s : State) : List Instr :=
  match s.share.claim with
  | .won start _ false =>
    post (decide (start ≤ nowMs s)) .inrushWindowOpen ++
    post (decide (start + 500 ≤ nowMs s)) .inrushWindowEnd
  | .won start _ true => post (decide (start + 500 ≤ nowMs s)) .inrushWindowEnd
  | _ => []

/-- The instants of array time that are reached (R82); the order of the owners is log 3. -/
def dueInstants (s : State) : List Instr :=
  dueCompacts s ++
  post (s.seq.config.isSome && s.sensor.latched && decide (s.sensor.nextScan ≤ nowMs s))
    .scanStart ++
  post (isReady s && (s.heater.nextBoundary.map fun b => decide (b ≤ s.time.sec)) == some true)
    .heaterBoundary ++
  dueLoans s ++ dueWindow s

/-- An instant taken by its owner, as its own event takes it (R103, R114, R120, R155, R174, R177).
-/
def takeInstant (s : State) : Instr → State
  | .compactStartTime id => startTime s id
  | .compactDeadline id => deadline s id
  | .scanStart => scanInstant s
  | .heaterBoundary => boundaryReached s
  | .borrowedExpiry peer => borrowedExpired s peer
  | .lentExpiry peer => lentExpired s peer
  | .inrushWindowOpen => windowReached s
  | .inrushWindowEnd => windowEnded s
  | _ => s

/-- The instants that a step of the seconds has carried array time to or past are taken at that
step, each by its owner (R82), in the order of log 67. -/
def takeInstants (s : State) : State := (dueInstants s).foldl takeInstant s

end Sys2Proof.Machine
end

