-- ==== Sys2Proof/Machine/Peer.lean ====
section
/-! DEFINITION. The Peer Unit, the taking of a frame, the clash, and the own BEACON (R64, R65, R74,
R76, R81, R84 to R90). -/

namespace Sys2Proof.Machine

/-! ### The Peer Table (R83 to R88) -/

/-- The entry of a station (R83); a station never heard has an ABSENT entry with nothing in it,
its silence 0 (log 48). -/
def peerEntry (s : State) (n : Nat) : PeerEntry :=
  (s.peers.table.find? fun e => e.station == n).getD ⟨n, false, none, 0, false, none, none⟩

/-- An entry put in its place by number. -/
def putPeer (x : PeerEntry) : List PeerEntry → List PeerEntry
  | [] => [x]
  | e :: rest =>
    if e.station == x.station then x :: rest
    else if x.station < e.station then x :: e :: rest
    else e :: putPeer x rest

/-- The entry of a station replaced. -/
def setPeer (s : State) (x : PeerEntry) : State :=
  s.withPeers { s.peers with table := putPeer x s.peers.table }

/-- The peer-restarted notice to the blocks that act on it (R87), in the order of log 72. -/
def peerRestarted (s : State) (n : Nat) : State :=
  windPeerRestarted (compactPeerLost (sharePeerLost s n) n) n

/-- The peer-absent notice to the blocks that act on it (R87), in the order of log 72. -/
def peerAbsentNotice (s : State) (n : Nat) : State :=
  windPeerAbsent (compactPeerLost (sharePeerLost s n) n) n

/-- A frame of a station has been taken (R84): at a return the peer-present notice comes before the
peer-restarted notice, and the cells are judged once, after both (R84, R137; log 75). -/
def heard (s : State) (n : Nat) : State :=
  if n == s.seq.number then s
  else
    let e := peerEntry s n
    let back := !e.present && e.lastHeard.isSome
    let t := setPeer s { e with
      present := true, lastHeard := some (now s), silence := 0
      restartSeen := e.restartSeen || back }
    if e.present then t
    else
      let u := windPeerPresent t n back
      if back then peerRestarted u n else u

/-- The silence of an entry reaches 1500 (R85). -/
def peerSilent (s : State) (n : Nat) : State :=
  let e := peerEntry s n
  if e.present && decide (1500 ≤ e.silence) then
    peerAbsentNotice (setPeer s { e with present := false }) n
  else s

/-- The neighbour-mask notice as the Keep-out Unit takes it (R53, R54). -/
def neighbourMask (s : State) (n : Nat) (mask : Scope) : State :=
  let table := s.keepOut.map fun k =>
    if k.station == n then { k with inForce := scopeMotion mask } else k
  if table == s.keepOut then s else axisTableChange (s.withKeepOut table)

/-- A lock mask recorded from a dish (R88). -/
def recordMask (s : State) (n : Nat) (mask : Scope) : State :=
  if n == s.seq.number then s
  else neighbourMask (setPeer s { peerEntry s n with mask := some mask }) n mask

/-- Adoption of higher array seconds (R81, R86); the instants it reaches are taken at once (R82),
before the rest of the BEACON (log 67). -/
def adopt (s : State) (sec : Nat) : State :=
  if s.time.sec < sec then takeInstants (s.withTime { s.time with sec := sec }) else s

/-- Every field of a BEACON holds a value the layout defines (R84; log 12). -/
def beaconDefined (p : BeaconPayload) : Bool :=
  (p.stationState == 1 || p.stationState == 2) && decide (1 ≤ p.startCause ∧ p.startCause ≤ 3) &&
    decide (p.windLevel ≤ 2) && decide (p.sensorStatus ≤ 2) && decide (p.motion ≤ 6) &&
    decide (p.melt ≤ 6) && decide (p.ms ≤ 999) && decide (p.spare ≤ 63)

/-- The start flag of a BEACON (R86). -/
def takeStartFlag (s : State) (n : Nat) (flag : Bool) : State :=
  let e := peerEntry s n
  let t := setPeer s { e with restartSeen := flag }
  if flag && !e.restartSeen then peerRestarted t n else t

/-- A BEACON as the Peer Unit takes it (R84, R86, R88). -/
def takeBeacon (s : State) (n : Nat) (p : BeaconPayload) : State :=
  if beaconDefined p then
    let t := adopt s p.sec
    if n == s.seq.number then t
    else
      let t := takeStartFlag t n p.startFlag
      let t := setPeer t { peerEntry t n with beacon := some p }
      if isDish n then
        beaconSensorReport (recordMask t n p.mask) n p.sensorRole p.cell
          ((statusOf p.sensorStatus).getD .ok) ((levelOf p.windLevel).getD .calm)
      else t
  else s

/-- A LOCK_NOTICE as the Peer Unit takes it (R88); a count 4.10 does not define has it ignored. -/
def takeLockNotice (s : State) (n : Nat) (mask : Scope) (entries keys remotes : Nat) : State :=
  if entries ≤ 8 && keys ≤ 4 && remotes ≤ 4 then recordMask s n mask else s

/-! ### The clash (R76) -/

/-- Entry into FAULTED of kind CLASH: the queue is emptied, ID_CLASH set, and every block told (R29,
R76, R118, R147, R164, R179). -/
def enterClash (s : State) : State :=
  let t := s.withSeq { s.seq with station := .faulted .clash }
  let t := t.withLine { t.line with queue := [], sending := none }
  let t := setFlag t flagIdClash 0 0
  let t := t.withPeers { t.peers with beaconRun := none }
  let t := compactClash (axisClash t)
  let t := shareClash (allOff t .reset)
  if s.seq.station == .listen then orderIfStowed t else t

/-! ### Taking a frame (R64, R65, R74) -/

/-- A frame read without fault returns the veto counter to 0 and the receive state to VETOING
(R65). -/
def cleanRead (s : State) : State :=
  s.withLine { s.line with vetoCount := 0, passive := false }

/-- A frame is taken from another station: the clash test, the Peer Unit, then delivery (R74). -/
def takeFrame (s : State) (sender : Nat) (deliver : State → State) : State :=
  if receives s && decide (1 ≤ sender ∧ sender ≤ 63) then
    let t := cleanRead s
    let t := if sender == s.seq.number && !isClash s then enterClash t else t
    deliver (heard t sender)
  else s

/-- A frame of a kind that only dishes send is delivered to no block from a console (R74). -/
def takeDishFrame (s : State) (sender : Nat) (deliver : State → State) : State :=
  takeFrame s sender fun t => if isConsole sender then t else deliver t

/-- A frame of a kind that only consoles send is ignored from a dish (R74). -/
def takeConsoleFrame (s : State) (sender : Nat) (deliver : State → State) : State :=
  takeFrame s sender fun t => if isConsole sender then deliver t else t

/-! ### The own BEACON (R89, R90) -/

/-- The active compact id (R115). -/
def activeCompact (s : State) : Nat := ((s.compact.list.find? isFlying).map (·.id)).getD 0

/-- The payload of the own BEACON (R90). -/
def buildBeacon (s : State) : BeaconPayload where
  sec := s.time.sec
  ms := s.time.ms
  startFlag := decide (s.peers.startCount < 4)
  startCause := causeCode s.seq.cause
  configFault := isConfigFault s
  stationState := if isReady s then 1 else 2
  windLevel := if (cfg s).sensor then levelCode s.sensor.level else 0
  sensorStatus := statusCode s.sensor.status
  sensorRole := (cfg s).sensor
  cell := (cfg s).ownCell
  windSpeed := if (cfg s).sensor then s.sensor.combined else 0
  faultSummary := faultSummary s
  stowBlocked := s.wind.blocked
  motion := motionCode s.axis.motion
  az := s.axis.posAz
  el := s.axis.posEl
  mask := lockMask s
  compactId := activeCompact s
  spare := spareShares s
  melt := s.sensor.melt

/-- The own BEACON is queued and its interval begins (R89). -/
def queueBeacon (s : State) : State :=
  let t := queueFrame s (.beacon (buildBeacon s))
  t.withPeers { t.peers with beaconRun := some 0 }

/-- 250 ms have passed since the last BEACON was queued (R89). -/
def beaconDue (s : State) (p : Encoders) : State :=
  match s.peers.beaconRun with
  | some r =>
    if decide (250 ≤ r) && transmits s then queueBeacon (readEncoders s p) else s
  | none => s

end Sys2Proof.Machine
end

