-- ==== Sys2Proof/Machine/Clock.lean ====
section
/-! DEFINITION. The Time Unit: counting, the second pulse, holds, free-run (R78, R79, R80). -/

namespace Sys2Proof.Machine

/-- The last value of the array seconds (5.1). -/
def lastSecond : Nat := 4294967295

/-- Array time advanced by one millisecond, standing still at its end (R78). -/
def advance (t : TimeUnit) : TimeUnit :=
  if t.ms < 999 then { t with ms := t.ms + 1 }
  else if t.sec < lastSecond then { t with sec := t.sec + 1, ms := 0 }
  else t

/-- One counted millisecond (R78, R80). -/
def countMs (t : TimeUnit) : TimeUnit :=
  let u := if 0 < t.hold then { t with hold := t.hold - 1 } else advance t
  { u with watch := min 1500 (t.watch + 1) }

/-- The second pulse lines the count up (R79).  `v` is used where the seconds stand at their end:
the manual does not state the count then, and array time never decreases (log 17). -/
def alignPulse (t : TimeUnit) (v : Nat) : TimeUnit :=
  let u := { t with watch := 0, free := false }
  if 500 ≤ t.ms then
    if t.sec < lastSecond then { u with sec := t.sec + 1, ms := 0, hold := 0 }
    else { u with ms := t.ms + v % (1000 - t.ms), hold := 0 }
  else { u with hold := t.ms, holding := decide (0 < t.ms) }

/-- Array time as the second pulse leaves it (R79, R80). -/
def pulsed (s : State) : State :=
  if 500 ≤ s.time.ms && s.time.sec == lastSecond then
    (takeFree s).2.withTime (alignPulse s.time (takeFree s).1)
  else s.withTime (alignPulse s.time 0)

/-- The second pulse (R79, R80): where it moves array time on, the instants reached are taken at
once (R82).  A held part counts nothing (R187). -/
def secondPulse (s : State) : State :=
  if s.seq.held then s
  else if 500 ≤ s.time.ms then takeInstants (pulsed s)
  else pulsed s

/-- The hold count has reached 0 (R79). -/
def holdOver (s : State) : State :=
  if s.time.holding && s.time.hold == 0 then s.withTime { s.time with holding := false } else s

/-- The pulse watch has reached 1500 in PULSED (R80). -/
def watchOver (s : State) : State :=
  if decide (1500 ≤ s.time.watch) && !s.time.free then
    setFlag (s.withTime { s.time with free := true }) flagTimeFreerun 1 0
  else s

/-- The reference clock input stops (R78). -/
def clockStops (s : State) : State :=
  if s.pins.refclk then
    let t := s.withPins { s.pins with refclk := false }
    if s.seq.held then t else setFlag t flagTimeFreerun 2 0
  else s

/-- The reference clock input resumes (R78). -/
def clockResumes (s : State) : State := s.withPins { s.pins with refclk := true }

end Sys2Proof.Machine
end

