-- ==== Sys2Proof/Machine/Wire.lean ====
section
/-! DEFINITION. The bytes of a frame: the check, the format faults (4.2, R62), and the layouts of
the payloads (4.10), both ways, and of the values of an ANSWER (R192). -/

namespace Sys2Proof.Machine

/-! ### The check (4.2, R182) -/

/-- One bit of the CRC with generator x^16 + x^12 + x^5 + 1. -/
def crcBit (c : BitVec 16) : BitVec 16 :=
  if c.msb then (c <<< 1) ^^^ 0x1021 else c <<< 1

/-- One byte of the CRC, most significant bit first. -/
def crcByte (c : BitVec 16) (b : Byte) : BitVec 16 :=
  (crcBit ∘ crcBit ∘ crcBit ∘ crcBit ∘ crcBit ∘ crcBit ∘ crcBit ∘ crcBit)
    (c ^^^ (b.setWidth 16 <<< 8))

/-- The check of some bytes: register preset to all ones, no final inversion. -/
def crc (l : List Byte) : BitVec 16 := l.foldl crcByte 0xFFFF

/-! ### Fields -/

/-- A number in `k` bytes, most significant first. -/
def beBytes : Nat → Nat → List Byte
  | 0, _ => []
  | k + 1, v => BitVec.ofNat 8 (v / 256 ^ k) :: beBytes k v

/-- A signed number in `k` bytes, in two's complement. -/
def beInt (k : Nat) (x : Int) : List Byte := beBytes k (x % (256 ^ k : Nat)).toNat

/-- The number some bytes hold, most significant first. -/
def ofBe (l : List Byte) : Nat := l.foldl (fun acc b => acc * 256 + b.toNat) 0

/-- The signed number some bytes hold. -/
def ofBeInt (l : List Byte) : Int :=
  if ofBe l < 256 ^ l.length / 2 then ofBe l else (ofBe l : Int) - (256 ^ l.length : Nat)

/-- A field of `n` bytes from byte `i` on. -/
def field (l : List Byte) (i n : Nat) : Nat := ofBe ((l.drop i).take n)

/-- A signed field of `n` bytes from byte `i` on. -/
def fieldInt (l : List Byte) (i n : Nat) : Int := ofBeInt ((l.drop i).take n)

/-- Some bits of a number: `n` of them from bit `i` on. -/
def bits (v i n : Nat) : Nat := v / 2 ^ i % 2 ^ n

/-- One bit of a number. -/
def bit (v i : Nat) : Bool := v / 2 ^ i % 2 == 1

/-- The number of a bit. -/
def bitNat (b : Bool) : Nat := if b then 1 else 0

/-- A scope or lock mask as one byte (4.10.1). -/
def scopeByte (m : Scope) : Nat := bitNat m.az + 2 * bitNat m.el + 4 * bitNat m.heat

/-- The scope a byte holds, bits 3 to 7 ignored (4.10.1). -/
def scopeOf (v : Nat) : Scope := ⟨bit v 0, bit v 1, bit v 2⟩

/-! ### Format faults (R62) -/

/-- A kind's class values and payload lengths, lowest and highest (4.10). -/
def kindTable : Nat → Option (List Nat × Nat × Nat)
  | 1 => some ([2], 23, 23)
  | 2 => some ([0], 5, 5)
  | 3 => some ([0], 4, 4)
  | 4 => some ([0], 4, 4)
  | 5 => some ([0], 3, 3)
  | 6 => some ([1], 29, 29)
  | 7 => some ([1], 4, 4)
  | 8 => some ([1], 2, 2)
  | 9 => some ([1], 2, 2)
  | 10 => some ([1], 2, 2)
  | 11 => some ([1], 9, 9)
  | 12 => some ([1], 3, 3)
  | 13 => some ([1], 11, 11)
  | 14 => some ([2], 1, 1)
  | 15 => some ([2], 6, 6)
  | 16 => some ([2], 2, 2)
  | 17 => some ([1], 7, 7)
  | 18 => some ([2], 3, 3)
  | 19 => some ([2], 3, 3)
  | 20 => some ([1], 2, 2)
  | 21 => some ([0, 2], 8, 8)
  | 22 => some ([2], 5, 25)
  | _ => none

/-- A receiver finds a format fault in what it hears (R62). -/
def formatFault (raw : RawFrame) : Bool :=
  raw.cut ||
    match raw.bytes with
    | a :: k :: n :: rest =>
      match kindTable k.toNat with
      | some (classes, lo, hi) =>
        !classes.contains (a.toNat / 64) || a.toNat % 64 == 0 ||
          decide (n.toNat < lo) || decide (hi < n.toNat) ||
          rest.length != n.toNat + 2 ||
          ofBe (rest.drop n.toNat) != (crc (raw.bytes.take (n.toNat + 3))).toNat
      | none => true
    | _ => true

/-! ### Payloads (4.10.1, 4.10.2) -/

/-- The payload of a BEACON; the bits that 4.10.1 assigns to no field are 0 (log 66). -/
def beaconBytes (p : BeaconPayload) : List Byte :=
  beBytes 4 p.sec ++ beBytes 2 p.ms ++
  beBytes 1 (bitNat p.startFlag * 128 + p.startCause * 16 + bitNat p.configFault * 4 +
    p.stationState) ++
  beBytes 1 (p.windLevel * 64 + p.sensorStatus * 16 + bitNat p.sensorRole * 8 + p.cell) ++
  beBytes 2 p.windSpeed ++
  beBytes 1 (bitNat p.faultSummary * 16 + bitNat p.stowBlocked * 8 + p.motion) ++
  beInt 4 p.az ++ beInt 3 p.el ++ beBytes 1 (scopeByte p.mask) ++ beBytes 2 p.compactId ++
  beBytes 1 p.spare ++ beBytes 1 p.melt

/-- The BEACON a payload holds, whatever stands in the bits that 4.10.1 assigns to no field
(log 66). -/
def beaconOf (l : List Byte) : BeaconPayload where
  sec := field l 0 4
  ms := field l 4 2
  startFlag := bit (field l 6 1) 7
  startCause := bits (field l 6 1) 4 3
  configFault := bit (field l 6 1) 2
  stationState := bits (field l 6 1) 0 2
  windLevel := bits (field l 7 1) 6 2
  sensorStatus := bits (field l 7 1) 4 2
  sensorRole := bit (field l 7 1) 3
  cell := bits (field l 7 1) 0 3
  windSpeed := field l 8 2
  faultSummary := bit (field l 10 1) 4
  stowBlocked := bit (field l 10 1) 3
  motion := bits (field l 10 1) 0 3
  az := fieldInt l 11 4
  el := field l 15 3
  mask := scopeOf (field l 18 1)
  compactId := field l 19 2
  spare := field l 21 1
  melt := field l 22 1

/-- The payload of a CALL. -/
def callBytes (p : CallPayload) : List Byte :=
  beBytes 2 p.id ++ beBytes 1 p.mode ++ beBytes 8 p.members.toNat ++ beBytes 3 p.skyAz ++
  beBytes 3 p.el ++ beBytes 4 p.start.sec ++ beBytes 2 p.start.ms ++ beBytes 4 p.deadline.sec ++
  beBytes 2 p.deadline.ms

/-- The CALL a payload holds. -/
def callOf (l : List Byte) : CallPayload where
  id := field l 0 2
  mode := field l 2 1
  members := BitVec.ofNat 64 (field l 3 8)
  skyAz := field l 11 3
  el := field l 14 3
  start := ⟨field l 17 4, field l 21 2⟩
  deadline := ⟨field l 23 4, field l 27 2⟩

/-- The sender, kind code and payload of the frame a command stands for.  None for the commands
that are no frame, and for EVENT and ANSWER, of which a station takes the sender alone (R74). -/
def framePayload : Instr → Option (Nat × Nat × List Byte)
  | .beaconReceived sender p => some (sender, 1, beaconBytes p)
  | .windReceived sender cell level speed cause =>
    some (sender, 2, beBytes 1 cell ++ beBytes 1 level ++ beBytes 2 speed ++ beBytes 1 cause)
  | .lockNoticeReceived sender mask entries keys remotes =>
    some (sender, 3, beBytes 1 (scopeByte mask) ++ beBytes 1 entries ++ beBytes 1 keys ++
      beBytes 1 remotes)
  | .lockSet sender target token scope =>
    some (sender, 4, beBytes 1 target ++ beBytes 2 token ++ beBytes 1 (scopeByte scope))
  | .lockClear sender target token => some (sender, 5, beBytes 1 target ++ beBytes 2 token)
  | .call sender p => some (sender, 6, callBytes p)
  | .reply sender id verdict reason =>
    some (sender, 7, beBytes 2 id ++ beBytes 1 verdict ++ beBytes 1 reason)
  | .hold sender id => some (sender, 8, beBytes 2 id)
  | .resume sender id => some (sender, 9, beBytes 2 id)
  | .cancel sender id => some (sender, 10, beBytes 2 id)
  | .arrive sender id az el => some (sender, 11, beBytes 2 id ++ beInt 4 az ++ beInt 3 el)
  | .leave sender id reason => some (sender, 12, beBytes 2 id ++ beBytes 1 reason)
  | .movePoint sender target purpose az el rate =>
    some (sender, 13, beBytes 1 target ++ beBytes 1 purpose ++ beInt 4 az ++ beBytes 3 el ++
      beBytes 2 rate)
  | .moveReferenceAz sender target =>
    some (sender, 13, beBytes 1 target ++ beBytes 1 1 ++ beBytes 9 0)
  | .moveReferenceEl sender target =>
    some (sender, 13, beBytes 1 target ++ beBytes 1 2 ++ beBytes 9 0)
  | .shareAsk sender amount => some (sender, 14, beBytes 1 amount)
  | .shareGrant sender borrower amount expiry =>
    some (sender, 15, beBytes 1 borrower ++ beBytes 1 amount ++ beBytes 4 expiry)
  | .shareBack sender lender amount =>
    some (sender, 16, beBytes 1 lender ++ beBytes 1 amount)
  | .inrush sender start zones =>
    some (sender, 17, beBytes 4 start.sec ++ beBytes 2 start.ms ++ beBytes 1 zones)
  | .queryIdent sender target item index =>
    some (sender, 18, beBytes 1 target ++ beBytes 1 item ++ beBytes 1 index)
  | .queryConfig sender target index =>
    some (sender, 18, beBytes 1 target ++ beBytes 1 2 ++ beBytes 1 index)
  | .queryDish sender target index _ =>
    some (sender, 18, beBytes 1 target ++ beBytes 1 3 ++ beBytes 1 index)
  | .queryLocks sender target index =>
    some (sender, 18, beBytes 1 target ++ beBytes 1 4 ++ beBytes 1 index)
  | .queryCompacts sender target index =>
    some (sender, 18, beBytes 1 target ++ beBytes 1 5 ++ beBytes 1 index)
  | .queryMembers sender target index =>
    some (sender, 18, beBytes 1 target ++ beBytes 1 6 ++ beBytes 1 index)
  | .queryLoans sender target index =>
    some (sender, 18, beBytes 1 target ++ beBytes 1 7 ++ beBytes 1 index)
  | .queryShares sender target index =>
    some (sender, 18, beBytes 1 target ++ beBytes 1 8 ++ beBytes 1 index)
  | .queryZones sender target index =>
    some (sender, 18, beBytes 1 target ++ beBytes 1 9 ++ beBytes 1 index)
  | .queryMelt sender target index =>
    some (sender, 18, beBytes 1 target ++ beBytes 1 10 ++ beBytes 1 index)
  | .queryCells sender target index =>
    some (sender, 18, beBytes 1 target ++ beBytes 1 11 ++ beBytes 1 index)
  | .queryScan sender target index =>
    some (sender, 18, beBytes 1 target ++ beBytes 1 12 ++ beBytes 1 index)
  | .queryFlags sender target index =>
    some (sender, 18, beBytes 1 target ++ beBytes 1 13 ++ beBytes 1 index)
  | .queryPeer sender target index =>
    some (sender, 18, beBytes 1 target ++ beBytes 1 14 ++ beBytes 1 index)
  | .clear sender target flags =>
    some (sender, 19, beBytes 1 target ++ beBytes 2 flags.toNat)
  | .resetAll sender target scope _ => some (sender, 20, beBytes 1 target ++ beBytes 1 scope)
  | .resetMotion sender target => some (sender, 20, beBytes 1 target ++ beBytes 1 2)
  | .resetHeat sender target => some (sender, 20, beBytes 1 target ++ beBytes 1 3)
  | _ => none

/-- The bytes of a frame from its sender, class, kind and payload (4.2). -/
def frameBytes (sender cls kind : Nat) (payload : List Byte) : List Byte :=
  let body := BitVec.ofNat 8 (cls * 64 + sender) :: BitVec.ofNat 8 kind ::
    BitVec.ofNat 8 payload.length :: payload
  body ++ beBytes 2 (crc body).toNat

/-- The class of a kind other than EVENT (4.10). -/
def kindClass (kind : Nat) : Nat :=
  match kindTable kind with
  | some (c :: _, _) => c
  | _ => 3

/-- The frame a command stands for, as heard on the line (4.2, 4.10). -/
def commandFrame (i : Instr) : Option RawFrame :=
  (framePayload i).map fun f => ⟨frameBytes f.1 (kindClass f.2.1) f.2.1 f.2.2, false⟩

/-- The QUERY an item code stands for (R193); an undefined code goes to the first row (log 9). -/
def queryOf (at_ : Encoders) (sender target item index : Nat) : Instr :=
  match item with
  | 2 => .queryConfig sender target index
  | 3 => .queryDish sender target index at_
  | 4 => .queryLocks sender target index
  | 5 => .queryCompacts sender target index
  | 6 => .queryMembers sender target index
  | 7 => .queryLoans sender target index
  | 8 => .queryShares sender target index
  | 9 => .queryZones sender target index
  | 10 => .queryMelt sender target index
  | 11 => .queryCells sender target index
  | 12 => .queryScan sender target index
  | 13 => .queryFlags sender target index
  | 14 => .queryPeer sender target index
  | _ => .queryIdent sender target item index

/-- The MOVE a purpose code stands for (4.10.2; log 9). -/
def moveOf (sender : Nat) (l : List Byte) : Instr :=
  match field l 1 1 with
  | 1 => .moveReferenceAz sender (field l 0 1)
  | 2 => .moveReferenceEl sender (field l 0 1)
  | p => .movePoint sender (field l 0 1) p (fieldInt l 2 4) (field l 6 3) (field l 9 2)

/-- The RESET a scope code stands for (4.10.2; log 9). -/
def resetOf (straps : Straps) (sender : Nat) (l : List Byte) : Instr :=
  match field l 1 1 with
  | 2 => .resetMotion sender (field l 0 1)
  | 3 => .resetHeat sender (field l 0 1)
  | c => .resetAll sender (field l 0 1) c straps

/-- The command a payload of a kind gives, from a sender; `straps` and `at_` are the inputs as they
stand when the frame is taken. -/
def payloadCommand (straps : Straps) (at_ : Encoders) (sender kind : Nat) (l : List Byte) :
    Option Instr :=
  match kind with
  | 1 => some (.beaconReceived sender (beaconOf l))
  | 2 => some (.windReceived sender (field l 0 1) (field l 1 1) (field l 2 2) (field l 4 1))
  | 3 => some (.lockNoticeReceived sender (scopeOf (field l 0 1)) (field l 1 1) (field l 2 1)
      (field l 3 1))
  | 4 => some (.lockSet sender (field l 0 1) (field l 1 2) (scopeOf (field l 3 1)))
  | 5 => some (.lockClear sender (field l 0 1) (field l 1 2))
  | 6 => some (.call sender (callOf l))
  | 7 => some (.reply sender (field l 0 2) (field l 2 1) (field l 3 1))
  | 8 => some (.hold sender (field l 0 2))
  | 9 => some (.resume sender (field l 0 2))
  | 10 => some (.cancel sender (field l 0 2))
  | 11 => some (.arrive sender (field l 0 2) (fieldInt l 2 4) (field l 6 3))
  | 12 => some (.leave sender (field l 0 2) (field l 2 1))
  | 13 => some (moveOf sender l)
  | 14 => some (.shareAsk sender (field l 0 1))
  | 15 => some (.shareGrant sender (field l 0 1) (field l 1 1) (field l 2 4))
  | 16 => some (.shareBack sender (field l 0 1) (field l 1 1))
  | 17 => some (.inrush sender ⟨field l 0 4, field l 4 2⟩ (field l 6 1))
  | 18 => some (queryOf at_ sender (field l 0 1) (field l 1 1) (field l 2 1))
  | 19 => some (.clear sender (field l 0 1) (BitVec.ofNat 16 (field l 1 2)))
  | 20 => some (resetOf straps sender l)
  | 21 => some (.eventReceived sender)
  | 22 => some (.answerReceived sender)
  | _ => none

/-- The command a frame heard without fault gives (4.2, 4.10); none for a frame at fault. -/
def frameCommand (straps : Straps) (at_ : Encoders) (raw : RawFrame) : Option Instr :=
  if formatFault raw then none
  else
    match raw.bytes with
    | a :: k :: n :: rest =>
      payloadCommand straps at_ (a.toNat % 64) k.toNat (rest.take n.toNat)
    | _ => none

/-! ### The value bytes of an ANSWER (4.10.1, R192)

A field that a frame of 4.10 carries has the width and code it has there.  The codes and widths of
the others, that an absent field has no bytes, and the cut at 20 bytes are the model's choice (log
8). -/

/-- A mark. -/
def markByte (b : Bool) : List Byte := beBytes 1 (bitNat b)

/-- A field that may be absent, which then has no bytes (log 8). -/
def optBytes {α : Type} (f : α → List Byte) (x : Option α) : List Byte := (x.map f).getD []

/-- An array time in seconds, where it is present. -/
def secondsBytes (t : Option Nat) : List Byte := optBytes (beBytes 4) t

/-- A fault kind: 0 none, 1 NUMBER, 2 CONFIG, 3 CLASH. -/
def faultKindCode : Option FaultKind → Nat
  | none => 0
  | some .number => 1
  | some .config => 2
  | some .clash => 3

/-- A configuration fault's cause (1 READ, 2 CHECK, 3 VALUE), and a value's byte offset. -/
def configFaultBytes : ConfigFault → List Byte
  | .read => beBytes 1 1
  | .check => beBytes 1 2
  | .value offset => beBytes 1 3 ++ beBytes 1 offset

/-- A lockout entry's kind (0 KEY, 1 REMOTE) and the key input, or the token and the console. -/
def holderBytes : LockHolder → List Byte
  | .key k => beBytes 1 0 ++ beBytes 1 k
  | .remote token console => beBytes 1 1 ++ beBytes 2 token ++ beBytes 1 console

/-- A key's debounce state, in the order of R35; nothing for a remote entry. -/
def keyStateBytes : Option KeyState → List Byte
  | none => []
  | some .checking => beBytes 1 0
  | some .opened => beBytes 1 1
  | some .closing => beBytes 1 2
  | some .closed => beBytes 1 3
  | some .opening => beBytes 1 4

/-- A compact state, in the order of R91. -/
def compactStateCode : CompactState → Nat
  | .forming => 0
  | .moving => 1
  | .held => 2
  | .complete => 3
  | .abandoned => 4
  | .timedOut => 5
  | .cancelled => 6

/-- A member state, in the order of R92. -/
def memberStateCode : MemberState → Nat
  | .unanswered => 0
  | .accepted => 1
  | .declined _ => 2
  | .arrived _ _ => 3
  | .left _ => 4

/-- The reason of a member state that has one (R119). -/
def memberReason : MemberState → List Byte
  | .declined reason => beBytes 1 reason
  | .left reason => beBytes 1 reason
  | _ => []

/-- The final position of an ARRIVED member. -/
def memberPosition : MemberState → List Byte
  | .arrived az el => beInt 4 az ++ beInt 3 el
  | _ => []

/-- A zone state, in the order of R152. -/
def zoneStateCode : ZoneState → Nat
  | .off => 0
  | .want => 1
  | .claim => 2
  | .on => 3
  | .rest => 4

/-- A last switch-off cause, from 1 in the order of R152. -/
def offCauseCode : OffCause → Nat
  | .duty => 1
  | .shed => 2
  | .lock => 3
  | .sensor => 4
  | .demand => 5
  | .reset => 6

/-- The state of the own inrush claim, in the order of R177. -/
def claimCode : Claim → Nat
  | .none => 0
  | .queued => 1
  | .sent => 2
  | .won .. => 3

/-- A cell state, in the order of R135. -/
def cellStateCode : CellState → Nat
  | .calm => 0
  | .watch => 1
  | .stow => 2
  | .settle => 3

/-- The cause of a cell: SPEED and GUST as a WIND codes them (4.10.2), NO_SENSOR, which no frame
carries, 3 beside WIND's 2 for SENSOR_FAULT (log 8). -/
def cellCauseCode : WindCause → Nat
  | .speed => 0
  | .gust => 1
  | .noSensor => 3

/-- A crossing: the positions before and after, the polarity (1 UP, 2 DOWN) and the time. -/
def crossingBytes : Band × Band × Bool × Nat → List Byte
  | (before, after, up, t) =>
    beBytes 1 (bandRank before) ++ beBytes 1 (bandRank after) ++ beBytes 1 (if up then 1 else 2) ++
      beBytes 4 t

/-- A progress: leg index and leg count. -/
def progressBytes (p : Nat × Nat) : List Byte := beBytes 3 p.1 ++ beBytes 3 p.2

/-- What index 0 of SCAN adds. -/
def conditionsBytes (c : ScanConditions) : List Byte :=
  markByte c.cold ++ markByte c.icePresent ++ beBytes 1 (statusCode c.status) ++
    beBytes 2 c.combined ++ optBytes (fun x => beBytes 4 x.1 ++ markByte x.2) c.latest

/-- The fields of a value, in its order. -/
def valueFields : AnswerValue → List Byte
  | .ident vendor part revision => beBytes 1 vendor ++ beBytes 1 part ++ beBytes 1 revision
  | .configSummary number cause sender kind fault =>
    beBytes 1 number ++ beBytes 1 (causeCode cause) ++ optBytes (beBytes 1) sender ++
      beBytes 1 (faultKindCode kind) ++ optBytes configFaultBytes fault
  | .configPart bytes => bytes
  | .dish motion az el refAz refEl progress =>
    beBytes 1 (motionCode motion) ++ beInt 4 az ++ beInt 3 el ++ markByte refAz ++ markByte refEl ++
      optBytes progressBytes progress
  | .lock holder scope placed key =>
    holderBytes holder ++ beBytes 1 (scopeByte scope) ++ beBytes 4 placed ++ keyStateBytes key
  | .compact id console partialMode state start deadline az el own progress unanswered accepted
      declined arrived gone holds terminalAt =>
    beBytes 2 id ++ beBytes 1 console ++ markByte partialMode ++
      beBytes 1 (compactStateCode state) ++ beBytes 4 start ++ beBytes 4 deadline ++ beInt 4 az ++
      beInt 3 el ++ beBytes 1 (memberStateCode own) ++ optBytes progressBytes progress ++
      beBytes 1 unanswered ++ beBytes 1 accepted ++
      beBytes 1 declined ++ beBytes 1 arrived ++ beBytes 1 gone ++ beBytes 1 holds ++
      secondsBytes terminalAt
  | .member id entry holding =>
    beBytes 2 id ++ beBytes 1 entry.station ++ beBytes 1 (memberStateCode entry.state) ++
      memberReason entry.state ++ markByte holding ++ memberPosition entry.state
  | .loan peer lent amount expiry grace =>
    beBytes 1 peer ++ markByte (!lent) ++ beBytes 1 amount ++ beBytes 4 expiry ++ markByte grace
  | .shares entitlement axisShares motion heaterCommit heaterWant lent borrowed held committed spare
      free shortfall busyUntil claim =>
    beBytes 1 entitlement ++ beBytes 1 axisShares ++ beBytes 1 motion ++ beBytes 1 heaterCommit ++
      beBytes 1 heaterWant ++ beBytes 1 lent ++ beBytes 1 borrowed ++ beBytes 1 held ++
      beBytes 1 committed ++ beBytes 1 spare ++ beBytes 1 free ++ beBytes 1 shortfall ++
      beBytes 4 busyUntil ++ beBytes 1 (claimCode claim)
  | .zone enable shares state switchedAt onRun claimOrder lastCause pointer duty =>
    markByte enable ++ beBytes 1 shares ++ beBytes 1 (zoneStateCode state) ++
      secondsBytes switchedAt ++ optBytes (beBytes 4) onRun ++ optBytes (beBytes 1) claimOrder ++
      optBytes (beBytes 1 ∘ offCauseCode) lastCause ++ beBytes 1 pointer ++ beBytes 1 duty
  | .melt code changed => beBytes 1 code ++ markByte changed
  | .cell state cause own followed lastStow settleStart entries working roster =>
    beBytes 1 (cellStateCode state) ++ optBytes (beBytes 1 ∘ cellCauseCode) cause ++
      beBytes 1 (if own then 1 else if followed then 2 else 0) ++ secondsBytes lastStow ++
      secondsBytes settleStart ++ beBytes 1 entries ++ beBytes 1 working ++
      roster.flatMap fun e => beBytes 1 e.1 ++ markByte e.2
  | .scan reading band crossing conditions =>
    optBytes (beInt 2) reading ++ beBytes 1 (bandRank band) ++ optBytes crossingBytes crossing ++
      optBytes conditionsBytes conditions
  | .flags set mask summary => beBytes 2 set.toNat ++ beBytes 2 mask.toNat ++ markByte summary
  | .flag on detail extra time =>
    markByte on ++ beBytes 1 detail ++ beBytes 2 extra ++ beBytes 4 time
  | .peer present lastHeard silence console beacon restartSeen mask =>
    markByte present ++ secondsBytes lastHeard ++ beBytes 2 silence ++ markByte console ++
      optBytes beaconBytes beacon ++ markByte restartSeen ++
      optBytes (beBytes 1 ∘ scopeByte) mask

/-- The value bytes of an ANSWER, at most 20 (4.10.1). -/
def valueBytes (v : AnswerValue) : List Byte := (valueFields v).take 20

/-! ### Own frames -/

/-- The class, kind code and payload of an own frame (4.10). -/
def ownPayload : Frame → Nat × Nat × List Byte
  | .beacon p => (2, 1, beaconBytes p)
  | .wind cell level speed cause =>
    (0, 2, beBytes 1 cell ++ beBytes 1 level ++ beBytes 2 speed ++ beBytes 1 cause)
  | .lockNotice mask entries keys remotes =>
    (0, 3, beBytes 1 (scopeByte mask) ++ beBytes 1 entries ++ beBytes 1 keys ++
      beBytes 1 remotes)
  | .reply id verdict reason => (1, 7, beBytes 2 id ++ beBytes 1 verdict ++ beBytes 1 reason)
  | .hold id => (1, 8, beBytes 2 id)
  | .resume id => (1, 9, beBytes 2 id)
  | .arrive id az el => (1, 11, beBytes 2 id ++ beInt 4 az ++ beInt 3 el)
  | .leave id reason => (1, 12, beBytes 2 id ++ beBytes 1 reason)
  | .shareAsk amount => (2, 14, beBytes 1 amount)
  | .shareGrant borrower amount expiry =>
    (2, 15, beBytes 1 borrower ++ beBytes 1 amount ++ beBytes 4 expiry)
  | .shareBack lender amount => (2, 16, beBytes 1 lender ++ beBytes 1 amount)
  | .inrush start zones =>
    (1, 17, beBytes 4 start.sec ++ beBytes 2 start.ms ++ beBytes 1 zones)
  | .event flag detail t =>
    (if [0, 1, 2, 3, 4, 5, 7, 8, 15].contains flag then 0 else 2, 21,
      beBytes 1 flag ++ beBytes 1 detail ++ beBytes 4 t.sec ++ beBytes 2 t.ms)
  | .answer console subject key outcome value =>
    (2, 22, beBytes 1 console ++ beBytes 1 subject ++ beBytes 2 key ++ beBytes 1 outcome ++
      optBytes valueBytes value)

/-- An own frame as it goes onto the line (4.2). -/
def ownBytes (s : State) (f : Frame) : List Byte :=
  frameBytes s.seq.number (ownPayload f).1 (ownPayload f).2.1 (ownPayload f).2.2

end Sys2Proof.Machine
end

