-- ==== Sys2Proof/Machine/LineEvents.lean ====
section
/-! DEFINITION. The fate of own frames and of faulty ones: hand-over, arbitration, success, failure,
QUIET and the veto counter (R63 to R69, R73, R75). -/

namespace Sys2Proof.Machine

/-! ### Hand-over (R69) -/

/-- The first frame of a class, the oldest first. -/
def firstOf (q : List TxEntry) (c : FrameClass) : Option TxEntry :=
  q.find? fun e => frameClass e.frame == c

/-- The first frame in queue order (R68). -/
def firstInOrder (q : List TxEntry) : Option TxEntry :=
  firstOf q .safety <|> firstOf q .coord <|> firstOf q .routine

/-- The queue with the frame of one age changed by a function. -/
def changeTx (s : State) (age : Nat) (f : TxEntry → TxEntry) : State :=
  s.withLine { s.line with queue := s.line.queue.map fun e => if e.age == age then f e else e }

/-- A queued frame leaves the queue. -/
def dropTx (s : State) (age : Nat) : State := s.withLine (s.line.remove age)

/-- The amount of a SHARE_GRANT at its start notice (R172); none where it is withdrawn. -/
def grantAtStart (s : State) (borrower amount wanted : Nat) : Option Nat :=
  let a := min amount (min wanted (spareShares s))
  if mayGrant s borrower && isPresent s borrower && a != 0 then some a else none

/-- What the owner makes of an unstarted frame at its start notice; none where it is withdrawn
(R69, R90, R172, R177).  The expiry of a grant may pass the last value of array seconds (log
60). -/
def atStartNotice (s : State) (e : TxEntry) : Option Frame :=
  match e.frame with
  | .beacon _ => some (.beacon (buildBeacon s))
  | .shareGrant b a _ =>
    (grantAtStart s b a e.stillWanted).map fun amount =>
      .shareGrant b amount (s.time.sec + (cfg s).loanTerm)
  | .inrush .. =>
    if s.share.claimCount == 0 then none else some (.inrush (inrushStart s) s.share.claimCount)
  | f => some f

/-- The started frame's attempt begins; a BEACON whose lock mask is out of date has it rewritten
(R47, R69, R73). -/
def beginAttempt (s : State) (age : Nat) : State :=
  let t := changeTx s age fun e =>
    match e.frame with
    | .beacon p => { e with frame := .beacon { p with mask := lockMask s } }
    | _ => e
  t.withLine { t.line with sending := some age }

/-- The own claim's state at the start notice of its INRUSH (R177). -/
def claimAtStart (s : State) (f : Frame) (starts : Bool) : State :=
  match f with
  | .inrush .. => s.withShare { s.share with claim := if starts then .sent else .none }
  | _ => s

/-- The hand-over: the first frame in order starts, or its owner withdraws it and the next is taken;
`fuel` bounds the frames withdrawn (R69). -/
def handOverN : Nat → State → State
  | 0, s => s
  | fuel + 1, s =>
    match firstInOrder s.line.queue with
    | none => s
    | some e =>
      if e.started then beginAttempt s e.age
      else
        match atStartNotice s e with
        | some f =>
          settlePower s (beginAttempt (claimAtStart
            (changeTx s e.age fun x => { x with frame := f, started := true }) f true) e.age)
        | none => handOverN fuel (claimAtStart (dropTx s e.age) e.frame false)

/-- The line is idle and the station may hand a frame over (R61, R67, R69). -/
def mayHandOver (s : State) : Bool := transmits s && !s.line.quiet && s.line.sending.isNone

/-- The next idle (R69). -/
def handOver (s : State) (p : Encoders) : State :=
  if mayHandOver s then
    let t := readEncoders s p
    handOverN (t.line.queue.length + 1) t
  else s

/-- The frame whose attempt is in progress. -/
def sendingEntry (s : State) : Option TxEntry :=
  match s.line.sending with
  | some age => s.line.queue.find? fun e => e.age == age
  | none => none

/-- The sender has lost arbitration: no attempt is counted (R63). -/
def lost (s : State) : State := s.withLine { s.line with sending := none }

/-! ### Success (R67, R75) -/

/-- The completion notice of a frame, `s` the state before it left the queue and `t` after; WIND,
SHARE_GRANT and INRUSH are delivered to the own blocks (R75). -/
def completed (s t : State) (e : TxEntry) : State :=
  match e.frame with
  | .beacon p =>
    if p.startFlag then
      t.withPeers { t.peers with startCount := min 4 (t.peers.startCount + 1) }
    else t
  | .wind cell level _ cause => takeWind t t.seq.number cell level cause
  | .hold id => ownHoldDone t id
  | .resume id => ownResumeDone t id
  | .shareGrant borrower amount expiry => grantDone s t borrower amount expiry
  | .inrush start zones => inrushDone t start zones
  | _ => t

/-- The attempt in progress succeeds (R67, R69, R75). -/
def succeeded (s : State) : State :=
  match sendingEntry s with
  | some e =>
    let t := dropTx s e.age
    completed s (t.withLine { t.line with sending := none, txErrors := t.line.txErrors - 1 }) e
  | none => s

/-! ### Failure and QUIET (R66, R67) -/

/-- A frame that reached its 8th failed attempt is dropped; a SAFETY frame never is (R66). -/
def countFailure (s : State) (e : TxEntry) : State :=
  if frameClass e.frame != .safety && decide (8 ≤ e.attempts + 1) then
    settlePower s (onLost (dropTx s e.age) e)
  else changeTx s e.age fun x => { x with attempts := x.attempts + 1 }

/-- The transmit error counter has reached 64 in ACTIVE (R67). -/
def enterQuiet (s : State) : State :=
  if s.line.txErrors == 64 && !s.line.quiet then
    setFlag (s.withLine { s.line with quiet := true, quietRun := 0 }) flagLineFault 2 0
  else s

/-- The attempt in progress fails (R66, R67). -/
def failed (s : State) : State :=
  match sendingEntry s with
  | some e =>
    enterQuiet (countFailure (s.withLine { s.line with
      sending := none, txErrors := min 64 (s.line.txErrors + 1) }) e)
  | none => s

/-- QUIET has lasted 2000 ms (R67). -/
def quietOver (s : State) : State :=
  if s.line.quiet && decide (2000 ≤ s.line.quietRun) then
    s.withLine { s.line with quiet := false, quietRun := 0, txErrors := 32 }
  else s

/-! ### Frames at fault (R64, R65) -/

/-- A frame at fault is heard: vetoed and counted, the 8th in a row making the receive state PASSIVE
(R65). -/
def vetoFrame (s : State) (raw : RawFrame) : State :=
  if vetoes s && formatFault raw && !s.line.passive then
    let t := s.withLine { s.line with vetoCount := s.line.vetoCount + 1 }
    if t.line.vetoCount == 8 then
      setFlag (t.withLine { t.line with passive := true }) flagLineFault 1 0
    else t
  else s

/-- A frame read without fault that another station vetoes: discarded, the veto counter at 0
(R65). -/
def vetoedElsewhere (s : State) : State := if receives s then cleanRead s else s

end Sys2Proof.Machine
end

