-- ==== Sys2Proof/Machine/Report.lean ====
section
/-! DEFINITION. The Report Unit: CLEAR, the items of QUERY, and its actions at READY (R49, R83,
R119, R151, R165, R166, R170, R190 to R194). -/

namespace Sys2Proof.Machine

/-! ### CLEAR (R191) -/

/-- The named flags cleared (R191). -/
def clearFlags (s : State) (flags : BitVec 16) : State :=
  s.withReport { s.report with
    flags := s.report.flags.mapIdx fun n r => if flags.getLsbD n then { r with on := false } else r }

/-- A flag whose condition persists is set again (R191). -/
def resetFlag (s : State) (n : Nat) : State :=
  match persisting s n with
  | some (detail, extra) => setFlag s n detail extra
  | none => s

/-- The named flags cleared, then judged one by one in flag order (R191). -/
def applyClear (s : State) (flags : BitVec 16) : State :=
  ((List.range 16).filter fun n => flags.getLsbD n).foldl resetFlag (clearFlags s flags)

/-- A QUERY or CLEAR in LISTEN is kept for READY (R192). -/
def keepQuery (s : State) (console subject key : Nat) : State :=
  if s.report.pending.length < 4 then
    s.withReport { s.report with pending := s.report.pending ++ [⟨console, subject, key⟩] }
  else s

/-- A CLEAR as the Report Unit takes it (R191, R192): the EVENTs of flags set again are queued
before the ANSWER (log 72). -/
def takeClear (s : State) (sender target : Nat) (flags : BitVec 16) : State :=
  if target == s.seq.number then
    if s.seq.station == .listen then keepQuery s sender subjectClear flags.toNat
    else if isClash s then applyClear s flags
    else
      queueFrame (applyClear s flags) (.answer sender subjectClear flags.toNat outcomeOk none)
  else s

/-! ### The values of the items (R193) -/

/-- IDENT (R193). -/
def identValue (index : Nat) : Option AnswerValue :=
  if index == 0 then some (.ident 90 212 1) else none

/-- The fault kind of a FAULTED station. -/
def faultKind (s : State) : Option FaultKind :=
  match s.seq.station with
  | .faulted k => some k
  | _ => none

/-- The sender of the remote ALL reset that the start cause records (R187); absent after any other
cause (log 8). -/
def remoteSenderOf (s : State) : Option Nat :=
  if s.seq.cause == .remote then some s.seq.remoteSender else none

/-- CONFIG (R193). -/
def configValue (s : State) (index : Nat) : Option AnswerValue :=
  if index == 0 then
    some (.configSummary s.seq.number s.seq.cause (remoteSenderOf s) (faultKind s)
      s.seq.configFault)
  else if index ≤ 8 then some (.configPart ((s.seq.raw.drop (20 * (index - 1))).take 20))
  else none

/-- DISH: motion state, positions, reference status, and the leg index and count of the head entry,
absent until its first leg has started (R5, R9, R193; log 8). -/
def dishValue (s : State) (index : Nat) : Option AnswerValue :=
  if index == 0 then
    some (.dish s.axis.motion s.axis.posAz s.axis.posEl s.axis.refAz s.axis.refEl
      ((s.axis.queue.head?.bind (·.plan)).map fun p => (p.index, p.count)))
  else none

/-- The debounce state reported with a key entry (R49). -/
def entryKeyState (s : State) (e : LockEntry) : Option KeyState :=
  match e.holder with
  | .key k => some (keyMachine s k).state
  | .remote .. => none

/-- LOCKS (R49). -/
def locksValue (s : State) (index : Nat) : Option AnswerValue :=
  s.lock.list[index]?.map fun e => .lock e.holder e.scope e.placed.sec (entryKeyState s e)

/-- The number of members of a record in some states (R119). -/
def memberCount (r : CompactRecord) (p : MemberState → Bool) : Nat :=
  (r.members.filter fun m => p m.state).length

/-- The member state is DECLINED. -/
def isDeclined : MemberState → Bool
  | .declined _ => true
  | _ => false

/-- COMPACTS (R119). -/
def compactsValue (s : State) (index : Nat) : Option AnswerValue :=
  s.compact.list[index]?.map fun r =>
    .compact r.id r.console r.partialMode r.state r.start.sec r.deadline.sec r.ownAz r.el
      ((memberState r s.seq.number).getD .unanswered) r.progress
      (memberCount r fun m => m == .unanswered) (memberCount r fun m => m == .accepted)
      (memberCount r isDeclined) (memberCount r isArrived) (memberCount r isLeft)
      r.holds.length (r.terminalAt.map (·.sec))

/-- MEMBERS, counted across the records in list order (R119). -/
def membersValue (s : State) (index : Nat) : Option AnswerValue :=
  (s.compact.list.flatMap fun r =>
    r.members.map fun m => AnswerValue.member r.id m (r.holds.contains m.station))[index]?

/-- LOANS (R170). -/
def loansValue (s : State) (index : Nat) : Option AnswerValue :=
  s.share.loans[index]?.map fun e => .loan e.peer e.lent e.amount e.expiry e.grace

/-- SHARES (R166). -/
def sharesValue (s : State) (index : Nat) : Option AnswerValue :=
  if index == 0 then
    some (.shares (cfg s).entitlement (cfg s).axisShares s.share.motion s.share.heaterCommit
      s.share.heaterWant (lentShares s) (borrowedShares s) (heldShares s) (committedShares s)
      (spareShares s) (freeShares s) (shortfall s) (ofMs s.share.busyUntil).sec s.share.claim)
  else none

/-- ZONES (R165): the on run is present in ON, the claim order in CLAIM (R152), counted from 1 (log
8). -/
def zonesValue (s : State) (index : Nat) : Option AnswerValue :=
  s.heater.zones[index]?.map fun z =>
    .zone z.enable z.shares z.state (z.switchedAt.map (·.sec))
      (if z.state == .on then some z.onRun else none)
      (if s.heater.claims.contains index then some (s.heater.claims.idxOf index + 1) else none)
      z.lastCause s.heater.pointer s.heater.duty

/-- MELT (R193). -/
def meltValue (s : State) (index : Nat) : Option AnswerValue :=
  if index == 0 then some (.melt s.sensor.melt s.sensor.meltChanged) else none

/-- CELLS (R151). -/
def cellsValue (s : State) (index : Nat) : Option AnswerValue :=
  s.wind.cells[index]?.map fun x =>
    .cell x.state x.cause (s.seq.config.isSome && (cfg s).ownCell == index)
      ((cfg s).followed.contains index) (x.lastStow.map (·.sec)) (x.settleStart.map (·.sec))
      x.roster.length (workingEntries x).length (x.roster.map fun e => (e.station, e.working))

/-- The channel of an index of SCAN (R193). -/
def scanChannel (u : SensorUnit) : Nat → Option Channel
  | 0 => some u.reference
  | 1 => some u.anemoA
  | 2 => some u.anemoB
  | 3 => some u.surface
  | 4 => some u.air
  | 5 => some u.ice
  | _ => none

/-- SCAN (R122, R193). -/
def scanValue (s : State) (index : Nat) : Option AnswerValue :=
  (scanChannel s.sensor index).map fun c =>
    .scan c.reading c.band (c.crossing.map fun x => (x.before, x.after, x.up, x.time.sec))
      (if index == 0 then
        some ⟨s.sensor.cold, s.sensor.icePresent, s.sensor.status, s.sensor.combined,
          s.sensor.latest.map fun x => (x.1.sec, x.2)⟩
      else none)

/-- FLAGS (R193). -/
def flagsValue (s : State) (index : Nat) : Option AnswerValue :=
  if index == 0 then some (.flags (flagSet s) (reportMask s) (faultSummary s))
  else if index ≤ 16 then
    let r := flagRecord s (index - 1)
    some (.flag r.on r.detail r.extra r.time.sec)
  else none

/-- PEER (R83, R193); the table holds no entry for the own number. -/
def peerValue (s : State) (index : Nat) : Option AnswerValue :=
  if 1 ≤ index && index ≤ 63 && index != s.seq.number then
    let e := peerEntry s index
    some (.peer e.present (e.lastHeard.map (·.sec)) e.silence (isConsole index) e.beacon
      e.restartSeen e.mask)
  else none

/-! ### QUERY (R192) -/

/-- The key of an ANSWER to a QUERY: item, then index (4.10.1). -/
def queryKey (item index : Nat) : Nat := item * 256 + index

/-- The ANSWER to a QUERY with the value its item and index hold, or NO_ITEM (R192). -/
def answerQuery (s : State) (sender item index : Nat) (value : Option AnswerValue) : State :=
  queueFrame s (.answer sender subjectQuery (queryKey item index)
    (if value.isSome then outcomeOk else outcomeNoItem) value)

/-- A QUERY of this station: answered, kept for READY, or not answered (R192). -/
def takeQuery (s : State) (sender target item index : Nat) (value : Option AnswerValue) : State :=
  if target == s.seq.number then
    if s.seq.station == .listen then keepQuery s sender subjectQuery (queryKey item index)
    else if isClash s then s
    else answerQuery s sender item index value
  else s

/-- A QUERY of item DISH, the encoders read where it is answered (R1, R192, R193). -/
def takeDishQuery (s : State) (sender target index : Nat) (p : Encoders) : State :=
  let t := if target == s.seq.number && transmits s then readEncoders s p else s
  takeQuery t sender target 3 index (dishValue t index)

/-- A MELT answer with outcome OK clears the mark (R193). -/
def clearMeltMark (s : State) : State :=
  s.withSensor { s.sensor with meltChanged := false }

/-- A QUERY of item MELT (R129, R193). -/
def takeMeltQuery (s : State) (sender target index : Nat) : State :=
  let t := takeQuery s sender target 10 index (meltValue s index)
  if target == s.seq.number && (isReady s || isConfigFault s) && index == 0 then clearMeltMark t
  else t

/-! ### READY, FAULTED of kind CONFIG, and the STOW lamp (R190, R192, R194) -/

/-- An EVENT for each selected flag then set, in flag order (R190). -/
def queueEvents (s : State) : State :=
  (List.range 16).foldl
    (fun t n => if flagOn t n then settlePower t (queueEvent t n) else t) s

/-- The Report Unit's actions at READY (R190, R192): the kept answers are queued before the EVENTs
(log 72). -/
def reportReady (s : State) : State :=
  let t := s.report.pending.foldl
    (fun u q => queueFrame u (.answer q.console q.subject q.key outcomeNotReady none))
    (s.withReport { s.report with pending := [] })
  queueEvents t

/-- The STOW lamp toggles each 500 ms while stow-blocked holds (R194). -/
def lampFlash (s : State) : State :=
  if s.wind.blocked && decide (500 ≤ s.report.lampRun) then
    s.withReport { s.report with lampOn := !s.report.lampOn, lampRun := 0 }
  else s

end Sys2Proof.Machine
end

