-- ==== Sys2Proof/Machine/Startup.lean ====
section
/-! DEFINITION. Start-up: the configuration record and its validation, SAMPLE, LOAD, LISTEN's end,
and the five reset kinds (R50, R155, R181 to R188). -/

namespace Sys2Proof.Machine

/-! ### The configuration record (11.2, R183) -/

/-- A field, its default in place of 0 (R183). -/
def fieldOr (l : List Byte) (i n default : Nat) : Nat :=
  if field l i n == 0 then default else field l i n

/-- The followed cells up to their count. -/
def followedOf (l : List Byte) : List Nat :=
  ([field l 2 1, field l 3 1]).take (field l 1 1)

/-- The neighbour record of an index, sector ends and el_min in mdeg. -/
def neighbourOf (l : List Byte) (k : Nat) : Neighbour where
  station := field l (47 + 7 * k) 1
  azFrom := field l (48 + 7 * k) 2 * 100
  azTo := field l (50 + 7 * k) 2 * 100
  elMin := field l (52 + 7 * k) 2 * 100

/-- The zone shares of a zone: even zones in the upper half of their byte. -/
def zoneSharesOf (l : List Byte) (z : Nat) : Nat :=
  if z % 2 == 0 then bits (field l (97 + z / 2) 1) 4 4 else bits (field l (97 + z / 2) 1) 0 4

/-- The record's items, after defaults (11.2, R183). -/
def recordOf (l : List Byte) : ConfigRecord where
  ownCell := field l 0 1
  followed := followedOf l
  sensor := field l 4 1 == 1
  azLo := fieldInt l 5 4
  azHi := fieldInt l 9 4
  elLo := field l 13 3
  elHi := field l 16 3
  stowEl := field l 19 3
  azMax := field l 22 2
  elMax := field l 24 2
  creep := field l 26 2
  watchCap := field l 28 2
  coldCap := field l 30 2
  decel := field l 32 2
  legLength := field l 34 3
  tolerance := field l 37 2
  azIndex := fieldInt l 39 4
  elIndex := field l 43 3
  neighbours := (List.range (min 6 (field l 46 1))).map (neighbourOf l)
  keyScopes := (List.range 4).map fun k => scopeOf (field l (89 + k) 1)
  entitlement := field l 93 1
  axisShares := field l 94 1
  zoneCount := field l 95 1
  zoneEnable := field l 96 1
  zoneShares := (List.range (min 8 (field l 95 1))).map (zoneSharesOf l)
  heaterPeriod := fieldOr l 101 2 300
  loanTerm := fieldOr l 103 2 600
  scanInterval := 250 * 2 ^ field l 105 1
  anemoFactor := field l 106 2
  filterWidth := field l 108 1
  calmSpeed := fieldOr l 109 2 100
  watchSpeed := fieldOr l 111 2 150
  stowSpeed := fieldOr l 113 2 200
  gustSpeed := fieldOr l 115 2 270
  watchConfirm := fieldOr l 117 1 2
  stowConfirm := fieldOr l 118 1 3
  calmTime := fieldOr l 119 2 600
  stowHold := fieldOr l 121 2 1200
  settleTime := fieldOr l 123 2 300
  disagreeLimit := field l 125 2
  refLo := field l 127 2
  refHi := field l 129 2
  airLo := fieldInt l 131 2
  airHi := fieldInt l 133 2
  iceLo := field l 135 2
  iceHi := field l 137 2
  reportMask := BitVec.ofNat 16 (field l 139 2)

/-- The requirements on the cells and the role, each with its offset (R183): each comparison is
made on both followed cells before the next (log 24). -/
def cellChecks (l : List Byte) : List (Bool × Nat) :=
  let own := field l 0 1
  let n := field l 1 1
  let f1 := field l 2 1
  let f2 := field l 3 1
  [(decide (own ≤ 7), 0), (decide (n ≤ 2), 1), (decide (n = 0 ∨ f1 ≤ 7), 2),
   (decide (n < 2 ∨ f2 ≤ 7), 3), (decide (n = 0 ∨ f1 ≠ own), 2), (decide (n < 2 ∨ f2 ≠ own), 3),
   (decide (n < 2 ∨ f1 ≠ f2), 3), (decide (field l 4 1 ≤ 1), 4)]

/-- The requirements on limits, rates and index positions (R183). -/
def motionChecks (c : ConfigRecord) : List (Bool × Nat) :=
  [(decide (c.azLo < c.azHi), 9), (inRange (-270000) 270000 c.azLo, 5),
   (inRange (-270000) 270000 c.azHi, 9), (decide (c.elLo < c.elHi), 16),
   (inRange 0 90000 c.elLo, 13), (inRange 0 90000 c.elHi, 16),
   (inRange c.elLo c.elHi c.stowEl, 19), (decide (1 ≤ c.azMax), 22), (decide (1 ≤ c.elMax), 24),
   (decide (1 ≤ c.creep), 26), (decide (1 ≤ c.watchCap), 28), (decide (1 ≤ c.coldCap), 30),
   (decide (c.creep ≤ c.azMax), 26), (decide (c.creep ≤ c.elMax), 26),
   (decide (1 ≤ c.decel), 32), (decide (1 ≤ c.legLength), 34), (decide (1 ≤ c.tolerance), 37),
   (inRange (-270000) 270000 c.azIndex, 39), (inRange 0 90000 c.elIndex, 43)]

/-- The requirements on the neighbours (R183): each is judged over all of them before the next, but
for the two sector ends, and each number is compared with all before it (log 24). -/
def neighbourChecks (l : List Byte) (own : Nat) (c : ConfigRecord) : List (Bool × Nat) :=
  let ks := List.range c.neighbours.length
  let number := fun k => field l (47 + 7 * k) 1
  [(decide (field l 46 1 ≤ 6), 46)] ++
  ks.map (fun k => (isDish (number k), 47 + 7 * k)) ++
  ks.map (fun k => ((List.range k).all fun j => number j != number k, 47 + 7 * k)) ++
  ks.map (fun k => (number k != own, 47 + 7 * k)) ++
  ks.flatMap (fun k => [(decide (field l (48 + 7 * k) 2 ≤ 3599), 48 + 7 * k),
    (decide (field l (50 + 7 * k) 2 ≤ 3599), 50 + 7 * k)]) ++
  ks.map fun k => (decide (field l (52 + 7 * k) 2 ≤ 900), 52 + 7 * k)

/-- The requirements on key scopes, shares, zones and periods (R183). -/
def powerChecks (l : List Byte) (c : ConfigRecord) : List (Bool × Nat) :=
  (List.range 4).map (fun k => (decide (field l (89 + k) 1 ≤ 7), 89 + k)) ++
  [(decide (1 ≤ c.axisShares ∧ c.axisShares ≤ 4), 94), (decide (c.entitlement ≤ 63), 93),
   (decide (2 * c.axisShares ≤ c.entitlement), 94),
   (decide (1 ≤ c.zoneCount ∧ c.zoneCount ≤ 8), 95)] ++
  (List.range c.zoneShares.length).map (fun z =>
    (decide (1 ≤ zoneSharesOf l z ∧ zoneSharesOf l z ≤ 8), 97 + z / 2)) ++
  [(decide (c.zoneEnable < 2 ^ c.zoneCount), 96),
   (decide (60 ≤ c.heaterPeriod ∧ c.heaterPeriod ≤ 900), 101),
   (decide (60 ≤ c.loanTerm ∧ c.loanTerm ≤ 3600), 103)]

/-- The requirements on the sensors (R183). -/
def sensorChecks (l : List Byte) (c : ConfigRecord) : List (Bool × Nat) :=
  [(decide (field l 105 1 ≤ 3), 105), (decide (2 ≤ c.filterWidth ∧ c.filterWidth ≤ 20), 108),
   (decide (1 ≤ c.anemoFactor), 106), (decide (c.calmSpeed < c.watchSpeed), 111),
   (decide (c.watchSpeed < c.stowSpeed), 113), (decide (c.stowSpeed < c.gustSpeed), 115),
   (decide (c.gustSpeed ≤ 1000), 115), (decide (1 ≤ c.watchConfirm ∧ c.watchConfirm ≤ 8), 117),
   (decide (1 ≤ c.stowConfirm ∧ c.stowConfirm ≤ 8), 118), (decide (c.refLo ≤ c.refHi), 129),
   (decide (c.airLo ≤ c.airHi), 133), (decide (c.iceLo ≤ c.iceHi), 137),
   (inRange 0 4095 c.refLo, 127), (inRange 0 4095 c.refHi, 129), (inRange 0 1000 c.iceLo, 135),
   (inRange 0 1000 c.iceHi, 137), (inRange (-999) 999 c.airLo, 131),
   (inRange (-999) 999 c.airHi, 133)]

/-- The offset of the first requirement a record fails, of a station with a number (R183). -/
def validate (l : List Byte) (own : Nat) : Option Nat :=
  let c := recordOf l
  ((cellChecks l ++ motionChecks c ++ neighbourChecks l own c ++ powerChecks l c ++
    sensorChecks l c).find? fun x => !x.1).map (·.2)

/-- The check of a record read whole (R182). -/
def recordCheck (l : List Byte) : Bool := field l 141 2 == (crc (l.take 141)).toNat

/-! ### SAMPLE and the restarts (R50, R181, R187, R189) -/

/-- The straps are read: LOAD, or FAULTED of kind NUMBER, where CHECKING is counted at once (R36,
R181). -/
def sample (s : State) (straps : Straps) : State :=
  let t := s.withSeq { s.seq with
    held := false, supplyLost := false, number := straps.number, fastLine := straps.fastLine }
  if isDish straps.number then t.withSeq { t.seq with station := .load }
  else beginChecking (t.withSeq { t.seq with station := .faulted .number })

/-- Every block at its state after a restarting reset, at the start of SAMPLE, with the positions,
remote lockouts and ID_CLASH the reset keeps (R31, R50, R77, R78, R83, R118, R134, R150, R164,
R178, R187, R189). -/
def restartWith (s : State) (seq : SeqUnit) (az el : Int) (locks : List LockEntry)
    (idClash : FlagRecord) : State where
  pending := s.pending
  pins := s.pins
  seq := seq
  line := LineUnit.initial
  time := TimeUnit.initial
  peers := PeerUnit.initial
  axis := AxisUnit.initial az el
  lock := LockUnit.initial locks
  keepOut := []
  compact := CompactUnit.initial
  sensor := SensorUnit.initial
  wind := WindUnit.initial
  heater := HeaterUnit.initial
  share := ShareUnit.initial
  report := ReportUnit.initial idClash
  free := s.free

/-- TIME_FREERUN is held set while the reference clock is stopped (R78; log 30). -/
def freerunIfStopped (s : State) : State :=
  if s.pins.refclk then s else setFlag s flagTimeFreerun 2 0

/-- The remote entries a restart keeps, in their order (R50). -/
def keptLocks (s : State) : List LockEntry := s.lock.list.filter isRemote

/-- The power-on reset (R187). -/
def powerOnReset (s : State) (straps : Straps) : State :=
  freerunIfStopped (sample (restartWith s (SeqUnit.initial false false 0 false .powerOn 0) 0 0 []
    FlagRecord.initial) straps)

/-- The pin reset (R187); after a loss of the supply it is a power-on reset. -/
def pinResetAll (s : State) (straps : Straps) : State :=
  if s.seq.supplyLost then powerOnReset s straps
  else
    freerunIfStopped (sample (restartWith s (SeqUnit.initial false false 0 false .pin 0)
      s.axis.posAz s.axis.posEl (keptLocks s) FlagRecord.initial) straps)

/-- The remote ALL reset (R187, R188). -/
def remoteReset (s : State) (sender : Nat) (straps : Straps) : State :=
  freerunIfStopped (sample (restartWith s (SeqUnit.initial false false 0 false .remote sender)
    s.axis.posAz s.axis.posEl (keptLocks s) (flagRecord s flagIdClash)) straps)

/-- The part is held at the start of SAMPLE (R187): every output at its safe level, retained storage
kept (log 22). -/
def holdReset (s : State) (supplyLow : Bool) : State :=
  restartWith s (SeqUnit.initial true (s.seq.supplyLost || supplyLow) s.seq.number s.seq.fastLine
      s.seq.cause s.seq.remoteSender) s.axis.posAz s.axis.posEl (keptLocks s) FlagRecord.initial

/-! ### LOAD (R182) -/

/-- Entry into FAULTED of kind CONFIG (R36, R89, R182, R190): the BEACON is queued before the EVENTs
(log 72). -/
def enterConfigFault (s : State) (cause : ConfigFault) : State :=
  let t := s.withSeq { s.seq with station := .faulted .config, configFault := some cause }
  queueEvents (queueBeacon (beginChecking t))

/-- A read attempt has failed: the next after 10 ms, or FAULTED at the third (R182). -/
def attemptFailed (s : State) (cause : ConfigFault) : State :=
  let n := s.seq.failedAttempts + 1
  let t := s.withSeq { s.seq with failedAttempts := n }
  if 3 ≤ n then enterConfigFault t cause
  else t.withSeq { t.seq with pauseRun := some 0 }

/-- The Keep-out Table as LOAD builds it (R52). -/
def keepTable (c : ConfigRecord) : List KeepEntry :=
  c.neighbours.map fun n => ⟨n.station, n.azFrom, n.azTo, n.elMin, false⟩

/-- The Zone Table as LOAD builds it (R164). -/
def zoneTable (c : ConfigRecord) : List Zone :=
  c.zoneShares.mapIdx fun i shares => ⟨bit c.zoneEnable i, shares, .off, none, 0, none⟩

/-- LOAD succeeds: each block takes its items and SELFCHECK begins (R34, R36, R52, R120, R164,
R182, R184). -/
def loadSucceeded (s : State) (c : ConfigRecord) : State :=
  let t := s.withSeq { s.seq with station := .selfcheck, config := some c }
  let t := (t.withKeepOut (keepTable c)).withHeater { t.heater with zones := zoneTable c }
  let t := takeKeyScopes (beginChecking t) c.keyScopes
  beginScan (readInputsAfresh t)

/-- The bytes of an attempt, with 0 for bytes not read (R193). -/
def asRead (bytes : List Byte) : List Byte :=
  (bytes ++ List.replicate (143 - bytes.length) 0).take 143

/-- A read attempt is in progress (R182). -/
def reading (s : State) : Bool :=
  !s.seq.held && s.seq.station == .load && s.seq.pauseRun.isNone

/-- The bytes of an attempt are kept for the CONFIG item (R193). -/
def keepRaw (s : State) (bytes : List Byte) : State :=
  s.withSeq { s.seq with raw := asRead bytes }

/-- A read attempt ends (R182). -/
def attemptEnded (s : State) (acked : Bool) (bytes : List Byte) : State :=
  if reading s then
    let t := keepRaw s bytes
    if !acked || bytes.length != 143 then attemptFailed t .read
    else if !recordCheck bytes then attemptFailed t .check
    else
      match validate bytes s.seq.number with
      | some offset => enterConfigFault t (.value offset)
      | none => loadSucceeded t (recordOf bytes)
  else s

/-- A read attempt fails on a bus held low for more than 25 ms (R182). -/
def busTimeout (s : State) (bytes : List Byte) : State :=
  if reading s then attemptFailed (keepRaw s bytes) .read else s

/-- The pause after a failed attempt ends (R182). -/
def pauseOver (s : State) : State :=
  match s.seq.pauseRun with
  | some r => if 10 ≤ r then s.withSeq { s.seq with pauseRun := none } else s
  | none => s

/-! ### READY (R185) -/

/-- The Compact Unit's actions at READY (R94). -/
def compactReady (s : State) : State :=
  s.compact.pending.foldl (fun u id => queueFrame u (.reply id 1 reasonNotReady))
    (s.withCompact { s.compact with pending := [] })

/-- The Axis Engine's actions at READY (R6, R11, R28), in the order of log 72. -/
def axisReady (s : State) : State :=
  let t := s.axis.pendingAnswers.foldl (fun u a => answerMove u a.1 a.2 outcomeNotReady)
    (s.withAxis { s.axis with pendingAnswers := [] })
  let t := tryStart t
  if warning t then warningRaised t else t

/-- The station becomes READY and every block takes its actions, in the order of R185 (log 15). -/
def becomeReady (s : State) : State :=
  let t := s.withSeq { s.seq with station := .ready }
  let t := t.withHeater { t.heater with nextBoundary := some (boundaryAfter t) }
  let t := axisReady (compactReady (lockReady (queueBeacon t)))
  reportReady (windReady (sensorReady t))

/-- LISTEN has lasted 1500 ms (R180). -/
def listenOver (s : State) : State :=
  if s.seq.station == .listen && decide (1500 ≤ s.seq.listenRun) then becomeReady s else s

/-! ### RESET frames (R188) -/

/-- The RESET frame names this station. -/
def resetNamesUs (s : State) (target : Nat) : Bool := target == s.seq.number

/-- The motion-reset notice, taken by the Compact Unit, then by the Axis Engine (R188; log 14). -/
def motionReset (s : State) : State := axisMotionReset (compactMotionReset s)

end Sys2Proof.Machine
end

