-- ==== Sys2Proof/Machine/Tick.lean ====
section
/-! DEFINITION. What a step does on an empty queue: one counted millisecond passes, and the events
that the part's own counts and array time bring are put in the queue (R78, R82, R106; log 1, 3). -/

namespace Sys2Proof.Machine

/-! ### One counted millisecond (R82) -/

/-- A run that is counting gains one. -/
def bump (r : Option Nat) : Option Nat := r.map (· + 1)

/-- A number gains one where a condition holds. -/
def bumpIf (b : Bool) (n : Nat) : Nat := if b then n + 1 else n

/-- The sequencer's runs (R180, R182). -/
def tickSeq (u : SeqUnit) : SeqUnit :=
  { u with pauseRun := bump u.pauseRun, listenRun := bumpIf (u.station == .listen) u.listenRun }

/-- The Line Unit's runs (R67, R174). -/
def tickLine (u : LineUnit) : LineUnit :=
  { u with
    quietRun := bumpIf u.quiet u.quietRun
    queue := u.queue.map fun e => { e with expiryRun := bump e.expiryRun } }

/-- The Peer Unit's runs (R85, R89). -/
def tickPeers (u : PeerUnit) : PeerUnit :=
  { u with
    beaconRun := bump u.beaconRun
    table := u.table.map fun e =>
      { e with silence := if e.present then min 1500 (e.silence + 1) else e.silence } }

/-- The Axis Engine's runs (R14, R16). -/
def tickAxis (u : AxisUnit) : AxisUnit :=
  { u with
    leg := u.leg.map fun l => { l with run := l.run + 1 }
    stop := u.stop.map fun x => { x with run := x.run + 1 }
    gapRun := bumpIf (u.motion == .gap) u.gapRun }

/-- The Lockout Unit's counts (R35, R36). -/
def tickLock (u : LockUnit) : LockUnit :=
  { u with
    checkRun := bump u.checkRun
    keys := u.keys.map fun m =>
      { m with run := bumpIf (m.state == .closing || m.state == .opening) m.run } }

/-- The linger of terminal records (R93). -/
def tickCompact (u : CompactUnit) : CompactUnit :=
  { u with list := u.list.map fun r => { r with terminalRun := bumpIf (!isLive r) r.terminalRun } }

/-- The Sensor Unit's runs (R120, R123, R130, R132). -/
def tickSensor (u : SensorUnit) : SensorUnit :=
  { u with
    scan := u.scan.map fun c => { c with run := c.run + 1 }
    sinceLatch := bumpIf u.latched u.sinceLatch
    calmRun := bump u.calmRun
    windRun := bump u.windRun }

/-- A cell's runs (R135, R142, R143): the hold run counts in any state since the latest STOW report,
and in a STOW that no report gave since a working entry appeared; not without a working entry
(log 34). -/
def tickCell (x : Cell) : Cell :=
  { x with
    holdRun := bumpIf ((x.state == .stow || x.lastStow.isSome) && !(workingEntries x).isEmpty)
      x.holdRun
    settleRun := bumpIf (x.state == .settle) x.settleRun }

/-- The Heater Unit's runs (R159, R160). -/
def tickHeater (u : HeaterUnit) : HeaterUnit :=
  { u with
    zones := u.zones.map fun z => { z with onRun := bumpIf (z.state == .on) z.onRun }
    stepRun := bumpIf (u.admitted != 0) u.stepRun }

/-- The Share Unit's runs (R171, R174). -/
def tickShare (u : ShareUnit) : ShareUnit :=
  { u with
    askRun := bump u.askRun
    loans := u.loans.map fun e => { e with graceRun := bumpIf e.grace e.graceRun } }

/-- One counted millisecond of the whole part (R78, R82). -/
def tick (s : State) : State :=
  { s with
    seq := tickSeq s.seq
    line := tickLine s.line
    time := countMs s.time
    peers := tickPeers s.peers
    axis := tickAxis s.axis
    lock := tickLock s.lock
    compact := tickCompact s.compact
    sensor := tickSensor s.sensor
    wind := { s.wind with cells := s.wind.cells.map tickCell }
    heater := tickHeater s.heater
    share := tickShare s.share
    report := { s.report with lampRun := bumpIf s.wind.blocked s.report.lampRun } }

/-! ### The events due -/

/-- The positions as the part holds them, for an event it finds by its own count. -/
def heldPositions (s : State) : Encoders := ⟨s.axis.posAz, s.axis.posEl⟩

/-- The rates posted with STOP_STALL: creep rate on each axis whose brake is released (log 3). -/
def heldRate (s : State) (released : Bool) : Nat := if released then (cfg s).creep else 0

/-- Start-up, time, line and peer runs that have ended. -/
def dueLine (s : State) : List Instr :=
  post (s.seq.pauseRun == some 10) .loadRetryPauseEnd ++
  post (s.seq.station == .listen && s.seq.listenRun == 1500) .listenEnd ++
  post (s.time.holding && s.time.hold == 0) .timeHoldEnds ++
  post (decide (1500 ≤ s.time.watch) && !s.time.free) .pulseWatchExpiry ++
  post (s.line.quiet && s.line.quietRun == 2000) .quietEnd ++
  (s.peers.table.filter fun e => e.present && decide (1500 ≤ e.silence)).map
    (fun e => .peerAbsent e.station) ++
  post (s.peers.beaconRun == some 250) (.beaconInterval (heldPositions s))

/-- The keys whose count has ended. -/
def dueKeys (s : State) : List Instr :=
  [1, 2, 3, 4].flatMap fun k =>
    post ((keyMachine s k).state == .closing && (keyMachine s k).run == 50)
      (.keyClosingCountEnd k) ++
    post ((keyMachine s k).state == .opening && (keyMachine s k).run == 500)
      (.keyOpeningCountEnd k)

/-- Runs of the axes that have ended. -/
def dueAxis (s : State) : List Instr :=
  post (s.axis.motion == .gap && s.axis.gapRun == 100) .gapMinimumEnd ++
  post (s.axis.motion == .gap && s.axis.gapRun == 2000) .gapBrakeTimeout ++
  post ((s.axis.leg.map fun l => decide (2 * l.estimate + 2000 < l.run)) == some true)
    (.legStall (heldPositions s)) ++
  post (s.axis.motion == .stopping &&
      (s.axis.stop.map fun x => decide (stopLimit s ≤ x.run)) == some true)
    (.stopStall (heldPositions s) (heldRate s s.axis.releasedAz) (heldRate s s.axis.releasedEl))

/-- Runs of the cells that have ended. -/
def dueCells (s : State) : List Instr :=
  (List.range 8).flatMap fun c =>
    post ((cellAt s c).state == .stow && s.seq.config.isSome &&
        (cellAt s c).holdRun == (cfg s).stowHold * 1000) (.stowHoldExpiry c) ++
    post ((cellAt s c).state == .settle && s.seq.config.isSome &&
        (cellAt s c).settleRun == (cfg s).settleTime * 1000) (.settleExpiry c)

/-- Runs of zones, loans and frames of the Share Unit that have ended. -/
def dueShares (s : State) : List Instr :=
  post (s.heater.admitted != 0 && decide (50 ≤ s.heater.stepRun)) .zoneSwitchOnStep ++
  ((List.range s.heater.zones.length).filter fun i =>
    match s.heater.zones[i]? with
    | some z => dutyServed s z
    | none => false).map (fun i => .dutyEnd i) ++
  post (isReady s && shortfall s != 0 &&
      (s.share.askRun.map fun r => decide (5000 ≤ r)) == some true) .askRunExpiry ++
  (s.share.loans.filter fun e => e.lent && e.grace && decide (2000 ≤ e.graceRun)).map
    (fun e => .loanGraceEnd e.peer) ++
  s.line.queue.flatMap fun e =>
    match e.frame with
    | .shareBack l _ => post (!e.started && isLateBack l e) (.shareBackWithdrawal l)
    | _ => []

/-- The runs that have ended with the millisecond just counted. -/
def dueRuns (s : State) : List Instr :=
  dueLine s ++ dueKeys s ++ post (s.lock.checkRun == some 500) .keyCheckingEnd ++ dueAxis s ++
  (s.compact.list.filter fun r => !isLive r && r.terminalRun == 5000).map
    (fun r => .compactRemoval r.id) ++
  post (resendDue s) .windResend ++ dueCells s ++ dueShares s ++
  post (s.wind.blocked && decide (500 ≤ s.report.lampRun)) .stowLampFlash

/-- The step on an empty queue: instants already reached are posted at once; else one millisecond
is counted and what it brings is posted.  A part held in reset idles (R82, R187; log 1, 3). -/
def idle (s : State) : State :=
  if s.seq.held then s
  else
    match dueInstants s with
    | [] => (tick s).withPending (dueRuns (tick s) ++ dueInstants (tick s))
    | due => s.withPending due

end Sys2Proof.Machine
end

