-- ==== Sys2Proof/Machine/CommandsFrames.lean ====
section
/-! DEFINITION. The meanings of the frames taken from other stations and of the peers' events
(R74, R84 to R119, R135 to R141, R172 to R176, R191, R192). -/

namespace Sys2Proof.Machine

/-- BEACON_RECEIVED (R84, R86). -/
def execBeaconReceived (sender : Nat) (beacon : BeaconPayload) (s : State) :
    Host.Outcome State Fault Refusal :=
  .next (takeFrame s sender fun t => takeBeacon t sender beacon)

/-- PEER_ABSENT (R85). -/
def execPeerAbsent (station : Nat) (s : State) : Host.Outcome State Fault Refusal :=
  .next (peerSilent s station)

/-- BEACON_INTERVAL (R89). -/
def execBeaconInterval (at_ : Encoders) (s : State) : Host.Outcome State Fault Refusal :=
  .next (beaconDue s at_)

/-- WIND_RECEIVED (R137, R139); the speed is not used (R139). -/
def execWindReceived (sender cell level _speed cause : Nat) (s : State) :
    Host.Outcome State Fault Refusal :=
  .next (takeDishFrame s sender fun t => takeWind t sender cell level cause)

/-- LOCK_SET (R38). -/
def execLockSet (sender target token : Nat) (scope : Scope) (s : State) :
    Host.Outcome State Fault Refusal :=
  .next (takeFrame s sender fun t => takeLockSet t sender target token scope)

/-- LOCK_CLEAR (R39). -/
def execLockClear (sender target token : Nat) (s : State) : Host.Outcome State Fault Refusal :=
  .next (takeFrame s sender fun t => takeLockClear t sender target token)

/-- LOCK_NOTICE_RECEIVED (R88). -/
def execLockNoticeReceived (sender : Nat) (mask : Scope) (entries keys remotes : Nat) (s : State) :
    Host.Outcome State Fault Refusal :=
  .next (takeDishFrame s sender fun t => takeLockNotice t sender mask entries keys remotes)

/-- CALL (R94 to R99). -/
def execCall (sender : Nat) (payload : CallPayload) (s : State) :
    Host.Outcome State Fault Refusal :=
  .next (takeConsoleFrame s sender fun t => takeCall t sender payload)

/-- REPLY (R100). -/
def execReply (sender id verdict reason : Nat) (s : State) : Host.Outcome State Fault Refusal :=
  .next (takeDishFrame s sender fun t => takeReply t sender id verdict reason)

/-- HOLD (R101). -/
def execHold (sender id : Nat) (s : State) : Host.Outcome State Fault Refusal :=
  .next (takeFrame s sender fun t => takeHold t sender id)

/-- RESUME (R101). -/
def execResume (sender id : Nat) (s : State) : Host.Outcome State Fault Refusal :=
  .next (takeFrame s sender fun t => takeResume t sender id)

/-- CANCEL (R113). -/
def execCancel (sender id : Nat) (s : State) : Host.Outcome State Fault Refusal :=
  .next (takeConsoleFrame s sender fun t => takeCancel t sender id)

/-- ARRIVE (R108). -/
def execArrive (sender id : Nat) (az el : Int) (s : State) : Host.Outcome State Fault Refusal :=
  .next (takeDishFrame s sender fun t => takeArrive t sender id az el)

/-- LEAVE (R109). -/
def execLeave (sender id reason : Nat) (s : State) : Host.Outcome State Fault Refusal :=
  .next (takeDishFrame s sender fun t => takeLeave t sender id reason)

/-- SHARE_ASK (R172). -/
def execShareAsk (sender amount : Nat) (s : State) : Host.Outcome State Fault Refusal :=
  .next (takeDishFrame s sender fun t => takeShareAsk t sender amount)

/-- SHARE_GRANT (R172, R173). -/
def execShareGrant (sender borrower amount expiry : Nat) (s : State) :
    Host.Outcome State Fault Refusal :=
  .next (takeDishFrame s sender fun t => takeShareGrant t sender borrower amount expiry)

/-- SHARE_BACK (R174). -/
def execShareBack (sender lender amount : Nat) (s : State) : Host.Outcome State Fault Refusal :=
  .next (takeDishFrame s sender fun t => takeShareBack t sender lender amount)

/-- INRUSH (R176, R177). -/
def execInrush (sender : Nat) (start : ATime) (zones : Nat) (s : State) :
    Host.Outcome State Fault Refusal :=
  .next (takeDishFrame s sender fun t => takeInrush t start zones)

/-- QUERY_CONFIG (R192, R182, R193). -/
def execQueryConfig (sender target index : Nat) (s : State) : Host.Outcome State Fault Refusal :=
  .next (takeConsoleFrame s sender fun t => takeQuery t sender target 2 index (configValue t index))

/-- QUERY_LOCKS (R192, R49). -/
def execQueryLocks (sender target index : Nat) (s : State) : Host.Outcome State Fault Refusal :=
  .next (takeConsoleFrame s sender fun t => takeQuery t sender target 4 index (locksValue t index))

/-- QUERY_COMPACTS (R192, R119). -/
def execQueryCompacts (sender target index : Nat) (s : State) : Host.Outcome State Fault Refusal :=
  .next (takeConsoleFrame s sender fun t =>
    takeQuery t sender target 5 index (compactsValue t index))

/-- QUERY_MEMBERS (R192, R119). -/
def execQueryMembers (sender target index : Nat) (s : State) : Host.Outcome State Fault Refusal :=
  .next (takeConsoleFrame s sender fun t =>
    takeQuery t sender target 6 index (membersValue t index))

/-- QUERY_LOANS (R192, R170). -/
def execQueryLoans (sender target index : Nat) (s : State) : Host.Outcome State Fault Refusal :=
  .next (takeConsoleFrame s sender fun t => takeQuery t sender target 7 index (loansValue t index))

/-- QUERY_SHARES (R192, R166). -/
def execQueryShares (sender target index : Nat) (s : State) : Host.Outcome State Fault Refusal :=
  .next (takeConsoleFrame s sender fun t => takeQuery t sender target 8 index (sharesValue t index))

/-- QUERY_ZONES (R192, R165). -/
def execQueryZones (sender target index : Nat) (s : State) : Host.Outcome State Fault Refusal :=
  .next (takeConsoleFrame s sender fun t => takeQuery t sender target 9 index (zonesValue t index))

/-- QUERY_CELLS (R192, R151). -/
def execQueryCells (sender target index : Nat) (s : State) : Host.Outcome State Fault Refusal :=
  .next (takeConsoleFrame s sender fun t => takeQuery t sender target 11 index (cellsValue t index))

/-- QUERY_SCAN (R192, R122). -/
def execQueryScan (sender target index : Nat) (s : State) : Host.Outcome State Fault Refusal :=
  .next (takeConsoleFrame s sender fun t => takeQuery t sender target 12 index (scanValue t index))

/-- QUERY_FLAGS (R192, R189). -/
def execQueryFlags (sender target index : Nat) (s : State) : Host.Outcome State Fault Refusal :=
  .next (takeConsoleFrame s sender fun t => takeQuery t sender target 13 index (flagsValue t index))

/-- QUERY_PEER (R192, R83). -/
def execQueryPeer (sender target index : Nat) (s : State) : Host.Outcome State Fault Refusal :=
  .next (takeConsoleFrame s sender fun t => takeQuery t sender target 14 index (peerValue t index))

/-- QUERY_IDENT (R192, R193); an item code the table does not hold is answered NO_ITEM (log 9). -/
def execQueryIdent (sender target item index : Nat) (s : State) :
    Host.Outcome State Fault Refusal :=
  .next (takeConsoleFrame s sender fun t =>
    takeQuery t sender target item index (if item == 1 then identValue index else none))

/-- QUERY_DISH (R192, R193), the encoders read where an ANSWER is built. -/
def execQueryDish (sender target index : Nat) (at_ : Encoders) (s : State) :
    Host.Outcome State Fault Refusal :=
  .next (takeConsoleFrame s sender fun t =>
    takeDishQuery t sender target index at_)

/-- QUERY_MELT (R129, R192, R193). -/
def execQueryMelt (sender target index : Nat) (s : State) : Host.Outcome State Fault Refusal :=
  .next (takeConsoleFrame s sender fun t => takeMeltQuery t sender target index)

/-- CLEAR (R191). -/
def execClear (sender target : Nat) (flags : BitVec 16) (s : State) :
    Host.Outcome State Fault Refusal :=
  .next (takeConsoleFrame s sender fun t => takeClear t sender target flags)

/-- EVENT_RECEIVED (R74): only its sender's presence is recorded. -/
def execEventReceived (sender : Nat) (s : State) : Host.Outcome State Fault Refusal :=
  .next (takeDishFrame s sender id)

/-- ANSWER_RECEIVED (R74): only its sender's presence is recorded. -/
def execAnswerReceived (sender : Nat) (s : State) : Host.Outcome State Fault Refusal :=
  .next (takeDishFrame s sender id)

end Sys2Proof.Machine
end

