-- ==== Sys2Proof/Machine/CommandsLine.lean ====
section
/-! DEFINITION. The meanings of the commands of start-up, resets, time and the line
(R61 to R82, R180 to R188). -/

namespace Sys2Proof.Machine

/-- POWER_ON (R187). -/
def execPowerOn (straps : Straps) (s : State) : Host.Outcome State Fault Refusal :=
  .next (powerOnReset s straps)

/-- PIN_RESET (R187). -/
def execPinReset (straps : Straps) (s : State) : Host.Outcome State Fault Refusal :=
  .next (pinResetAll s straps)

/-- RESET_HOLD (R187). -/
def execResetHold (supplyLow : Bool) (s : State) : Host.Outcome State Fault Refusal :=
  .next (holdReset s supplyLow)

/-- LOAD_ATTEMPT_COMPLETE (R182, R183). -/
def execLoadAttemptComplete (acked : Bool) (bytes : List Byte) (s : State) :
    Host.Outcome State Fault Refusal :=
  .next (attemptEnded s acked bytes)

/-- LOAD_BUS_TIMEOUT (R182). -/
def execLoadBusTimeout (bytes : List Byte) (s : State) : Host.Outcome State Fault Refusal :=
  .next (busTimeout s bytes)

/-- LOAD_RETRY_PAUSE_END (R182). -/
def execLoadRetryPauseEnd (s : State) : Host.Outcome State Fault Refusal :=
  .next (pauseOver s)

/-- LISTEN_END (R180, R185). -/
def execListenEnd (s : State) : Host.Outcome State Fault Refusal :=
  .next (listenOver s)

/-- RESET_ALL (R187, R188); a scope 4.10 does not define has the frame ignored (R74; log 9). -/
def execResetAll (sender target scope : Nat) (straps : Straps) (s : State) :
    Host.Outcome State Fault Refusal :=
  .next (takeConsoleFrame s sender fun t =>
    if target == t.seq.number && scope == 1 then remoteReset t sender straps else t)

/-- RESET_MOTION (R30, R117, R188). -/
def execResetMotion (sender target : Nat) (s : State) : Host.Outcome State Fault Refusal :=
  .next (takeConsoleFrame s sender fun t =>
    if target == t.seq.number then motionReset t else t)

/-- RESET_HEAT (R165, R178, R188). -/
def execResetHeat (sender target : Nat) (s : State) : Host.Outcome State Fault Refusal :=
  .next (takeConsoleFrame s sender fun t =>
    if target == t.seq.number then heatReset t else t)

/-- REFCLK_STOPS (R78). -/
def execRefclkStops (s : State) : Host.Outcome State Fault Refusal :=
  .next (clockStops s)

/-- REFCLK_RESUMES (R78). -/
def execRefclkResumes (s : State) : Host.Outcome State Fault Refusal :=
  .next (clockResumes s)

/-- SECOND_PULSE (R79, R80). -/
def execSecondPulse (s : State) : Host.Outcome State Fault Refusal :=
  .next (secondPulse s)

/-- TIME_HOLD_ENDS (R79). -/
def execTimeHoldEnds (s : State) : Host.Outcome State Fault Refusal :=
  .next (holdOver s)

/-- PULSE_WATCH_EXPIRY (R80). -/
def execPulseWatchExpiry (s : State) : Host.Outcome State Fault Refusal :=
  .next (watchOver s)

/-- HAND_OVER (R69). -/
def execHandOver (at_ : Encoders) (s : State) : Host.Outcome State Fault Refusal :=
  .next (handOver s at_)

/-- ARBITRATION_LOST (R63). -/
def execArbitrationLost (s : State) : Host.Outcome State Fault Refusal :=
  .next (lost s)

/-- ATTEMPT_SUCCEEDS (R67, R75). -/
def execAttemptSucceeds (s : State) : Host.Outcome State Fault Refusal :=
  .next (succeeded s)

/-- FAILED_ATTEMPT (R66, R67). -/
def execFailedAttempt (s : State) : Host.Outcome State Fault Refusal :=
  .next (failed s)

/-- QUIET_END (R67). -/
def execQuietEnd (s : State) : Host.Outcome State Fault Refusal :=
  .next (quietOver s)

/-- FRAME_VETOED (R62, R64, R65). -/
def execFrameVetoed (raw : RawFrame) (s : State) : Host.Outcome State Fault Refusal :=
  .next (vetoFrame s raw)

/-- CLEAN_FRAME_VETOED_ELSEWHERE (R64, R65): nothing of the frame is taken, its sender included. -/
def execCleanFrameVetoedElsewhere (_sender : Nat) (s : State) :
    Host.Outcome State Fault Refusal :=
  .next (vetoedElsewhere s)

end Sys2Proof.Machine
end

