-- ==== Sys2Proof/Machine/CommandsMotion.lean ====
section
/-! DEFINITION. The meanings of MOVE, of the events of motion, of the axis inputs and of the keys
(R6 to R20, R28, R35 to R37). -/

namespace Sys2Proof.Machine

/-- MOVE_POINT (R6, R7); a purpose 4.10 does not define fails at step 6 (log 9). -/
def execMovePoint (sender target purpose : Nat) (az : Int) (el rate : Nat) (s : State) :
    Host.Outcome State Fault Refusal :=
  .next (takeConsoleFrame s sender fun t =>
    takeMove t sender target purpose (if purpose == 0 then .point else .undefined) az el rate)

/-- MOVE_REFERENCE_AZ (R6, R7). -/
def execMoveReferenceAz (sender target : Nat) (s : State) : Host.Outcome State Fault Refusal :=
  .next (takeConsoleFrame s sender fun t => takeMove t sender target 1 .referenceAz 0 0 0)

/-- MOVE_REFERENCE_EL (R6, R7). -/
def execMoveReferenceEl (sender target : Nat) (s : State) : Host.Outcome State Fault Refusal :=
  .next (takeConsoleFrame s sender fun t => takeMove t sender target 2 .referenceEl 0 0 0)

/-- LEG_END (R13, R22). -/
def execLegEnd (at_ : Encoders) (s : State) : Host.Outcome State Fault Refusal :=
  .next (legEnded s at_)

/-- GAP_MINIMUM_END (R14). -/
def execGapMinimumEnd (s : State) : Host.Outcome State Fault Refusal :=
  .next (gapMinimum s)

/-- GAP_BRAKE_TIMEOUT (R3, R14). -/
def execGapBrakeTimeout (s : State) : Host.Outcome State Fault Refusal :=
  .next (gapBrakes s)

/-- STOP_END (R15). -/
def execStopEnd (at_ : Encoders) (azRate elRate : Nat) (s : State) :
    Host.Outcome State Fault Refusal :=
  .next (stopEnded s at_ azRate elRate)

/-- LEG_STALL (R16). -/
def execLegStall (at_ : Encoders) (s : State) : Host.Outcome State Fault Refusal :=
  .next (legStalled s at_)

/-- STOP_STALL (R16). -/
def execStopStall (at_ : Encoders) (azRate elRate : Nat) (s : State) :
    Host.Outcome State Fault Refusal :=
  .next (stopStalled s at_ azRate elRate)

/-- LIMIT_INPUT (R17). -/
def execLimitInput (axis : Axis) (side : LimitEnd) (at_ : Encoders) (s : State) :
    Host.Outcome State Fault Refusal :=
  .next (limitEvent s axis side at_)

/-- AMPLIFIER_FAULT (R18). -/
def execAmplifierFault (axis : Axis) (at_ : Encoders) (s : State) :
    Host.Outcome State Fault Refusal :=
  .next (ampFaultEvent s axis at_)

/-- ENCODER_LOSS (R18). -/
def execEncoderLoss (axis : Axis) (at_ : Encoders) (s : State) : Host.Outcome State Fault Refusal :=
  .next (encoderLossEvent s axis at_)

/-- INDEX_MARK (R20). -/
def execIndexMark (axis : Axis) (s : State) : Host.Outcome State Fault Refusal :=
  .next (indexSeen s axis)

/-- REFERENCE_TRAVEL_LIMIT (R20). -/
def execReferenceTravelLimit (at_ : Encoders) (s : State) : Host.Outcome State Fault Refusal :=
  .next (travelLimit s at_)

/-- REFERENCE_DESCENT_END (R20). -/
def execReferenceDescentEnd (s : State) : Host.Outcome State Fault Refusal :=
  .next (descentEnd s)

/-- REFERENCE_DESCENT_LIMIT (R20). -/
def execReferenceDescentLimit (at_ : Encoders) (s : State) : Host.Outcome State Fault Refusal :=
  .next (descentLimit s at_)

/-- AMPLIFIER_WARNING (R28). -/
def execAmplifierWarning (axis : Axis) (active : Bool) (s : State) :
    Host.Outcome State Fault Refusal :=
  .next (warningEvent s axis active)

/-- LIMIT_INPUT_INACTIVE (R17). -/
def execLimitInputInactive (axis : Axis) (side : LimitEnd) (s : State) :
    Host.Outcome State Fault Refusal :=
  .next (limitReleased s axis side)

/-- AMPLIFIER_FAULT_INACTIVE (R19). -/
def execAmplifierFaultInactive (axis : Axis) (s : State) : Host.Outcome State Fault Refusal :=
  .next (ampFaultReleased s axis)

/-- ENCODER_SIGNAL_VALID (R19). -/
def execEncoderSignalValid (axis : Axis) (s : State) : Host.Outcome State Fault Refusal :=
  .next (encoderReturned s axis)

/-- KEY_INPUT_CHANGE (R35). -/
def execKeyInputChange (key : Nat) (closed : Bool) (s : State) : Host.Outcome State Fault Refusal :=
  .next (keyChange s key closed)

/-- KEY_CLOSING_COUNT_END (R35, R37). -/
def execKeyClosingCountEnd (key : Nat) (s : State) : Host.Outcome State Fault Refusal :=
  .next (keyClosed s key)

/-- KEY_OPENING_COUNT_END (R35, R37). -/
def execKeyOpeningCountEnd (key : Nat) (s : State) : Host.Outcome State Fault Refusal :=
  .next (keyOpened s key)

/-- KEY_CHECKING_END (R36). -/
def execKeyCheckingEnd (s : State) : Host.Outcome State Fault Refusal :=
  .next (keyCheckingOver s)

end Sys2Proof.Machine
end

