-- ==== Sys2Proof/Machine/CommandsUnits.lean ====
section
/-! DEFINITION. The meanings of the events of compacts, scans, cells, zones, loans and windows, and
of the lamp (R93, R103, R114, R120 to R123, R132, R142, R143, R155 to R160, R171 to R177, R194). -/

namespace Sys2Proof.Machine

/-- COMPACT_START_TIME (R103). -/
def execCompactStartTime (id : Nat) (s : State) : Host.Outcome State Fault Refusal :=
  .next (startTime s id)

/-- COMPACT_DEADLINE (R114). -/
def execCompactDeadline (id : Nat) (s : State) : Host.Outcome State Fault Refusal :=
  .next (deadline s id)

/-- COMPACT_REMOVAL (R93). -/
def execCompactRemoval (id : Nat) (s : State) : Host.Outcome State Fault Refusal :=
  .next (removeRecord s id)

/-- SCAN_START (R120). -/
def execScanStart (s : State) : Host.Outcome State Fault Refusal :=
  .next (scanInstant s)

/-- SCAN_COMPLETE (R121). -/
def execScanComplete (readings : ScanReadings) (s : State) : Host.Outcome State Fault Refusal :=
  .next (scanDone s readings)

/-- ANEMOMETER_PULSE (R123). -/
def execAnemometerPulse (input : Anemometer) (width : Nat) (s : State) :
    Host.Outcome State Fault Refusal :=
  .next (pulse s input width)

/-- WIND_RESEND (R132). -/
def execWindResend (s : State) : Host.Outcome State Fault Refusal :=
  .next (resend s)

/-- STOW_HOLD_EXPIRY (R142). -/
def execStowHoldExpiry (cell : Nat) (s : State) : Host.Outcome State Fault Refusal :=
  .next (holdExpiry s cell)

/-- SETTLE_EXPIRY (R143). -/
def execSettleExpiry (cell : Nat) (s : State) : Host.Outcome State Fault Refusal :=
  .next (settleExpired s cell)

/-- HEATER_BOUNDARY (R155, R156). -/
def execHeaterBoundary (s : State) : Host.Outcome State Fault Refusal :=
  .next (boundaryReached s)

/-- ZONE_SWITCH_ON_STEP (R159). -/
def execZoneSwitchOnStep (s : State) : Host.Outcome State Fault Refusal :=
  .next (switchStep s)

/-- DUTY_END (R160). -/
def execDutyEnd (zone : Nat) (s : State) : Host.Outcome State Fault Refusal :=
  .next (dutyEnded s zone)

/-- ASK_RUN_EXPIRY (R171). -/
def execAskRunExpiry (s : State) : Host.Outcome State Fault Refusal :=
  .next (askDue s)

/-- BORROWED_EXPIRY (R174). -/
def execBorrowedExpiry (peer : Nat) (s : State) : Host.Outcome State Fault Refusal :=
  .next (borrowedExpired s peer)

/-- LENT_EXPIRY (R174). -/
def execLentExpiry (peer : Nat) (s : State) : Host.Outcome State Fault Refusal :=
  .next (lentExpired s peer)

/-- LOAN_GRACE_END (R174). -/
def execLoanGraceEnd (peer : Nat) (s : State) : Host.Outcome State Fault Refusal :=
  .next (graceEnded s peer)

/-- SHARE_BACK_WITHDRAWAL (R174). -/
def execShareBackWithdrawal (lender : Nat) (s : State) : Host.Outcome State Fault Refusal :=
  .next (withdrawFrames s (isLateBack lender))

/-- INRUSH_WINDOW_OPEN (R177). -/
def execInrushWindowOpen (s : State) : Host.Outcome State Fault Refusal :=
  .next (windowReached s)

/-- INRUSH_WINDOW_END (R177). -/
def execInrushWindowEnd (s : State) : Host.Outcome State Fault Refusal :=
  .next (windowEnded s)

/-- STOW_LAMP_FLASH (R194). -/
def execStowLampFlash (s : State) : Host.Outcome State Fault Refusal :=
  .next (lampFlash s)

end Sys2Proof.Machine
end

