-- ==== Sys2Proof/Machine/Dispatch.lean ====
section
/-! DEFINITION. One arm per command: the meaning of each (spec/opcode_table.json). -/

namespace Sys2Proof.Machine

/-- The effect of a command on everything but the queue. -/
def exec (i : Instr) (s : State) : Host.Outcome State Fault Refusal :=
  match i with
  | .powerOn straps => Sys2Proof.Machine.execPowerOn straps s
  | .pinReset straps => Sys2Proof.Machine.execPinReset straps s
  | .resetHold supplyLow => Sys2Proof.Machine.execResetHold supplyLow s
  | .loadAttemptComplete acked bytes => Sys2Proof.Machine.execLoadAttemptComplete acked bytes s
  | .loadBusTimeout bytes => Sys2Proof.Machine.execLoadBusTimeout bytes s
  | .loadRetryPauseEnd => Sys2Proof.Machine.execLoadRetryPauseEnd s
  | .listenEnd => Sys2Proof.Machine.execListenEnd s
  | .resetAll sender target scope straps => Sys2Proof.Machine.execResetAll sender target scope straps s
  | .resetMotion sender target => Sys2Proof.Machine.execResetMotion sender target s
  | .resetHeat sender target => Sys2Proof.Machine.execResetHeat sender target s
  | .refclkStops => Sys2Proof.Machine.execRefclkStops s
  | .refclkResumes => Sys2Proof.Machine.execRefclkResumes s
  | .secondPulse => Sys2Proof.Machine.execSecondPulse s
  | .timeHoldEnds => Sys2Proof.Machine.execTimeHoldEnds s
  | .pulseWatchExpiry => Sys2Proof.Machine.execPulseWatchExpiry s
  | .handOver at_ => Sys2Proof.Machine.execHandOver at_ s
  | .arbitrationLost => Sys2Proof.Machine.execArbitrationLost s
  | .attemptSucceeds => Sys2Proof.Machine.execAttemptSucceeds s
  | .failedAttempt => Sys2Proof.Machine.execFailedAttempt s
  | .quietEnd => Sys2Proof.Machine.execQuietEnd s
  | .frameVetoed raw => Sys2Proof.Machine.execFrameVetoed raw s
  | .beaconReceived sender beacon => Sys2Proof.Machine.execBeaconReceived sender beacon s
  | .peerAbsent station => Sys2Proof.Machine.execPeerAbsent station s
  | .beaconInterval at_ => Sys2Proof.Machine.execBeaconInterval at_ s
  | .windReceived sender cell level speed cause => Sys2Proof.Machine.execWindReceived sender cell level speed cause s
  | .lockSet sender target token scope => Sys2Proof.Machine.execLockSet sender target token scope s
  | .lockClear sender target token => Sys2Proof.Machine.execLockClear sender target token s
  | .lockNoticeReceived sender mask entries keys remotes => Sys2Proof.Machine.execLockNoticeReceived sender mask entries keys remotes s
  | .call sender payload => Sys2Proof.Machine.execCall sender payload s
  | .reply sender id verdict reason => Sys2Proof.Machine.execReply sender id verdict reason s
  | .hold sender id => Sys2Proof.Machine.execHold sender id s
  | .resume sender id => Sys2Proof.Machine.execResume sender id s
  | .cancel sender id => Sys2Proof.Machine.execCancel sender id s
  | .arrive sender id az el => Sys2Proof.Machine.execArrive sender id az el s
  | .leave sender id reason => Sys2Proof.Machine.execLeave sender id reason s
  | .movePoint sender target purpose az el rate => Sys2Proof.Machine.execMovePoint sender target purpose az el rate s
  | .moveReferenceAz sender target => Sys2Proof.Machine.execMoveReferenceAz sender target s
  | .moveReferenceEl sender target => Sys2Proof.Machine.execMoveReferenceEl sender target s
  | .shareAsk sender amount => Sys2Proof.Machine.execShareAsk sender amount s
  | .shareGrant sender borrower amount expiry => Sys2Proof.Machine.execShareGrant sender borrower amount expiry s
  | .shareBack sender lender amount => Sys2Proof.Machine.execShareBack sender lender amount s
  | .inrush sender start zones => Sys2Proof.Machine.execInrush sender start zones s
  | .queryIdent sender target item index => Sys2Proof.Machine.execQueryIdent sender target item index s
  | .queryConfig sender target index => Sys2Proof.Machine.execQueryConfig sender target index s
  | .queryDish sender target index at_ => Sys2Proof.Machine.execQueryDish sender target index at_ s
  | .queryLocks sender target index => Sys2Proof.Machine.execQueryLocks sender target index s
  | .queryCompacts sender target index => Sys2Proof.Machine.execQueryCompacts sender target index s
  | .queryMembers sender target index => Sys2Proof.Machine.execQueryMembers sender target index s
  | .queryLoans sender target index => Sys2Proof.Machine.execQueryLoans sender target index s
  | .queryShares sender target index => Sys2Proof.Machine.execQueryShares sender target index s
  | .queryZones sender target index => Sys2Proof.Machine.execQueryZones sender target index s
  | .queryMelt sender target index => Sys2Proof.Machine.execQueryMelt sender target index s
  | .queryCells sender target index => Sys2Proof.Machine.execQueryCells sender target index s
  | .queryScan sender target index => Sys2Proof.Machine.execQueryScan sender target index s
  | .queryFlags sender target index => Sys2Proof.Machine.execQueryFlags sender target index s
  | .queryPeer sender target index => Sys2Proof.Machine.execQueryPeer sender target index s
  | .clear sender target flags => Sys2Proof.Machine.execClear sender target flags s
  | .eventReceived sender => Sys2Proof.Machine.execEventReceived sender s
  | .answerReceived sender => Sys2Proof.Machine.execAnswerReceived sender s
  | .legEnd at_ => Sys2Proof.Machine.execLegEnd at_ s
  | .gapMinimumEnd => Sys2Proof.Machine.execGapMinimumEnd s
  | .gapBrakeTimeout => Sys2Proof.Machine.execGapBrakeTimeout s
  | .stopEnd at_ azRate elRate => Sys2Proof.Machine.execStopEnd at_ azRate elRate s
  | .legStall at_ => Sys2Proof.Machine.execLegStall at_ s
  | .stopStall at_ azRate elRate => Sys2Proof.Machine.execStopStall at_ azRate elRate s
  | .limitInput axis side at_ => Sys2Proof.Machine.execLimitInput axis side at_ s
  | .amplifierFault axis at_ => Sys2Proof.Machine.execAmplifierFault axis at_ s
  | .encoderLoss axis at_ => Sys2Proof.Machine.execEncoderLoss axis at_ s
  | .indexMark axis => Sys2Proof.Machine.execIndexMark axis s
  | .referenceTravelLimit at_ => Sys2Proof.Machine.execReferenceTravelLimit at_ s
  | .referenceDescentEnd => Sys2Proof.Machine.execReferenceDescentEnd s
  | .referenceDescentLimit at_ => Sys2Proof.Machine.execReferenceDescentLimit at_ s
  | .amplifierWarning axis active => Sys2Proof.Machine.execAmplifierWarning axis active s
  | .keyInputChange key closed => Sys2Proof.Machine.execKeyInputChange key closed s
  | .keyClosingCountEnd key => Sys2Proof.Machine.execKeyClosingCountEnd key s
  | .keyOpeningCountEnd key => Sys2Proof.Machine.execKeyOpeningCountEnd key s
  | .keyCheckingEnd => Sys2Proof.Machine.execKeyCheckingEnd s
  | .compactStartTime id => Sys2Proof.Machine.execCompactStartTime id s
  | .compactDeadline id => Sys2Proof.Machine.execCompactDeadline id s
  | .compactRemoval id => Sys2Proof.Machine.execCompactRemoval id s
  | .scanStart => Sys2Proof.Machine.execScanStart s
  | .scanComplete readings => Sys2Proof.Machine.execScanComplete readings s
  | .anemometerPulse input width => Sys2Proof.Machine.execAnemometerPulse input width s
  | .windResend => Sys2Proof.Machine.execWindResend s
  | .stowHoldExpiry cell => Sys2Proof.Machine.execStowHoldExpiry cell s
  | .settleExpiry cell => Sys2Proof.Machine.execSettleExpiry cell s
  | .heaterBoundary => Sys2Proof.Machine.execHeaterBoundary s
  | .zoneSwitchOnStep => Sys2Proof.Machine.execZoneSwitchOnStep s
  | .dutyEnd zone => Sys2Proof.Machine.execDutyEnd zone s
  | .askRunExpiry => Sys2Proof.Machine.execAskRunExpiry s
  | .borrowedExpiry peer => Sys2Proof.Machine.execBorrowedExpiry peer s
  | .lentExpiry peer => Sys2Proof.Machine.execLentExpiry peer s
  | .loanGraceEnd peer => Sys2Proof.Machine.execLoanGraceEnd peer s
  | .shareBackWithdrawal lender => Sys2Proof.Machine.execShareBackWithdrawal lender s
  | .inrushWindowOpen => Sys2Proof.Machine.execInrushWindowOpen s
  | .inrushWindowEnd => Sys2Proof.Machine.execInrushWindowEnd s
  | .stowLampFlash => Sys2Proof.Machine.execStowLampFlash s
  | .limitInputInactive axis side => Sys2Proof.Machine.execLimitInputInactive axis side s
  | .amplifierFaultInactive axis => Sys2Proof.Machine.execAmplifierFaultInactive axis s
  | .encoderSignalValid axis => Sys2Proof.Machine.execEncoderSignalValid axis s
  | .cleanFrameVetoedElsewhere sender => Sys2Proof.Machine.execCleanFrameVetoedElsewhere sender s

end Sys2Proof.Machine
end

