-- ==== Sys2Proof/Safety.lean ====
section
/-! DEFINITION. What must hold of every state between two steps: the ranges and shapes the manual
gives the blocks' state, one definition for each block, and all of them together; and the words the
statements share. -/

namespace Sys2Proof.Machine

/-- Array time, the hold count and the pulse watch lie in their ranges, and a hold is never longer
than the count it holds (5.1, R78, R79, R80). -/
abbrev TimeOk (t : TimeUnit) : Prop :=
  t.sec ≤ lastSecond ∧ t.ms ≤ 999 ∧ t.hold ≤ t.ms ∧ t.hold ≤ 499 ∧ t.watch ≤ 1500

/-- Two queued frames, the first the older: different slots, and not both unstarted frames of one
group (R68, R70). -/
abbrev TxApart (a b : TxEntry) : Prop :=
  a.slot ≠ b.slot ∧ a.age < b.age ∧
    (a.started = false → b.started = false → sameGroup a.frame b.frame = false)

/-- A queued frame stands in one of the 12 slots, and only a SAFETY frame in a reserved one
(R68). -/
abbrev TxPlaced (nextAge : Nat) (e : TxEntry) : Prop :=
  e.slot < 12 ∧ e.age < nextAge ∧ (frameClass e.frame ≠ .safety → e.slot < 8)

/-- The transmit queue, the transmit error counter and the veto counter are as R65, R67, R68 and
R70 give. -/
abbrev LineOk (l : LineUnit) : Prop :=
  l.queue.Pairwise TxApart ∧ (∀ e ∈ l.queue, TxPlaced l.nextAge e) ∧ l.txErrors ≤ 64 ∧
    l.vetoCount ≤ 8 ∧ (l.passive = false → l.vetoCount < 8)

/-- The Peer Table holds each station once, in order, with a silence of at most 1500 (R83). -/
abbrev PeersOk (p : PeerUnit) : Prop :=
  p.table.Pairwise (fun a b => a.station < b.station) ∧
    (∀ e ∈ p.table, 1 ≤ e.station ∧ e.station ≤ 63 ∧ e.silence ≤ 1500) ∧ p.startCount ≤ 4

/-- The brakes released are those of the axes that move in the leg in flight (R3). -/
def brakesFollow (a : AxisUnit) : Bool :=
  match a.leg with
  | some l => a.releasedAz == l.movesAz && a.releasedEl == l.movesEl
  | none => true

/-- The Move Queue holds at most 8 entries (R5); a leg record is kept in LEG and STOWING and a stop
record in STOPPING (R4); the brakes are as R3 gives in every state but GAP and STOPPING. -/
abbrev AxisOk (a : AxisUnit) : Prop :=
  a.queue.length ≤ 8 ∧
    (a.leg.isSome = true ↔ a.motion = .leg ∨ a.motion = .stowing) ∧
    (a.stop.isSome = true ↔ a.motion = .stopping) ∧ brakesFollow a = true ∧
    (a.motion = .stowing → a.releasedAz = false) ∧
    (a.motion = .idle ∨ a.motion = .stowed ∨ a.motion = .halted →
      a.releasedAz = false ∧ a.releasedEl = false)

/-- What makes two lockout entries one: the key, or the token (R32). -/
def holderId : LockHolder → Bool × Nat
  | .key k => (false, k)
  | .remote token _ => (true, token)

/-- The key of an entry is one of the four, and its machine is in a state that holds an entry
(R32). -/
def keyEntryOk (keys : List KeyMachine) (e : LockEntry) : Bool :=
  match e.holder with
  | .key k =>
    decide (1 ≤ k ∧ k ≤ 4) &&
      match (keys.getD (k - 1) ⟨.opened, 0, Scope.none⟩).state with
      | .opened => false
      | .closing => false
      | _ => true
  | .remote .. => true

/-- The Lockout List holds at most one entry for a key and at most four remote entries of different
tokens, and a key's entry only where R32 gives one; the pending answers are at most 8 (R32,
R41). -/
abbrev LockOk (u : LockUnit) : Prop :=
  u.keys.length = 4 ∧ u.list.Pairwise (fun a b => holderId a.holder ≠ holderId b.holder) ∧
    (u.list.filter isRemote).length ≤ 4 ∧ (∀ e ∈ u.list, keyEntryOk u.keys e = true) ∧
    u.pending.length ≤ 8

/-- A compact record's terminal time is absent until it is terminal, its hold set is empty in MOVING
and is not in HELD (R91, R93). -/
abbrev RecordOk (r : CompactRecord) : Prop :=
  (isLive r = true ↔ r.terminalAt = none) ∧ (r.state = .moving → r.holds = []) ∧
    (r.state = .held → r.holds ≠ [])

/-- The Compact List holds at most 4 records, ordered by start time and compact id, of different
compact ids; the pending replies are at most 4 (R91, R94). -/
abbrev CompactOk (u : CompactUnit) : Prop :=
  u.list.length ≤ 4 ∧
    u.list.Pairwise (fun a b => recordBefore a b = true ∧ a.id ≠ b.id) ∧
    (∀ r ∈ u.list, RecordOk r) ∧ u.pending.length ≤ 4

/-- The counts, speeds and level of the Sensor Unit lie in their ranges, and a STOW cause is held
exactly while the level is STOW (R121, R123, R124, R129, R130). -/
abbrev SensorOk (u : SensorUnit) : Prop :=
  u.discarded ≤ 3 ∧ u.good ≤ 10 ∧ u.channelA.speed ≤ 1000 ∧ u.channelB.speed ≤ 1000 ∧
    u.combined ≤ 1000 ∧ u.melt ≤ 6 ∧ u.watchCount ≤ 8 ∧ u.stowCount ≤ 8 ∧
    (u.stowCause.isSome = true ↔ u.level = .stow)

/-- A cell's cause is present in STOW and SETTLE only, its settle start in SETTLE only, and its
roster holds at most 8 different stations (R135, R136). -/
abbrev CellOk (x : Cell) : Prop :=
  (x.cause.isSome = true ↔ x.state = .stow ∨ x.state = .settle) ∧
    (x.settleStart.isSome = true ↔ x.state = .settle) ∧ x.roster.length ≤ 8 ∧
    x.roster.Pairwise (fun a b => a.station ≠ b.station)

/-- The Cell Table holds eight such records (R135). -/
abbrev WindOk (u : WindUnit) : Prop := u.cells.length = 8 ∧ ∀ x ∈ u.cells, CellOk x

/-- The Loan Table holds at most 8 entries, at most one for any peer (R170). -/
abbrev LoansOk (u : ShareUnit) : Prop :=
  u.loans.length ≤ 8 ∧ u.loans.Pairwise (fun a b => a.peer ≠ b.peer)

/-- There are 16 flag records, and at most 4 kept queries (R189, R192). -/
abbrev ReportOk (u : ReportUnit) : Prop := u.flags.length = 16 ∧ u.pending.length ≤ 4

/-- What every step keeps: a clause each for array time, the Line Unit, the Peer, Axis, Lockout,
Compact and Sensor Units, the Cell Table, the Loan Table and the flag records.  The Keep-out Table,
the Heater Unit, the Start-up Sequencer and the Share Account have none. -/
structure Inv (s : State) : Prop where
  time : TimeOk s.time
  line : LineOk s.line
  peers : PeersOk s.peers
  axis : AxisOk s.axis
  lock : LockOk s.lock
  compact : CompactOk s.compact
  sensor : SensorOk s.sensor
  wind : WindOk s.wind
  loans : LoansOk s.share
  report : ReportOk s.report

/-- A station that is PRESENT in the Peer Table, of another number, whose frames this station
receives (R61, R83). -/
def Known (s : State) (n : Nat) : Prop :=
  receives s = true ∧ 1 ≤ n ∧ n ≤ 63 ∧ n ≠ s.seq.number ∧ isPresent s n = true ∧ PeersOk s.peers

/-- Such a station that is a console (6.2). -/
def KnownConsole (s : State) (n : Nat) : Prop := Known s n ∧ isConsole n = true

/-- Such a station that is a dish (6.2). -/
def KnownDish (s : State) (n : Nat) : Prop := Known s n ∧ isConsole n = false

/-- No input of the axes shows a fault condition (R19, R31): the elevation upper limit alone shows
none while the elevation is UNREFERENCED. -/
abbrev InputsClear (s : State) : Prop :=
  s.pins.azLower = false ∧ s.pins.azUpper = false ∧ s.pins.elLower = false ∧
    (s.pins.elUpper = true → s.axis.refEl = false) ∧ s.pins.azFault = false ∧
    s.pins.elFault = false ∧ s.pins.azValid = true ∧ s.pins.elValid = true

/-- No stow order stands, and every obeyed cell has a working entry: no change of a working flag
gives a stow order for want of a sensor, nor a calm notice (R144, R146). -/
abbrev NoOrderDue (s : State) : Prop :=
  s.wind.ordered = false ∧ ∀ c ∈ obeyed s, workingEntries (cellAt s c) ≠ []

/-- At a clash found in LISTEN no obeyed cell calls for a stow (R147). -/
abbrev NoStowDue (s : State) : Prop :=
  NoOrderDue s ∧ ∀ c ∈ obeyed s, (cellAt s c).state = .calm ∨ (cellAt s c).state = .watch

/-- At a clash found in LISTEN an obeyed cell calls for a stow: it is in STOW, in SETTLE with its
interval running, or without a working entry (R144, R147). -/
abbrev StowDue (s : State) : Prop :=
  s.wind.ordered = false ∧ s.wind.cells.length = 8 ∧ ∃ c ∈ obeyed s, c < 8 ∧
    (workingEntries (cellAt s c) = [] ∨ (cellAt s c).state = .stow ∨
      (cellAt s c).state = .settle ∧ (cellAt s c).settleRun < (cfg s).settleTime * 1000)

/-- What the reading of a frame without fault changes where its sender is PRESENT: the veto counter
and the receive state (R65), and the sender's last-heard time and silence (R84). -/
def frameRead (s : State) (n : Nat) : State :=
  { s with
    line := { s.line with vetoCount := 0, passive := false }
    peers := { s.peers with table := s.peers.table.map fun e =>
      if e.station == n then { e with lastHeard := some (now s), silence := 0 } else e } }

/-- The part as a restart leaves it: every block at the state its
chapter gives after a restarting reset, but for the positions, the remote lockouts and the record
of ID_CLASH that the reset keeps (R50, R181, R187, R189). -/
def restarted (s : State) (cause : StartCause) (sender : Nat) (straps : Straps) (az el : Int)
    (locks : List LockEntry) (idClash : FlagRecord) : State :=
  { s with
    seq := { SeqUnit.initial false false straps.number straps.fastLine cause sender with
      station := if isDish straps.number then .load else .faulted .number }
    line := LineUnit.initial
    time := TimeUnit.initial
    peers := PeerUnit.initial
    axis := AxisUnit.initial az el
    lock := { LockUnit.initial locks with
      checkRun := if isDish straps.number then none else some 0 }
    keepOut := []
    compact := CompactUnit.initial
    sensor := SensorUnit.initial
    wind := WindUnit.initial
    heater := HeaterUnit.initial
    share := ShareUnit.initial
    report := ReportUnit.initial idClash }

/-- Start-up, the pins, array time, the Peer Table, the Lockout Unit, the Keep-out Table, the Sensor
Unit, the cells, the kept queries and the queue of commands are as they were. -/
structure Elsewhere (s t : State) : Prop where
  pending : t.pending = s.pending
  pins : t.pins = s.pins
  seq : t.seq = s.seq
  time : t.time = s.time
  peers : t.peers = s.peers
  lock : t.lock = s.lock
  keepOut : t.keepOut = s.keepOut
  sensor : t.sensor = s.sensor
  cells : t.wind.cells = s.wind.cells
  kept : t.report.pending = s.report.pending

/-- The ANSWER to a frame of a PRESENT console, queued once the frame has been read (4.10). -/
def answered (s : State) (n subject key outcome : Nat) (value : Option AnswerValue) : State :=
  queueFrame (frameRead s n) (.answer n subject key outcome value)

/-- The STOW entries of the Move Queue, which a flush leaves (R5). -/
def stowEntries (s : State) : List MoveEntry := s.axis.queue.filter fun e => e.origin == .stow

/-- Commands run one after the other, each of them to a next state. -/
def RunsThrough : List Instr → State → State → Prop
  | [], s, t => t = s
  | i :: l, s, t => ∃ u, exec i s = .next u ∧ RunsThrough l u t

/-- An instant of array time has been reached, and the command is its event (R82): the start time
of a record in FORMING, the deadline of a live one (R103, R114), the scan instant (R120), the heater
boundary in READY (R155), the expiry of a loan (R174), the start and the end of the window won
(R177). -/
def InstantReached (s : State) (i : Instr) : Prop :=
  (∃ r ∈ s.compact.list, r.state = .forming ∧ toMs r.start ≤ nowMs s ∧
    i = .compactStartTime r.id) ∨
  (∃ r ∈ s.compact.list, isLive r = true ∧ toMs r.deadline ≤ nowMs s ∧
    i = .compactDeadline r.id) ∨
  (s.seq.config.isSome = true ∧ s.sensor.latched = true ∧ s.sensor.nextScan ≤ nowMs s ∧
    i = .scanStart) ∨
  (∃ b, s.seq.station = .ready ∧ s.heater.nextBoundary = some b ∧ b ≤ s.time.sec ∧
    i = .heaterBoundary) ∨
  (∃ e ∈ s.share.loans, e.expiry ≤ s.time.sec ∧
    (e.lent = false ∧ i = .borrowedExpiry e.peer ∨
      e.lent = true ∧ e.grace = false ∧ i = .lentExpiry e.peer)) ∨
  ∃ start n isOpen, s.share.claim = .won start n isOpen ∧
    (isOpen = false ∧ start ≤ nowMs s ∧ i = .inrushWindowOpen ∨
      start + 500 ≤ nowMs s ∧ i = .inrushWindowEnd)

/-- The station has left a compact it was flying (R43, R111): its own member state is LEFT with the
reason, a record of mode ALL is ABANDONED (R109), COMPACT_FAILED is set (R116), and one LEAVE with
the reason waits. -/
structure LeftBy (s t : State) (r : CompactRecord) (reason : Nat) : Prop where
  member : ∃ x, findRecord t r.id = some x ∧
    memberState x s.seq.number = some (.left reason) ∧
    (r.partialMode = false → x.state = .abandoned)
  failed : flagOn t flagCompactFailed = true
  leave : (t.line.queue.map (·.frame)).count (.leave r.id reason) = 1

/-- The one record of the Compact List is a compact that a READY station flies, nothing waits to be
sent, and the flag records are whole. -/
def FliesAlone (s : State) (r : CompactRecord) : Prop :=
  s.seq.station = .ready ∧ s.seq.held = false ∧ s.line.queue = [] ∧
    s.report.flags.length = 16 ∧ s.compact.list = [r] ∧ isFlying r = true ∧
    memberState r s.seq.number = some .accepted

/-- A fault of the axes has put the dish in HALTED: leg and stop ended, brakes engaged, motion
commit released, the queue flushed, the flag set with its detail; reference, stow-order mark and
every block outside the axes' reach as they were (R18); a compact whose JOINT entry is so removed
is left with reason FAULT (R111).  The amplifiers are disabled and the brakes engaged, which the
outputs show (R3, R18; log 29). -/
structure HaltedBy (s t : State) (p : Encoders) (flag detail : Nat) : Prop where
  axis : t.axis = { s.axis with
    posAz := p.az, posEl := p.el, leg := none, stop := none, motion := .halted
    releasedAz := false, releasedEl := false, queue := stowEntries s
    jointHeld := false, withdrawPending := false, pairFaulted := t.axis.pairFaulted }
  commit : t.share.motion = 0
  flag : flagRecord t flag = ⟨true, detail, 0, now s⟩
  seq : t.seq = s.seq
  time : t.time = s.time
  peers : t.peers = s.peers
  lock : t.lock = s.lock
  keepOut : t.keepOut = s.keepOut
  sensor : t.sensor = s.sensor
  cells : t.wind.cells = s.wind.cells
  left : ∀ r e rest, FliesAlone s r → s.axis.queue = e :: rest → e.origin = .joint →
    e.compactId = r.id → LeftBy s t r reasonFault
  amplifiers : amplifiersEnabled t = false
  brakes : ∀ a, brakeEngaged t a = true

/-- A controlled stop has begun: the leg ended without a leg-end, one reason recorded, the motion
commit and the brakes kept (R15). -/
def stopping (a : AxisUnit) (r : StopReason) : AxisUnit :=
  { a with leg := none, stop := some ⟨[r], 0, 0⟩, motion := .stopping }

/-- The engine after a flush: only STOW entries wait, no JOINT entry is marked (R5). -/
def flushed (a : AxisUnit) : AxisUnit :=
  { a with
    queue := a.queue.filter fun e => e.origin == .stow
    jointHeld := false
    withdrawPending := false }

/-- The queries of one index as their commands, each with its item code and the value the item holds
in a state; the queries of DISH and MELT, which do more, are no part of it (R192, R193). -/
def plainQueries (s : State) (n target index : Nat) : List (Instr × Nat × Option AnswerValue) :=
  [(.queryIdent n target 1 index, 1, identValue index),
   (.queryConfig n target index, 2, configValue s index),
   (.queryLocks n target index, 4, locksValue s index),
   (.queryCompacts n target index, 5, compactsValue s index),
   (.queryMembers n target index, 6, membersValue s index),
   (.queryLoans n target index, 7, loansValue s index),
   (.queryShares n target index, 8, sharesValue s index),
   (.queryZones n target index, 9, zonesValue s index),
   (.queryCells n target index, 11, cellsValue s index),
   (.queryScan n target index, 12, scanValue s index),
   (.queryFlags n target index, 13, flagsValue s index),
   (.queryPeer n target index, 14, peerValue s index)]

/-- The queries of one index as their commands, each with its item code and whether the item has
that index, by the table of R193; DISH and MELT, whose QUERY does more, are no part of it. -/
def itemRanges (s : State) (n target index : Nat) : List (Instr × Nat × Bool) :=
  [(.queryIdent n target 1 index, 1, index == 0),
   (.queryConfig n target index, 2, decide (index ≤ 8)),
   (.queryLocks n target index, 4, decide (index < s.lock.list.length)),
   (.queryCompacts n target index, 5, decide (index < s.compact.list.length)),
   (.queryMembers n target index, 6,
     decide (index < (s.compact.list.map fun r => r.members.length).sum)),
   (.queryLoans n target index, 7, decide (index < s.share.loans.length)),
   (.queryShares n target index, 8, index == 0),
   (.queryZones n target index, 9, decide (index < s.heater.zones.length)),
   (.queryCells n target index, 11, decide (index ≤ 7)),
   (.queryScan n target index, 12, decide (index ≤ 5)),
   (.queryFlags n target index, 13, decide (index ≤ 16)),
   (.queryPeer n target index, 14, decide (1 ≤ index ∧ index ≤ 63 ∧ index ≠ s.seq.number))]

/-- The zones a shed demand takes of a list of zones, the latest first: as few as give the amount,
or all of them (R161). -/
def FreedOf (zones : List Zone) (l : List Nat) (amount : Nat) (freed : List Nat) : Prop :=
  (∃ rest, (l.reverse.filter fun i => decide (i < zones.length)) = freed ++ rest ∧
    (rest ≠ [] → amount ≤ sharesOf zones freed)) ∧
  ∀ a i, freed = a ++ [i] → sharesOf zones a < amount

/-- A shed demand has been met (R161): zones in CLAIM, the latest to enter it first, are back in
WANT; where they do not give the amount, zones ON, the latest switched on first, are in REST with
cause SHED; no other zone has changed, and the heater commitment follows (R157). -/
structure ShedBy (s v : State) (amount : Nat) (freedClaims freedOn : List Nat) : Prop where
  claimed : FreedOf s.heater.zones s.heater.claims amount freedClaims
  on : FreedOf s.heater.zones s.heater.onOrder (amount - sharesOf s.heater.zones freedClaims)
    freedOn
  zones : v.heater.zones = s.heater.zones.mapIdx fun i z =>
    if freedOn.contains i then zoneRest .shed z
    else if freedClaims.contains i then zoneWant z else z
  claims : v.heater.claims = s.heater.claims.filter fun i => !freedClaims.contains i
  onOrder : v.heater.onOrder = s.heater.onOrder.filter fun i => !freedOn.contains i
  commit : 0 < amount → v.share.heaterCommit = heaterCommitment v
  loans : v.share.loans = s.share.loans
  motion : v.share.motion = s.share.motion
  axis : v.axis = s.axis
  compact : v.compact = s.compact
  elsewhere : Elsewhere s v

/-- The frames whose owner does nothing at their start notice or completion (R69, R75): every kind
but BEACON, WIND, HOLD, RESUME, SHARE_GRANT and INRUSH. -/
def isPlain : Frame → Bool
  | .beacon _ => false
  | .wind .. => false
  | .hold _ => false
  | .resume _ => false
  | .shareGrant .. => false
  | .inrush .. => false
  | _ => true

/-- The frames that are queued once more after a loss (R102, R107, R112). -/
def mayRepeat : Frame → Bool
  | .hold _ => true
  | .resume _ => true
  | .arrive .. => true
  | .leave .. => true
  | _ => false

/-- What the owner of a COORD or ROUTINE frame makes of its loss at the 8th failure, `v` the state
without the frame and `w` the state after: a HOLD, RESUME, ARRIVE, or LEAVE whose record stands is
queued once more, unless it had been (R102, R107, R112), and the claim of an INRUSH is made anew
(R177). -/
def FollowUp (s : State) (e : TxEntry) (v w : State) : Prop :=
  ((e.again = true ∨ mayRepeat e.frame = false) ∧ (∀ x z, e.frame ≠ .inrush x z) ∧ w = v) ∨
  (∃ id reason, e.frame = .leave id reason ∧ reason ≠ 16 ∧ findRecord s id = none ∧ w = v) ∨
  (∃ k, e.again = false ∧ mayRepeat e.frame = true ∧
    (∀ id reason, e.frame = .leave id reason → reason = 16 ∨ (findRecord s id).isSome = true) ∧
    freeSlot v.line.queue 0 8 = some k ∧
    w = v.withLine (v.line.append k { TxEntry.fresh e.frame with again := true })) ∨
  ∃ x z, e.frame = .inrush x z ∧
    ((s.share.claimCount = 0 ∨ s.seq.station ≠ .ready) ∧
        w = v.withShare { s.share with claim := .none } ∨
      ∃ k, s.share.claimCount ≠ 0 ∧ s.seq.station = .ready ∧ s.seq.held = false ∧
        freeSlot v.line.queue 0 8 = some k ∧
        w = (v.withShare { s.share with claim := .queued }).withLine (v.line.append k
          (TxEntry.fresh (.inrush (inrushStart s) s.share.claimCount))))

/-- The frame that makes room for a SAFETY frame where all 12 slots are occupied, the first of these
that exists: the oldest unstarted ROUTINE frame that is no ANSWER; the oldest unstarted ANSWER; the
youngest unstarted COORD frame; the oldest started ROUTINE, then COORD, frame not in the middle of
an attempt (R72). -/
def MakesRoom (l : LineUnit) (v : TxEntry) : Prop :=
  l.queue.find? isDisplaceable = some v ∨
  l.queue.find? isDisplaceable = none ∧
    (l.queue.find? waitingAnswer = some v ∨
    l.queue.find? waitingAnswer = none ∧
      (l.queue.reverse.find? waitingCoord = some v ∨
      l.queue.reverse.find? waitingCoord = none ∧
        (l.queue.find? (startedOf l .routine) = some v ∨
        l.queue.find? (startedOf l .routine) = none ∧
          l.queue.find? (startedOf l .coord) = some v)))

/-- No step between two of the part's restarts takes array time back (R79); the restarts are the
commands that begin it anew (R78, R187). -/
def isRestart : Instr → Bool
  | .powerOn _ => true
  | .pinReset _ => true
  | .resetHold _ => true
  | .resetAll .. => true
  | _ => false

end Sys2Proof.Machine
end

