-- ==== Sys2Proof/WellFormed.lean ====
section
/-! DEFINITION. The well-formedness of a command: each operand lies in the range its field of 4.10,
its input, or its register can hold. -/

namespace Sys2Proof

/-- A sender number a frame can carry: 1 to 63 (4.2, R62). -/
def wfSender (n : Nat) : Bool := decide (1 ≤ n ∧ n ≤ 63)

/-- A field of one byte. -/
def wfByte (n : Nat) : Bool := decide (n < 256)

/-- A field of two bytes. -/
def wfWord (n : Nat) : Bool := decide (n < 65536)

/-- A field of three bytes. -/
def wfTriple (n : Nat) : Bool := decide (n < 16777216)

/-- A field of four bytes. -/
def wfQuad (n : Nat) : Bool := decide (n < 4294967296)

/-- A signed field of four bytes. -/
def wfSigned (x : Int) : Bool := decide (-2147483648 ≤ x ∧ x < 2147483648)

/-- An elevation field: three bytes, not signed. -/
def wfElevation (x : Int) : Bool := decide (0 ≤ x ∧ x < 16777216)

/-- A time field: seconds in four bytes, milliseconds in two. -/
def wfTime (t : ATime) : Bool := wfQuad t.sec && wfWord t.ms

/-- Six straps (R181). -/
def wfStraps (x : Straps) : Bool := decide (x.number < 64)

/-- A number of a key input (R32). -/
def wfKey (k : Nat) : Bool := decide (1 ≤ k ∧ k ≤ 4)

/-- A number of a wind cell (R135). -/
def wfCell (c : Nat) : Bool := decide (c < 8)

/-- A number of a heater zone (R152). -/
def wfZone (z : Nat) : Bool := decide (z < 8)

/-- A station number of the Peer Table (R83). -/
def wfPeer (n : Nat) : Bool := decide (1 ≤ n ∧ n ≤ 63)

/-- A read of the whole record gives 143 bytes; a failed one, at most those (R182). -/
def wfRecord (acked : Bool) (l : List Byte) : Bool :=
  if acked then l.length == 143 else decide (l.length ≤ 143)

/-- The fields of a BEACON fit their bits (4.10.1). -/
def wfBeacon (p : BeaconPayload) : Bool :=
  wfQuad p.sec && wfWord p.ms && decide (p.startCause < 8) && decide (p.stationState < 4) &&
    decide (p.windLevel < 4) && decide (p.sensorStatus < 4) && decide (p.cell < 8) &&
    wfWord p.windSpeed && decide (p.motion < 8) && wfSigned p.az && wfElevation p.el &&
    wfWord p.compactId && wfByte p.spare && wfByte p.melt

/-- The fields of a CALL fit their bytes (4.10.1). -/
def wfCall (p : CallPayload) : Bool :=
  wfWord p.id && wfByte p.mode && wfTriple p.skyAz && wfTriple p.el && wfTime p.start &&
    wfTime p.deadline

/-- A QUERY's target and index. -/
def wfQuery (sender target index : Nat) : Bool :=
  wfSender sender && wfByte target && wfByte index

/-- A frame's sender and compact id. -/
def wfCompactFrame (sender id : Nat) : Bool := wfSender sender && wfWord id

/-- The command is well formed. -/
def Instr.wf : Instr → Bool
  | .powerOn straps => wfStraps straps
  | .pinReset straps => wfStraps straps
  | .loadAttemptComplete acked bytes => wfRecord acked bytes
  | .loadBusTimeout bytes => wfRecord false bytes
  | .resetAll sender target scope straps =>
    wfSender sender && wfByte target && wfByte scope && scope != 2 && scope != 3 &&
      wfStraps straps
  | .resetMotion sender target => wfSender sender && wfByte target
  | .resetHeat sender target => wfSender sender && wfByte target
  | .beaconReceived sender p => wfSender sender && wfBeacon p
  | .peerAbsent station => wfPeer station
  | .windReceived sender cell level speed cause =>
    wfSender sender && wfByte cell && wfByte level && wfWord speed && wfByte cause
  | .lockSet sender target token _ => wfSender sender && wfByte target && wfWord token
  | .lockClear sender target token => wfSender sender && wfByte target && wfWord token
  | .lockNoticeReceived sender _ entries keys remotes =>
    wfSender sender && wfByte entries && wfByte keys && wfByte remotes
  | .call sender p => wfSender sender && wfCall p
  | .reply sender id verdict reason =>
    wfCompactFrame sender id && wfByte verdict && wfByte reason
  | .hold sender id => wfCompactFrame sender id
  | .resume sender id => wfCompactFrame sender id
  | .cancel sender id => wfCompactFrame sender id
  | .arrive sender id az el => wfCompactFrame sender id && wfSigned az && wfElevation el
  | .leave sender id reason => wfCompactFrame sender id && wfByte reason
  | .movePoint sender target purpose az el rate =>
    wfSender sender && wfByte target && wfByte purpose && purpose != 1 && purpose != 2 &&
      wfSigned az && wfTriple el && wfWord rate
  | .moveReferenceAz sender target => wfSender sender && wfByte target
  | .moveReferenceEl sender target => wfSender sender && wfByte target
  | .shareAsk sender amount => wfSender sender && wfByte amount
  | .shareGrant sender borrower amount expiry =>
    wfSender sender && wfByte borrower && wfByte amount && wfQuad expiry
  | .shareBack sender lender amount => wfSender sender && wfByte lender && wfByte amount
  | .inrush sender start zones => wfSender sender && wfTime start && wfByte zones
  | .queryIdent sender target item index =>
    wfQuery sender target index && wfByte item && !decide (2 ≤ item ∧ item ≤ 14)
  | .queryConfig sender target index => wfQuery sender target index
  | .queryDish sender target index _ => wfQuery sender target index
  | .queryLocks sender target index => wfQuery sender target index
  | .queryCompacts sender target index => wfQuery sender target index
  | .queryMembers sender target index => wfQuery sender target index
  | .queryLoans sender target index => wfQuery sender target index
  | .queryShares sender target index => wfQuery sender target index
  | .queryZones sender target index => wfQuery sender target index
  | .queryMelt sender target index => wfQuery sender target index
  | .queryCells sender target index => wfQuery sender target index
  | .queryScan sender target index => wfQuery sender target index
  | .queryFlags sender target index => wfQuery sender target index
  | .queryPeer sender target index => wfQuery sender target index
  | .clear sender target _ => wfSender sender && wfByte target
  | .eventReceived sender => wfSender sender
  | .answerReceived sender => wfSender sender
  | .cleanFrameVetoedElsewhere sender => wfSender sender
  | .keyInputChange key _ => wfKey key
  | .keyClosingCountEnd key => wfKey key
  | .keyOpeningCountEnd key => wfKey key
  | .compactStartTime id => wfWord id
  | .compactDeadline id => wfWord id
  | .compactRemoval id => wfWord id
  | .stowHoldExpiry cell => wfCell cell
  | .settleExpiry cell => wfCell cell
  | .dutyEnd zone => wfZone zone
  | .borrowedExpiry peer => wfPeer peer
  | .lentExpiry peer => wfPeer peer
  | .loanGraceEnd peer => wfPeer peer
  | .shareBackWithdrawal lender => wfPeer lender
  | _ => true

end Sys2Proof
end

