-- ==== Sys2Proof/Certificates/Slice0/Obligations.lean ====
section
/-! DEFINITION. The statements for the provers, by the chapters of the manual. -/

open Sys2Proof Sys2Proof.Machine

/-! ### The queue of commands and array time -/

/-- A step runs the command at the front of the queue on the rest of it. -/
def Obligations.StepRunsTheFrontCommand : Prop :=
  ∀ (i : Instr) (rest : List Instr) (s : State), s.pending = i :: rest →
    step s = exec i (s.withPending rest)

/-- With no command waiting, no instant already reached and the part not held, a step counts one
millisecond as R78 and R80 give; every run that is counting gains 1 and nothing else changes (R82),
and the events that the counts and array time have then reached are posted; a held part idles; an
instant already reached is posted first.  That an empty queue counts a millisecond, and posts what
it brings, is the model's choice (log 1, 3); the hold run of a cell without a STOW report is log
34. -/
def Obligations.EmptyQueueCountsAMillisecond : Prop :=
  ∀ s : State, s.pending = [] →
    (s.seq.held = true → step s = .next s) ∧
    (s.seq.held = false → dueInstants s ≠ [] →
      step s = .next (s.withPending (dueInstants s))) ∧
    (s.seq.held = false → dueInstants s = [] → ∃ t, step s = .next t ∧
      t.time.watch = min 1500 (s.time.watch + 1) ∧ t.time.free = s.time.free ∧
      (0 < s.time.hold →
        t.time.sec = s.time.sec ∧ t.time.ms = s.time.ms ∧ t.time.hold = s.time.hold - 1) ∧
      (s.time.hold = 0 → s.time.ms < 999 →
        t.time.sec = s.time.sec ∧ t.time.ms = s.time.ms + 1 ∧ t.time.hold = 0) ∧
      (s.time.hold = 0 → s.time.ms = 999 → s.time.sec < lastSecond →
        t.time.sec = s.time.sec + 1 ∧ t.time.ms = 0 ∧ t.time.hold = 0) ∧
      (s.time.hold = 0 → s.time.ms = 999 → s.time.sec = lastSecond →
        t.time.sec = s.time.sec ∧ t.time.ms = s.time.ms ∧ t.time.hold = 0) ∧
      t.pins = s.pins ∧ t.keepOut = s.keepOut ∧ t.lock.list = s.lock.list ∧
      t.axis.queue = s.axis.queue ∧ t.axis.motion = s.axis.motion ∧
      t.report.flags = s.report.flags ∧
      t.pending = dueRuns (tick s) ++ dueInstants (tick s) ∧
      t.seq = { s.seq with
        pauseRun := s.seq.pauseRun.map (· + 1)
        listenRun := if s.seq.station = .listen then s.seq.listenRun + 1 else s.seq.listenRun } ∧
      t.line = { s.line with
        quietRun := if s.line.quiet then s.line.quietRun + 1 else s.line.quietRun
        queue := s.line.queue.map fun e => { e with expiryRun := e.expiryRun.map (· + 1) } } ∧
      t.peers = { s.peers with
        beaconRun := s.peers.beaconRun.map (· + 1)
        table := s.peers.table.map fun e =>
          { e with silence := if e.present then min 1500 (e.silence + 1) else e.silence } } ∧
      t.axis = { s.axis with
        leg := s.axis.leg.map fun l => { l with run := l.run + 1 }
        stop := s.axis.stop.map fun x => { x with run := x.run + 1 }
        gapRun := if s.axis.motion = .gap then s.axis.gapRun + 1 else s.axis.gapRun } ∧
      t.lock = { s.lock with
        checkRun := s.lock.checkRun.map (· + 1)
        keys := s.lock.keys.map fun m => { m with
          run := if m.state = .closing ∨ m.state = .opening then m.run + 1 else m.run } } ∧
      t.compact = { s.compact with
        list := s.compact.list.map fun r =>
          { r with terminalRun := if isLive r then r.terminalRun else r.terminalRun + 1 } } ∧
      t.sensor = { s.sensor with
        scan := s.sensor.scan.map fun c => { c with run := c.run + 1 }
        sinceLatch := if s.sensor.latched then s.sensor.sinceLatch + 1 else s.sensor.sinceLatch
        calmRun := s.sensor.calmRun.map (· + 1)
        windRun := s.sensor.windRun.map (· + 1) } ∧
      t.wind = { s.wind with
        cells := s.wind.cells.map fun x => { x with
          holdRun := if (x.state = .stow ∨ x.lastStow.isSome = true) ∧ workingEntries x ≠ [] then
            x.holdRun + 1 else x.holdRun
          settleRun := if x.state = .settle then x.settleRun + 1 else x.settleRun } } ∧
      t.heater = { s.heater with
        zones := s.heater.zones.map fun z =>
          { z with onRun := if z.state = .on then z.onRun + 1 else z.onRun }
        stepRun := if s.heater.admitted ≠ 0 then s.heater.stepRun + 1 else s.heater.stepRun } ∧
      t.share = { s.share with
        askRun := s.share.askRun.map (· + 1)
        loans := s.share.loans.map fun e =>
          { e with graceRun := if e.grace then e.graceRun + 1 else e.graceRun } } ∧
      t.report = { s.report with
        lampRun := if s.wind.blocked then s.report.lampRun + 1 else s.report.lampRun })

/-- What `Inv` says of a state is kept by every step, the command at the front being well formed:
array time (R78, R79), the transmit queue and its counters (R65, R67, R68, R70), the Peer Table
(R83), the Move Queue, the motion records and the brakes (R3, R4, R5), the Lockout List (R32), the
Compact List (R91, R93), the Sensor Unit's counts and level (R121, R123, R129, R130), the Cell
Table (R135, R136), the Loan Table (R170) and the flag records (R189).  It has no clause for the
Keep-out Table, the Heater Unit, the Start-up Sequencer and the rest of the Share Account. -/
def Obligations.EveryStepKeepsTheInvariant : Prop :=
  ∀ s t : State, (∀ i rest, s.pending = i :: rest → i.wf = true) → Inv s → step s = .next t → Inv t

/-- `Inv` holds of the state after reset. -/
def Obligations.TheInvariantHoldsAtReset : Prop := Inv State.reset

/-- SECOND_PULSE lines the count up on the pulse (R79), and the next pulse returns a FREE source to
PULSED (R80); the seconds standing at their end is left to `Config.freeValue` (log 17) and is not
stated here.  The instants that a step of the seconds reaches are taken at that step, each as the
command of its event is (R82): those that `InstantReached` lists, in the order of `dueInstants`,
the model's choice (log 67).  Between two resets no step decreases array time. -/
def Obligations.ThePulseAlignsAndTimeNeverDecreases : Prop :=
  (∀ s : State, s.seq.held = false →
    (500 ≤ s.time.ms → s.time.sec < lastSecond → ∀ u : State,
      u = s.withTime { s.time with
        sec := s.time.sec + 1, ms := 0, hold := 0, watch := 0, free := false } →
      ∃ t, exec .secondPulse s = .next t ∧ t.time = u.time ∧
        RunsThrough (dueInstants u) u t ∧ (∀ i, i ∈ dueInstants u ↔ InstantReached u i) ∧
        (dueInstants u = [] → t = u)) ∧
    (s.time.ms < 500 →
      exec .secondPulse s = .next (s.withTime { s.time with
        hold := s.time.ms, watch := 0, free := false, holding := decide (0 < s.time.ms) }))) ∧
  ∀ s t : State, Inv s → (∀ i rest, s.pending = i :: rest → i.wf = true ∧ isRestart i = false) →
    step s = .next t → nowMs s ≤ nowMs t

/-- TIME_HOLD_ENDS ends a hold whose count has reached 0 (R79; the mark is the model's, log 28);
PULSE_WATCH_EXPIRY makes a PULSED source FREE and sets TIME_FREERUN with detail PULSE (R80); the
reference clock input that stops sets it with detail CLOCK, and resumes with no step in array time
(R78).  A flag so set from clear, as any that a block sets, queues an EVENT with its number, detail
and time where the report mask selects it and the station transmits: of class SAFETY, in a reserved
slot, for a fault-group flag, else ROUTINE; ID_CLASH, and a flag already set, queue none (R68,
R189, R190).  That the lowest free slot is taken is log 46. -/
def Obligations.TheTimeSourceIsWatched : Prop :=
  (∀ s : State, s.report.flags.length = 16 →
    (s.time.holding = true → s.time.hold = 0 →
      exec .timeHoldEnds s = .next (s.withTime { s.time with holding := false })) ∧
    (1500 ≤ s.time.watch → s.time.free = false → ∃ t, exec .pulseWatchExpiry s = .next t ∧
      t.time = { s.time with free := true } ∧
      flagRecord t flagTimeFreerun = ⟨true, 1, 0, now s⟩ ∧
      (∀ n, n ≠ flagTimeFreerun → flagRecord t n = flagRecord s n) ∧
      t.axis = s.axis ∧ t.lock = s.lock ∧ t.compact = s.compact ∧ t.sensor = s.sensor ∧
      t.wind = s.wind ∧ t.peers = s.peers ∧ t.pins = s.pins)) ∧
  (∀ s : State, s.report.flags.length = 16 →
    (s.pins.refclk = true → s.seq.held = false → ∃ t, exec .refclkStops s = .next t ∧
      t.pins = { s.pins with refclk := false } ∧ t.time = s.time ∧
      flagRecord t flagTimeFreerun = ⟨true, 2, 0, now s⟩ ∧
      (∀ n, n ≠ flagTimeFreerun → flagRecord t n = flagRecord s n) ∧
      t.axis = s.axis ∧ t.lock = s.lock ∧ t.compact = s.compact ∧ t.sensor = s.sensor ∧
      t.wind = s.wind ∧ t.peers = s.peers) ∧
    exec .refclkResumes s = .next (s.withPins { s.pins with refclk := true })) ∧
  (∀ (s : State) (n detail extra : Nat), n < 16 → s.report.flags.length = 16 →
    s.line.queue = [] → ∃ t, t = setFlag s n detail extra ∧
      (n = flagTimeFreerun → detail = 1 → extra = 0 → ∀ v : State,
        s = v.withTime { v.time with free := true } → 1500 ≤ v.time.watch →
        v.time.free = false → exec .pulseWatchExpiry v = .next t) ∧
      flagRecord t n = ⟨true, detail, extra, now s⟩ ∧
      (∀ k, k ≠ n → flagRecord t k = flagRecord s k) ∧
      (flagOn s n = false → transmits s = true → (reportMask s).getLsbD n = true →
        n ≠ flagIdClash →
        (t.line.queue.filter fun x => frameOwner x.frame == .report).map
            (fun x => (x.frame, x.started, x.slot)) =
          [(.event n detail (now s), false, if n ∈ [0, 1, 2, 3, 4, 5, 7, 8] then 8 else 0)]) ∧
      (flagOn s n = true ∨ transmits s = false ∨ (reportMask s).getLsbD n = false ∨
          n = flagIdClash →
        ∀ x ∈ t.line.queue, frameOwner x.frame ≠ .report))

/-! ### Start-up and resets -/

/-- POWER_ON and PIN_RESET restart the part: every block at the state its chapter gives after a
restarting reset, the straps read, the start cause recorded; the pin reset keeps the positions and
the remote lockouts, the power-on nothing, and a pin reset after a loss of the supply is a power-on
reset (R50, R181, R187).  TIME_FREERUN is set again where the reference clock is stopped (the
model's choice, log 30), and the next heater boundary is absent until READY (log 35).  RESET_HOLD
puts the part at the start of SAMPLE, held; that the retained storage stands meanwhile is the
model's choice (log 22).  Restarting, the amplifiers are disabled, the brakes engaged and the
contactors released (R3, R31, R152, R187). -/
def Obligations.RestartsBeginAnew : Prop :=
  (∀ (s : State) (x : Straps),
    exec (.powerOn x) s =
      .next (freerunIfStopped (restarted s .powerOn 0 x 0 0 [] FlagRecord.initial)) ∧
    (s.seq.supplyLost = false →
      exec (.pinReset x) s = .next (freerunIfStopped (restarted s .pin 0 x s.axis.posAz
        s.axis.posEl (s.lock.list.filter isRemote) FlagRecord.initial))) ∧
    (s.seq.supplyLost = true → exec (.pinReset x) s = exec (.powerOn x) s) ∧
    (∃ t, exec (.powerOn x) s = .next t ∧ amplifiersEnabled t = false ∧
      (∀ a, brakeEngaged t a = true) ∧ ∀ z, contactor t z = false)) ∧
  (∀ (s : State) (low : Bool),
    exec (.resetHold low) s = .next { s with
      seq := { SeqUnit.initial true (s.seq.supplyLost || low) s.seq.number s.seq.fastLine
        s.seq.cause s.seq.remoteSender with station := .sample }
      line := LineUnit.initial
      time := TimeUnit.initial
      peers := PeerUnit.initial
      axis := AxisUnit.initial s.axis.posAz s.axis.posEl
      lock := LockUnit.initial (s.lock.list.filter isRemote)
      keepOut := []
      compact := CompactUnit.initial
      sensor := SensorUnit.initial
      wind := WindUnit.initial
      heater := HeaterUnit.initial
      share := ShareUnit.initial
      report := ReportUnit.initial FlagRecord.initial } ∧
    ∃ t, exec (.resetHold low) s = .next t ∧ amplifiersEnabled t = false ∧
      (∀ a, brakeEngaged t a = true) ∧ ∀ z, contactor t z = false)

/-- A RESET of scope ALL from a console restarts the station it names, which keeps the positions,
the remote lockouts and the record of ID_CLASH and records the console; one that names another
station, or a scope the layout does not define, is only read, and so is a RESET of any scope from a
dish (R50, R187, R188, R189).  TIME_FREERUN with the reference clock stopped is log 30, the next
heater boundary log 35. -/
def Obligations.RemoteAllResetRestarts : Prop :=
  (∀ (s : State) (n target scope : Nat) (x : Straps), KnownDish s n →
    exec (.resetAll n target scope x) s = .next (frameRead s n) ∧
    exec (.resetMotion n target) s = .next (frameRead s n) ∧
    exec (.resetHeat n target) s = .next (frameRead s n)) ∧
  ∀ (s : State) (n target scope : Nat) (x : Straps), KnownConsole s n →
    (target = s.seq.number → scope = 1 →
      exec (.resetAll n target scope x) s = .next (freerunIfStopped (restarted s .remote n x
        s.axis.posAz s.axis.posEl (s.lock.list.filter isRemote) (flagRecord s flagIdClash)))) ∧
    (target ≠ s.seq.number ∨ scope ≠ 1 →
      exec (.resetAll n target scope x) s = .next (frameRead s n))

/-- A failed read attempt is followed by another after 10 ms; the third, and a record whose values
fail a requirement, enter FAULTED of kind CONFIG with the cause; CHECKING is counted and the first
BEACON is queued, alone where no flag is set and nothing waited (R36, R89, R90, R182, R183), the
amplifiers staying disabled (R186).  Which of several comparisons of one requirement fails first,
and so the offset, is the model's choice (log 24). -/
def Obligations.LoadFailures : Prop :=
  (∀ (s : State) (bytes : List Byte), s.seq.held = false → s.seq.station = .load →
    (s.seq.pauseRun = none → s.seq.failedAttempts + 1 < 3 →
      (∀ acked, acked = false ∨ bytes.length ≠ 143 ∨ recordCheck bytes = false →
        exec (.loadAttemptComplete acked bytes) s = .next (s.withSeq { s.seq with
          raw := asRead bytes, failedAttempts := s.seq.failedAttempts + 1
          pauseRun := some 0 })) ∧
      exec (.loadBusTimeout bytes) s = .next (s.withSeq { s.seq with
        raw := asRead bytes, failedAttempts := s.seq.failedAttempts + 1, pauseRun := some 0 })) ∧
    ∀ r, s.seq.pauseRun = some r → 10 ≤ r →
      exec .loadRetryPauseEnd s = .next (s.withSeq { s.seq with pauseRun := none })) ∧
  (∀ (s : State) (i : Instr) (bytes : List Byte) (cause : ConfigFault), s.seq.held = false →
    s.seq.station = .load → s.seq.pauseRun = none →
    (i = .loadAttemptComplete true bytes ∧ bytes.length = 143 ∧
        (recordCheck bytes = false ∧ s.seq.failedAttempts = 2 ∧ cause = .check ∨
          recordCheck bytes = true ∧
            ∃ k, validate bytes s.seq.number = some k ∧ cause = .value k) ∨
      s.seq.failedAttempts = 2 ∧ cause = .read ∧
        (i = .loadBusTimeout bytes ∨ i = .loadAttemptComplete false bytes)) →
    ∃ t, exec i s = .next t ∧
      t.seq.station = .faulted .config ∧ t.seq.configFault = some cause ∧
      t.seq.raw = asRead bytes ∧ t.seq.config = s.seq.config ∧
      t.lock = { s.lock with checkRun := some 0 } ∧
      t.peers = { s.peers with beaconRun := some 0 } ∧ t.time = s.time ∧ t.axis = s.axis ∧
      t.compact = s.compact ∧ t.sensor = s.sensor ∧ t.wind = s.wind ∧ t.report = s.report ∧
      amplifiersEnabled t = false ∧
      (s.line.queue = [] → (∀ n, flagOn s n = false) → ∀ b,
        b = buildBeacon (s.withSeq t.seq) →
        t.line.queue.map (fun x => (x.frame, x.started)) = [(.beacon b, false)] ∧
        b.stationState = 2 ∧ b.configFault = true ∧ b.mask = lockMask s ∧
        b.startFlag = decide (s.peers.startCount < 4)))

/-- A record read whole with a right check and no value at fault ends LOAD: the configuration is
taken, each key takes its configured scope and its entry with it, an entry of an unused key leaving
(R34), the Keep-out Table and the Zone Table are built, every zone OFF (R52, R164), CHECKING is
counted and the first scan begins in SELFCHECK (R36, R120, R182, R184), where the amplifiers are
enabled, unless an input puts the dish in HALTED, with the brakes still engaged (R3, R31, R184).
The readings that do are those `InputsClear` shuts out, each with its flag, and both elevation
limits mark the pair (R17, R31). -/
def Obligations.LoadSuccessEntersSelfcheck : Prop :=
  ∀ (s : State) (bytes : List Byte), s.seq.held = false → s.seq.station = .load →
    s.seq.pauseRun = none → bytes.length = 143 → recordCheck bytes = true →
    validate bytes s.seq.number = none →
    ∃ t, exec (.loadAttemptComplete true bytes) s = .next t ∧
      t.seq = { s.seq with station := .selfcheck, config := some (recordOf bytes), raw := bytes } ∧
      t.keepOut = (recordOf bytes).neighbours.map
        (fun k => ⟨k.station, k.azFrom, k.azTo, k.elMin, false⟩) ∧
      t.lock = { s.lock with
        checkRun := some 0
        keys := s.lock.keys.mapIdx fun i m =>
          { m with scope := (recordOf bytes).keyScopes.getD i Scope.none }
        list := (s.lock.list.map fun x => match x.holder with
          | .key k => { x with scope := (recordOf bytes).keyScopes.getD (k - 1) Scope.none }
          | .remote .. => x).filter fun x => isRemote x || !scopeEmpty x.scope } ∧
      t.sensor.scan.isSome = true ∧ t.sensor.latched = true ∧
      t.time = s.time ∧ t.pins = s.pins ∧ t.peers = s.peers ∧
      amplifiersEnabled t = decide (t.axis.motion ≠ .halted) ∧
      (s.axis.releasedAz = false → s.axis.releasedEl = false → ∀ a, brakeEngaged t a = true) ∧
      (s.heater = HeaterUnit.initial → t.heater = { HeaterUnit.initial with
        zones := (recordOf bytes).zoneShares.mapIdx fun i shares =>
          ⟨bit (recordOf bytes).zoneEnable i, shares, .off, none, 0, none⟩ }) ∧
      (InputsClear s → s.axis.motion = .idle → t.axis.motion = .idle) ∧
      (¬ InputsClear s → t.axis.motion = .halted) ∧
      (s.pins.elLower = true → s.pins.elUpper = true → t.axis.pairFaulted = true) ∧
      (s.report.flags.length = 16 →
        (s.pins.azLower = true ∨ s.pins.azUpper = true ∨ s.pins.elLower = true ∨
            s.pins.elUpper = true ∧ s.axis.refEl = true → flagOn t flagAxisLimit = true) ∧
        (s.pins.azFault = true ∨ s.pins.elFault = true → flagOn t flagDriveFault = true) ∧
        (s.pins.azValid = false ∨ s.pins.elValid = false → flagOn t flagEncoderFault = true))

/-- LISTEN ends after 1500 ms in READY (R180, R185): the BEACON with its start flag is queued, then
the kept answers to lockout frames and a LOCK_NOTICE, then the kept replies, answers to MOVEs and
answers to queries, and the first heater boundary is set, none before (log 35; R6, R41, R46, R89,
R94, R155, R192). Where nothing else is due (no leg, no warning, no flag, no sensor of its own,
every obeyed cell CALM with a working entry, no shortfall) and the frames fit, they are the whole
queue.  The order of the blocks is log 15, that of one block's frames log 72, and a
first boundary past the end of array time log 76. -/
def Obligations.ListenEndsInReady : Prop :=
  ∀ s : State, s.seq.station = .listen → 1500 ≤ s.seq.listenRun →
    (∃ t, exec .listenEnd s = .next t ∧ t.seq = { s.seq with station := .ready } ∧
      t.lock = { s.lock with pending := [] } ∧ t.report.pending = [] ∧
      t.peers = { s.peers with beaconRun := some 0 } ∧ t.time = s.time ∧ t.pins = s.pins ∧
      t.keepOut = s.keepOut) ∧
    (∀ u : State, u = (s.withSeq { s.seq with station := .ready }).withHeater { s.heater with
        nextBoundary := some ((s.time.sec / (cfg s).heaterPeriod + 1) * (cfg s).heaterPeriod) } →
      exec .listenEnd s = .next (reportReady (windReady (sensorReady (axisReady (compactReady
        (lockReady (queueBeacon u)))))))) ∧
    (s.seq.held = false → s.line.queue = [] → s.axis.motion = .idle → s.axis.queue = [] →
      warning s = false → (∀ n, flagOn s n = false) → (cfg s).sensor = false →
      (∀ c ∈ obeyed s, (cellAt s c).state = .calm ∧ workingEntries (cellAt s c) ≠ []) →
      shortfall s = 0 →
      s.lock.pending.length + s.compact.pending.length + s.axis.pendingAnswers.length +
        s.report.pending.length ≤ 7 →
      ∃ t b, exec .listenEnd s = .next t ∧
        b = buildBeacon (s.withSeq { s.seq with station := .ready }) ∧ b.stationState = 1 ∧
        b.startFlag = decide (s.peers.startCount < 4) ∧
        t.line.queue.map (·.frame) = .beacon b ::
          s.lock.pending.map (fun a => .answer a.console a.subject a.token a.outcome none) ++
          [lockNoticeFrame s] ++ s.compact.pending.map (fun id => .reply id 1 13) ++
          s.axis.pendingAnswers.map (fun a => .answer a.1 3 a.2 2 none) ++
          s.report.pending.map (fun q => .answer q.console q.subject q.key 2 none) ∧
        (∀ e ∈ t.line.queue, e.started = false) ∧
        t.heater = { s.heater with
          nextBoundary := some ((s.time.sec / (cfg s).heaterPeriod + 1) * (cfg s).heaterPeriod) } ∧
        t.axis = { s.axis with pendingAnswers := [] } ∧
        t.compact = { s.compact with pending := [] } ∧ t.share = s.share)

/-! ### The Array Line -/

/-- A block queues a frame: of a group that waits, in the waiting frame's place; else a COORD or
ROUTINE frame takes a free general slot, or the slot of the oldest unstarted ROUTINE frame that is
no ANSWER, or is refused; a SAFETY frame takes a free reserved slot, or a free general one, or,
where all 12 are occupied, the slot of the first frame in the order of R72, whose owner gives up the
claim where it is an INRUSH and has no room to queue any other again (R70, R71, R72, R177).  That of
several free slots the lowest is taken is the model's choice (log 46). -/
def Obligations.QueueingPlacesAFrame : Prop :=
  ∀ (s : State) (e : TxEntry), transmits s = true → LineOk s.line →
    (∀ old, s.line.groupMate e.frame = some old → enqueueEntry s e = s.withLine { s.line with
      queue := s.line.queue.map fun x =>
        if x.age == old.age then { x with frame := e.frame } else x }) ∧
    (s.line.groupMate e.frame = none → frameClass e.frame ≠ .safety →
      (∀ k, freeSlot s.line.queue 0 8 = some k → enqueueEntry s e = s.withLine { s.line with
        queue := s.line.queue ++
          [{ e with slot := k, age := s.line.nextAge, attempts := 0, started := false }]
        nextAge := s.line.nextAge + 1 }) ∧
      (freeSlot s.line.queue 0 8 = none →
        (∀ v, (s.line.queue.find? isDisplaceable) = some v →
          enqueueEntry s e = s.withLine { s.line with
            queue := (s.line.queue.filter fun x => x.age != v.age) ++
              [{ e with slot := v.slot, age := s.line.nextAge, attempts := 0, started := false }]
            nextAge := s.line.nextAge + 1 }) ∧
        ((s.line.queue.find? isDisplaceable) = none →
          (enqueueEntry s e).line = s.line))) ∧
    (s.line.groupMate e.frame = none → frameClass e.frame = .safety →
      ∀ k, (freeSlot s.line.queue 8 4 = some k ∨
          freeSlot s.line.queue 8 4 = none ∧ freeSlot s.line.queue 0 8 = some k) →
        enqueueEntry s e = s.withLine { s.line with
          queue := s.line.queue ++
            [{ e with slot := k, age := s.line.nextAge, attempts := 0, started := false }]
          nextAge := s.line.nextAge + 1 }) ∧
    (s.line.groupMate e.frame = none → frameClass e.frame = .safety →
      freeSlot s.line.queue 8 4 = none → freeSlot s.line.queue 0 8 = none →
      ∀ (v : TxEntry) (u : State), MakesRoom s.line v →
        u = s.withLine { s.line with
          queue := (s.line.queue.filter fun x => x.age != v.age) ++
            [{ e with slot := v.slot, age := s.line.nextAge, attempts := 0, started := false }]
          nextAge := s.line.nextAge + 1 } →
        ((∀ x z, v.frame ≠ .inrush x z) → enqueueEntry s e = u) ∧
        (∀ x z, v.frame = .inrush x z →
          enqueueEntry s e = u.withShare { s.share with claim := .none }))

/-- HAND_OVER takes the first frame in queue order.  A started frame that is no BEACON begins its
attempt as it is; an unstarted one is started as its owner leaves it: a BEACON built afresh, a
SHARE_GRANT with the amount and expiry of its start, an INRUSH with its window, any other as it is;
a started BEACON has its lock mask rewritten (R47, R69, R73, R90, R172, R177).  The start of a frame
that is no INRUSH changes no other entry of the queue and nothing of the Share Unit, but for what
R171 makes of the ask where a shortfall stands.  A SHARE_GRANT that may not be given, or of nothing,
and an INRUSH of no zone are withdrawn, and the next frame is taken (R172, R177).  An expiry past
the last array second is log 60, a window start past it log 61. -/
def Obligations.HandOverStartsTheFirstFrame : Prop :=
  ∀ (s : State) (p : Encoders) (e : TxEntry), LineOk s.line → mayHandOver s = true →
    firstInOrder s.line.queue = some e →
    (e.started = true → (∀ b, e.frame ≠ .beacon b) → exec (.handOver p) s = .next { s with
      axis := { s.axis with posAz := p.az, posEl := p.el }
      line := { s.line with sending := some e.age } }) ∧
    (e.started = false → ∀ f,
      (∀ b, e.frame = .beacon b → f = .beacon (buildBeacon (readEncoders s p))) →
      (∀ b a x, e.frame = .shareGrant b a x → mayGrant s b = true ∧ isPresent s b = true ∧
        min a (min e.stillWanted (spareShares s)) ≠ 0 ∧
        f = .shareGrant b (min a (min e.stillWanted (spareShares s)))
          (s.time.sec + (cfg s).loanTerm)) →
      (∀ w z, e.frame = .inrush w z →
        s.share.claimCount ≠ 0 ∧ f = .inrush (inrushStart s) s.share.claimCount) →
      ((∀ b, e.frame ≠ .beacon b) → (∀ b a x, e.frame ≠ .shareGrant b a x) →
        (∀ w z, e.frame ≠ .inrush w z) → f = e.frame) →
      ∃ t, exec (.handOver p) s = .next t ∧ t.line.sending = some e.age ∧
        { e with frame := f, started := true } ∈ t.line.queue ∧
        t.axis = { s.axis with posAz := p.az, posEl := p.el } ∧ t.compact = s.compact ∧
        t.lock = s.lock ∧ t.peers = s.peers ∧ t.time = s.time ∧ t.sensor = s.sensor ∧
        t.wind = s.wind ∧ t.report = s.report ∧
        ((∃ w z, e.frame = .inrush w z) → t.share.claim = .sent) ∧
        ((∀ w z, e.frame ≠ .inrush w z) → ∀ u : State, u = { s with
            axis := { s.axis with posAz := p.az, posEl := p.el }
            line := { s.line with
              queue := s.line.queue.map fun x =>
                if x.age == e.age then { x with frame := f, started := true } else x
              sending := some e.age } } →
          t = updateAsk u ∧
          (s.seq.station ≠ .ready → t = u) ∧
          (shortfall u = 0 → (∀ x ∈ u.line.queue, isAsk x = false ∨ x.started = true) → t = u))) ∧
    (∀ b, e.started = true → e.frame = .beacon b → exec (.handOver p) s = .next { s with
      axis := { s.axis with posAz := p.az, posEl := p.el }
      line := { s.line with
        queue := s.line.queue.map fun x =>
          if x.age == e.age then { x with frame := .beacon { b with mask := lockMask s } } else x
        sending := some e.age } }) ∧
    (e.started = false → ∀ u : State, u = s.withLine { s.line with
        queue := s.line.queue.filter fun x => x.age != e.age } →
      (∀ b a x, e.frame = .shareGrant b a x → mayGrant s b = false ∨ isPresent s b = false ∨
          min a (min e.stillWanted (spareShares s)) = 0 →
        exec (.handOver p) s = exec (.handOver p) u) ∧
      (∀ w z, e.frame = .inrush w z → s.share.claimCount = 0 →
        exec (.handOver p) s =
          exec (.handOver p) (u.withShare { s.share with claim := .none })))

/-- ATTEMPT_SUCCEEDS frees the frame's slot and lowers the transmit error counter by 1, not below 0;
a BEACON with the start flag is counted (R67, R69, R89); of the other kinds, those whose completion
acts on no block change nothing more (R75).  ARBITRATION_LOST counts no attempt and changes no
counter; the frame stays in its slot (R63). -/
def Obligations.AttemptsEnd : Prop :=
  (∀ (s : State) (e : TxEntry), sendingEntry s = some e →
    (isPlain e.frame = true → exec .attemptSucceeds s = .next (s.withLine { s.line with
      queue := s.line.queue.filter fun x => x.age != e.age
      sending := none, txErrors := s.line.txErrors - 1 })) ∧
    ∀ b, e.frame = .beacon b → exec .attemptSucceeds s = .next { s with
      line := { s.line with
        queue := s.line.queue.filter fun x => x.age != e.age
        sending := none, txErrors := s.line.txErrors - 1 }
      peers := { s.peers with startCount :=
        if b.startFlag then min 4 (s.peers.startCount + 1) else s.peers.startCount } }) ∧
  (∀ s : State, exec .arbitrationLost s = .next (s.withLine { s.line with sending := none }))

/-- FAILED_ATTEMPT raises the attempt count and the transmit error counter by 1; a COORD or ROUTINE
frame is dropped at its 8th, a SAFETY frame never; at 64 the transmit state becomes QUIET with
LINE_FAULT, detail QUIET, the attempt being counted against its frame first (R66, R67).  Of the
dropped frames a HOLD, RESUME, ARRIVE, or LEAVE whose record stands is queued once more, unless it
had been (R102, R107, R112), and the claim of an INRUSH is made anew (R177).  In QUIET no frame is
handed over; QUIET_END, 2000 ms after the entry, returns the state to ACTIVE with the counter at 32
(R67), and before that, or in ACTIVE, changes nothing (log 2).  That a frame queued once more, and
the INRUSH of a claim made anew, take the lowest free slot is log 46. -/
def Obligations.AFailedAttemptIsCounted : Prop :=
  (∀ s : State,
    (s.line.quiet = true → 2000 ≤ s.line.quietRun → exec .quietEnd s = .next (s.withLine
      { s.line with quiet := false, quietRun := 0, txErrors := 32 })) ∧
    (s.line.quiet = false ∨ s.line.quietRun < 2000 → exec .quietEnd s = .next s) ∧
    (s.line.quiet = true → ∀ p, exec (.handOver p) s = .next s)) ∧
  ∀ (s : State) (e : TxEntry), sendingEntry s = some e →
    (frameClass e.frame = .safety ∨ e.attempts + 1 < 8 →
      (s.line.txErrors < 63 → exec .failedAttempt s = .next (s.withLine { s.line with
        queue := s.line.queue.map fun x =>
          if x.age == e.age then { x with attempts := x.attempts + 1 } else x
        sending := none, txErrors := s.line.txErrors + 1 })) ∧
      (s.line.txErrors = 63 → s.line.quiet = false → s.report.flags.length = 16 →
        ∃ t, exec .failedAttempt s = .next t ∧ t.line.quiet = true ∧ t.line.quietRun = 0 ∧
          t.line.txErrors = 64 ∧ t.line.sending = none ∧
          flagRecord t flagLineFault = ⟨true, 2, 0, now s⟩ ∧
          (∀ n, n ≠ flagLineFault → flagRecord t n = flagRecord s n) ∧ t.axis = s.axis ∧
          t.lock = s.lock ∧ t.compact = s.compact ∧ t.sensor = s.sensor ∧ t.time = s.time)) ∧
    (frameClass e.frame ≠ .safety → 8 ≤ e.attempts + 1 → ∀ u v w : State,
      u = s.withLine { s.line with sending := none, txErrors := s.line.txErrors + 1 } →
      v = s.withLine { s.line with
        queue := s.line.queue.filter fun x => x.age != e.age
        sending := none, txErrors := s.line.txErrors + 1 } →
      FollowUp s e v w →
      (s.line.txErrors < 63 → exec .failedAttempt s = .next (settlePower u w)) ∧
      (s.line.txErrors = 63 → s.line.quiet = false → s.report.flags.length = 16 →
        ∃ t, exec .failedAttempt s = .next t ∧
          t = setFlag ((settlePower u w).withLine { (settlePower u w).line with
            quiet := true, quietRun := 0 }) flagLineFault 2 0 ∧
          t.line.quiet = true ∧ t.line.quietRun = 0 ∧ t.line.txErrors = 64 ∧
          t.line.sending = none ∧ flagRecord t flagLineFault = ⟨true, 2, 0, now s⟩ ∧
          (∀ n, n ≠ flagLineFault → flagRecord t n = flagRecord s n)))

/-- FRAME_VETOED raises the veto counter by 1 and, at the 8th in a row, makes the receive state
PASSIVE with LINE_FAULT, detail RECEIVE; a frame read without fault returns the counter to 0 and
the state to VETOING, though another station vetoes it (R65).  A PASSIVE station, and one whose
state R61 shuts out of the veto slot, counts none. -/
def Obligations.VetoesAreCounted : Prop :=
  ∀ s : State,
    (∀ raw, s.line.passive = true ∨ vetoes s = false → exec (.frameVetoed raw) s = .next s) ∧
    (∀ raw, vetoes s = true → formatFault raw = true → s.line.passive = false →
      (s.line.vetoCount + 1 < 8 → exec (.frameVetoed raw) s = .next (s.withLine
        { s.line with vetoCount := s.line.vetoCount + 1 })) ∧
      (s.line.vetoCount = 7 → s.report.flags.length = 16 →
        ∃ t, exec (.frameVetoed raw) s = .next t ∧ t.line.vetoCount = 8 ∧ t.line.passive = true ∧
          flagRecord t flagLineFault = ⟨true, 1, 0, now s⟩ ∧
          (∀ n, n ≠ flagLineFault → flagRecord t n = flagRecord s n) ∧ t.axis = s.axis ∧
          t.lock = s.lock ∧ t.compact = s.compact ∧ t.peers = s.peers ∧ t.time = s.time)) ∧
    (∀ n, receives s = true → exec (.cleanFrameVetoedElsewhere n) s = .next (s.withLine
      { s.line with vetoCount := 0, passive := false }))

/-- Every well-formed command that a frame gives is read back, with every operand, from the bytes
of its frame (4.2, 4.10, R62); EVENT and ANSWER, of which only the sender is taken (R74), are no
part of it.  The bits of a BEACON that no field has are log 66. -/
def Obligations.FramesCarryTheirCommands : Prop :=
  ∀ (i : Instr) (raw : RawFrame), i.wf = true → commandFrame i = some raw →
    formatFault raw = false ∧ ∃ straps at_, frameCommand straps at_ raw = some i

/-! ### The Peer Table -/

/-- EVENT_RECEIVED and ANSWER_RECEIVED from a PRESENT station record its last frame and nothing else
(R74, R84).  A frame of an ABSENT station makes it PRESENT; one heard before is a return, which sets
the restart-seen mark (R84); then the frame is delivered as one of a PRESENT station is (R74).  A
station that does not receive takes no frame (R61).  A return drops the loans with a dish, with
LOAN_LOST, makes it LEFT(ABSENT), if it has neither ARRIVED nor left, in every record that is live,
and has its entry in the cell it last named work again, its levels absent, so that it releases no
cell (R87, R110, R137, R175; that the cells are judged once, after both notices, is log 75); the
first frame of a station that has named no cell changes none of these (R84). -/
def Obligations.FramesRecordTheirSender : Prop :=
  (∀ (s : State) (n : Nat), Known s n →
    exec (.eventReceived n) s = .next (frameRead s n) ∧
    exec (.answerReceived n) s = .next (frameRead s n)) ∧
  (∀ (s : State) (n : Nat), receives s = true → 1 ≤ n → n ≤ 63 → n ≠ s.seq.number →
    PeersOk s.peers → isPresent s n = false →
    ∃ t, exec (.eventReceived n) s = .next t ∧
      peerEntry t n = { peerEntry s n with
        present := true, lastHeard := some (now s), silence := 0
        restartSeen := (peerEntry s n).restartSeen || (peerEntry s n).lastHeard.isSome } ∧
      (∀ m, m ≠ n → peerEntry t m = peerEntry s m) ∧ t.time = s.time ∧ t.lock = s.lock ∧
      t.seq = s.seq ∧ t.keepOut = s.keepOut ∧
      (∀ i, (framePayload i).map (·.1) = some n → exec i s = exec i t) ∧
      ((peerEntry s n).lastHeard = none → lastNamed s n = none →
        t.share = s.share ∧ t.compact = s.compact ∧ t.wind = s.wind ∧ t.heater = s.heater ∧
        t.axis = s.axis ∧ t.report = s.report ∧ t.line = (frameRead s n).line) ∧
      ((peerEntry s n).lastHeard.isSome = true →
        (isDish n = true → LoansOk s.share → (∀ e ∈ t.share.loans, e.peer ≠ n) ∧
          (s.report.flags.length = 16 → (∃ e ∈ s.share.loans, e.peer = n) →
            flagRecord t flagLoanLost = ⟨true, n, 0, now s⟩)) ∧
        (isDish n = true → CompactOk s.compact → ∀ id r m,
          findRecord s id = some r → isLive r = true → memberState r n = some m →
          mayLeave m = true →
          ∃ r', findRecord t id = some r' ∧ memberState r' n = some (.left 17)) ∧
        (∀ x ∈ t.wind.cells, ∀ e ∈ x.roster, e.station = n → e.level = none) ∧
        (∀ c e, lastNamed s n = some c → e ∈ (cellAt s c).roster → e.station = n →
          e.status ≠ .faulted → (cellAt t c).state = (cellAt s c).state ∧
          ∃ x ∈ (cellAt t c).roster, x.station = n ∧ x.working = true))) ∧
  (∀ (s : State) (i : Instr) (n : Nat), receives s = false →
    ((framePayload i).map (·.1) = some n ∨ i = .eventReceived n ∨ i = .answerReceived n) →
    exec i s = .next s)

/-- A frame that bears the own number puts a station in FAULTED of kind CLASH from LISTEN on (R76):
the queue is emptied and ID_CLASH set, the dish makes a controlled stop (R29), the compacts go
(R118), with COMPACT_FAILED set where a live one held the own state ACCEPTED, its extra the id of
such a one (R116, R189; which of several, and the detail, is log 16 and not stated), the zones are
OFF (R164), every loan is dropped and no claim is made (R179), the one held being NONE at once (log
41), the amplifiers stay enabled but in HALTED (R3); the lockouts stand; then the frame is taken as
one from another station (R74, R76).  A clash found in LISTEN judges the obeyed cells: where one
calls for a stow, the stow-ordered mark is set and the one stow order leaves the dish at rest with
the STOW entry waiting (R21, R29, R147; its azimuth is log 54), and where none does the axes are as
in the other states. -/
def Obligations.TheOwnNumberOnTheLineIsAClash : Prop :=
  ∀ s : State, s.seq.station = .ready ∨ s.seq.station = .listen ∨
      s.seq.station = .faulted .config → s.seq.held = false → 1 ≤ s.seq.number →
    s.seq.number ≤ 59 →
    ∃ t, exec (.answerReceived s.seq.number) s = .next t ∧
      t.seq = { s.seq with station := .faulted .clash } ∧ t.peers.beaconRun = none ∧
      t.peers.table = s.peers.table ∧ t.compact.list = [] ∧ t.lock = s.lock ∧ t.time = s.time ∧
      t.sensor = s.sensor ∧ t.keepOut = s.keepOut ∧
      t.line.queue = [] ∧ t.line.sending = none ∧
      (s.report.flags.length = 16 → flagRecord t flagIdClash = ⟨true, 0, 0, now s⟩) ∧
      (liveAccepted s = [] → flagRecord t flagCompactFailed = flagRecord s flagCompactFailed) ∧
      (s.report.flags.length = 16 → liveAccepted s ≠ [] → ∃ d, ∃ id ∈ liveAccepted s,
        flagRecord t flagCompactFailed = ⟨true, d, id, now s⟩) ∧
      t.heater.zones = s.heater.zones.map (zoneOff .reset) ∧ t.heater.claims = [] ∧
      t.heater.onOrder = [] ∧ t.share.claim = .none ∧ (LoansOk s.share → t.share.loans = []) ∧
      amplifiersEnabled t = decide (s.axis.motion ≠ .halted) ∧
      (s.seq.station ≠ .listen ∨ NoStowDue s → t.wind.ordered = s.wind.ordered ∧
        (s.axis.motion = .leg ∨ s.axis.motion = .gap ∨ s.axis.motion = .stowing →
          t.axis = flushed (stopping s.axis .clash)) ∧
        (∀ x, s.axis.motion = .stopping → s.axis.stop = some x → t.axis = flushed { s.axis with
          stop := some { x with
            reasons := if .clash ∈ x.reasons then x.reasons else x.reasons ++ [.clash] } }) ∧
        (s.axis.motion = .idle ∨ s.axis.motion = .stowed ∨ s.axis.motion = .halted →
          t.axis = flushed s.axis)) ∧
      (s.seq.station = .listen → StowDue s →
        t.wind.ordered = true ∧ t.compact.stowMark = true ∧ t.axis.stowMark = true ∧
        (s.axis.stowMark = false → s.axis.motion = .idle ∨ s.axis.motion = .halted →
          t.axis = { flushed s.axis with stowMark := true, queue := [stowEntry s] })) ∧
      ∀ i, (framePayload i).map (·.1) = some s.seq.number → exec i s = exec i t

/-- A BEACON of a PRESENT station whose fields the layout defines: higher seconds are adopted, and
the instants they reach are taken at once, before the rest of the BEACON (R81, R82, R86; the order
of the owners, and that they come before that rest, is log 67); its contents are recorded, the
restart-seen mark follows the start flag; of a dish, the lock mask is recorded and passed to the
Keep-out Table (R53, R81, R84, R86, R88).  A start flag not seen before drops the loans with the
dish and makes it LEFT(ABSENT) in every live record (R86, R87, R110, R175).  Of a dish with the
sensor role, the status and a new level are taken by its cell as a level report; of one without it,
its roster entries go (R137, R139).  Another BEACON is only read. -/
def Obligations.ABeaconIsRecorded : Prop :=
  ∀ (s : State) (n : Nat) (p : BeaconPayload), Known s n →
    (beaconDefined p = false → exec (.beaconReceived n p) s = .next (frameRead s n)) ∧
    (beaconDefined p = true → ∃ v t, exec (.beaconReceived n p) s = .next t ∧
      (p.sec ≤ s.time.sec → v = frameRead s n) ∧
      (s.time.sec < p.sec → ∀ u : State,
        u = (frameRead s n).withTime { s.time with sec := p.sec } →
        RunsThrough (dueInstants u) u v ∧ ∀ i, i ∈ dueInstants u ↔ InstantReached u i) ∧
      t.time = { s.time with sec := max s.time.sec p.sec } ∧
      peerEntry t n = { peerEntry s n with
        present := true, lastHeard := some (now s), silence := 0, restartSeen := p.startFlag
        beacon := some p
        mask := if isDish n then some p.mask else (peerEntry s n).mask } ∧
      (∀ m, m ≠ n → peerEntry t m = peerEntry s m) ∧
      t.keepOut = (if isDish n then s.keepOut.map fun k =>
        if k.station == n then { k with inForce := scopeMotion p.mask } else k else s.keepOut) ∧
      t.lock = s.lock ∧ t.seq = s.seq ∧ t.pins = s.pins ∧
      (isDish n = true → p.startFlag = true → (peerEntry s n).restartSeen = false →
        (LoansOk s.share → ∀ e ∈ t.share.loans, e.peer ≠ n) ∧
        (CompactOk s.compact → ∀ id r m, findRecord v id = some r → isLive r = true →
          memberState r n = some m → mayLeave m = true →
          ∃ r', findRecord t id = some r' ∧ memberState r' n = some (.left 17))) ∧
      (isDish n = true → WindOk s.wind →
        (p.sensorRole = false → ∀ x ∈ t.wind.cells, ∀ e ∈ x.roster, e.station = n →
          e.working = false ∧ e.level = none) ∧
        (p.sensorRole = true → p.cell ≤ 7 →
          inRoster s p.cell n = true ∨ (cellAt s p.cell).roster.length < 8 → ∀ lv st,
          levelOf p.windLevel = some lv → statusOf p.sensorStatus = some st →
          (∃ e ∈ (cellAt t p.cell).roster, e.station = n ∧ e.status = st ∧
            e.working = decide (st ≠ .faulted) ∧ (st ≠ .faulted → e.level = some lv)) ∧
          (∀ d, d ≠ p.cell → ∀ e ∈ (cellAt t d).roster, e.station = n →
            e.working = false ∧ e.level = none) ∧
          (st ≠ .faulted → lv = .stow → entryLevel s p.cell n ≠ some .stow →
            (cellAt t p.cell).state = .stow ∧ (cellAt t p.cell).holdRun = 0 ∧
            (cellAt t p.cell).lastStow = some (now t)))))

/-- A LOCK_NOTICE of a dish gives its lock mask to the Peer Table and the Keep-out Table; a change
of the table stops a leg in flight whose whole sweep meets a sector in force, with KEEP_OUT_STOP
and the queue flushed (R26, R59), and nothing else of the axes changes; one whose counts the layout
does not define, or of a console, is only read (R53, R74, R88).  The sweep of a target within the
tolerance is log 62. -/
def Obligations.ALockNoticeIsRecorded : Prop :=
  ∀ (s : State) (n entries keys remotes : Nat) (m : Scope), Known s n →
    (isConsole n = true ∨ 8 < entries ∨ 4 < keys ∨ 4 < remotes →
      exec (.lockNoticeReceived n m entries keys remotes) s = .next (frameRead s n)) ∧
    (isConsole n = false → entries ≤ 8 → keys ≤ 4 → remotes ≤ 4 →
      ∃ t, exec (.lockNoticeReceived n m entries keys remotes) s = .next t ∧
        peerEntry t n = { peerEntry s n with
          lastHeard := some (now s), silence := 0, mask := some m } ∧
        (∀ k, k ≠ n → peerEntry t k = peerEntry s k) ∧
        t.keepOut = (s.keepOut.map fun k =>
          if k.station == n then { k with inForce := scopeMotion m } else k) ∧
        t.lock = s.lock ∧ t.seq = s.seq ∧ t.time = s.time ∧
        (∀ k, k = s.keepOut.map (fun x =>
            if x.station == n then { x with inForce := scopeMotion m } else x) →
          (k = s.keepOut ∨ s.axis.motion ≠ .leg → t.axis = s.axis) ∧
          (∀ l, k ≠ s.keepOut → s.axis.motion = .leg → s.axis.leg = some l →
            (sweepTest (s.withKeepOut k) (legSweep s l) = [] → t.axis = s.axis) ∧
            (∀ b rest, sweepTest (s.withKeepOut k) (legSweep s l) = b :: rest →
              t.axis = flushed (stopping s.axis .keepOut) ∧
              (s.report.flags.length = 16 →
                flagRecord t flagKeepOutStop = ⟨true, 2, b, now s⟩)))))

/-- PEER_ABSENT: an entry whose silence has reached 1500 becomes ABSENT and keeps the rest; loans
with a dish are dropped with LOAN_LOST, it is LEFT(ABSENT) in every live record, and its roster
entries do not work (R85, R87, R110, R137, R175).  250 counted
milliseconds after the last, an own BEACON is queued with the state as it stands, the encoders
read, and its interval begins again (R89, R90). -/
def Obligations.PresenceAndBeaconsAreTimed : Prop :=
  (∀ (s : State) (n : Nat), PeersOk s.peers → LoansOk s.share → (peerEntry s n).present = true →
    1500 ≤ (peerEntry s n).silence →
    ∃ t, exec (.peerAbsent n) s = .next t ∧
      peerEntry t n = { peerEntry s n with present := false } ∧
      (∀ m, m ≠ n → peerEntry t m = peerEntry s m) ∧
      (isDish n = true → ∀ e ∈ t.share.loans, e.peer ≠ n) ∧
      (∀ x ∈ t.wind.cells, ∀ e ∈ x.roster, e.station = n → e.working = false) ∧
      (isDish n = true → s.report.flags.length = 16 → (∃ e ∈ s.share.loans, e.peer = n) →
        flagRecord t flagLoanLost = ⟨true, n, 0, now s⟩) ∧
      (isDish n = true → n ≠ s.seq.number → CompactOk s.compact → ∀ id r m,
        findRecord s id = some r → isLive r = true → memberState r n = some m →
        mayLeave m = true →
        ∃ r', findRecord t id = some r' ∧ memberState r' n = some (.left 17)) ∧
      t.time = s.time ∧ t.lock = s.lock ∧ t.seq = s.seq ∧ t.keepOut = s.keepOut ∧
      t.sensor = s.sensor) ∧
  (∀ (s : State) (p : Encoders) (r : Nat), s.peers.beaconRun = some r → 250 ≤ r →
    transmits s = true →
    exec (.beaconInterval p) s = .next ((queueFrame
      (s.withAxis { s.axis with posAz := p.az, posEl := p.el })
      (.beacon (buildBeacon (s.withAxis { s.axis with posAz := p.az, posEl := p.el })))).withPeers
        { s.peers with beaconRun := some 0 }))

/-! ### Lockouts and keys -/

/-- LOCK_SET and LOCK_CLEAR of this station, taken in order (R38, R39, R40): from a dish,
NOT_CONSOLE; a LOCK_SET of no part or token 0, BAD_SCOPE; of a token held, DUPLICATE; with four
remote entries, FULL; a LOCK_CLEAR of a token not held, NO_SUCH_TOKEN, the list unchanged by each;
else the entry joins at the end, or leaves, any change of the mask is notified, and the ANSWER of
outcome OK is queued, the LOCK_NOTICE of the change first (the model's choice, log 65).  A compact
that the station flies is left with reason LOCK where AZ or EL is new in the mask, and one in
FORMING stays (R43, R111).  Where the mask stays the same nothing else happens but the ANSWER.  A
mask that gains HEAT puts every zone OFF with cause LOCK (R44, R163), whatever leg the same change
starts or stops.  In LISTEN every outcome, of failure too, is kept, up to eight (R41). -/
def Obligations.RemoteLocksAreSetAndCleared : Prop :=
  ∀ (s : State) (n token : Nat) (m : Scope), Known s n →
    (∀ target, target ≠ s.seq.number →
      exec (.lockSet n target token m) s = .next (frameRead s n) ∧
      exec (.lockClear n target token) s = .next (frameRead s n)) ∧
    (s.seq.station ≠ .listen →
      (isConsole n = false →
        exec (.lockSet n s.seq.number token m) s = .next (answered s n 4 token 6 none) ∧
        exec (.lockClear n s.seq.number token) s = .next (answered s n 5 token 6 none)) ∧
      (isConsole n = true →
        (scopeEmpty m = true ∨ token = 0 →
          exec (.lockSet n s.seq.number token m) s = .next (answered s n 4 token 7 none)) ∧
        (scopeEmpty m = false → token ≠ 0 → s.lock.list.any (hasToken token) = true →
          exec (.lockSet n s.seq.number token m) s = .next (answered s n 4 token 4 none)) ∧
        (scopeEmpty m = false → token ≠ 0 → s.lock.list.any (hasToken token) = false →
          4 ≤ (s.lock.list.filter isRemote).length →
          exec (.lockSet n s.seq.number token m) s = .next (answered s n 4 token 3 none)) ∧
        (s.lock.list.any (hasToken token) = false →
          exec (.lockClear n s.seq.number token) s = .next (answered s n 5 token 5 none)))) ∧
    (s.seq.station = .listen → ∀ (o : Nat) (kept : Nat → State),
      (∀ subject, kept subject = if s.lock.pending.length < 8 then (frameRead s n).withLock
        { s.lock with pending := s.lock.pending ++ [⟨n, subject, token, o⟩] } else frameRead s n) →
      (o = (if isConsole n = false then 6 else if scopeEmpty m = true ∨ token = 0 then 7
          else if s.lock.list.any (hasToken token) then 4
          else if 4 ≤ (s.lock.list.filter isRemote).length then 3 else 0) → o ≠ 0 →
        exec (.lockSet n s.seq.number token m) s = .next (kept 4)) ∧
      (o = (if isConsole n = false then 6 else 5) →
        isConsole n = false ∨ s.lock.list.any (hasToken token) = false →
        exec (.lockClear n s.seq.number token) s = .next (kept 5))) ∧
    (isConsole n = true → scopeEmpty m = false → token ≠ 0 →
      s.lock.list.any (hasToken token) = false → (s.lock.list.filter isRemote).length < 4 →
      ∃ t, exec (.lockSet n s.seq.number token m) s = .next t ∧
        t.lock.list = s.lock.list ++ [⟨.remote token n, m, now s⟩] ∧
        t.lock.keys = s.lock.keys ∧
        t.lock.pending = (if s.seq.station = .listen ∧ s.lock.pending.length < 8 then
          s.lock.pending ++ [⟨n, 4, token, 0⟩] else s.lock.pending) ∧
        t.peers = (frameRead s n).peers ∧ t.time = s.time ∧ t.sensor = s.sensor ∧
        t.keepOut = s.keepOut ∧ t.wind.cells = s.wind.cells ∧
        (scopeUnion (lockMask s) m = lockMask s → s.seq.station ≠ .listen →
          t = queueFrame ((frameRead s n).withLock
            { s.lock with list := s.lock.list ++ [⟨.remote token n, m, now s⟩] })
            (.answer n 4 token 0 none)) ∧
        (s.axis.motion = .leg → (m.az && !(lockMask s).az || m.el && !(lockMask s).el) = true →
          t.axis = flushed (stopping s.axis .lock)) ∧
        ((m.az && !(lockMask s).az || m.el && !(lockMask s).el) = true →
          (∀ r, FliesAlone s r → LeftBy s t r reasonLock) ∧
          (s.axis.queue = [] → (∀ r ∈ s.compact.list, r.state = .forming) →
            t.compact = s.compact)) ∧
        (s.seq.station ≠ .listen → t = queueFrame (setLockList (frameRead s n)
          (s.lock.list ++ [⟨.remote token n, m, now s⟩])) (.answer n 4 token 0 none)) ∧
        (m.heat = true → (lockMask s).heat = false →
          t.heater.claims = [] ∧ t.heater.onOrder = [] ∧
          t.heater.zones.length = s.heater.zones.length ∧
          (s.axis.queue = [] → t.heater.zones = s.heater.zones.map (zoneOff .lock)) ∧
          ∀ (i : Nat) (z : Zone), s.heater.zones[i]? = some z → ∃ x, t.heater.zones[i]? = some x ∧
            x.enable = z.enable ∧ x.shares = z.shares ∧ x.state = .off ∧
            (z.state ≠ .off → x = { z with
              state := .off, switchedAt := none, onRun := 0, lastCause := some .lock }))) ∧
    (isConsole n = true → s.lock.list.any (hasToken token) = true →
      ∃ t, exec (.lockClear n s.seq.number token) s = .next t ∧
        t.lock.list = s.lock.list.filter (fun e => !hasToken token e) ∧
        t.lock.keys = s.lock.keys ∧ t.peers = (frameRead s n).peers ∧ t.time = s.time ∧
        t.sensor = s.sensor ∧ t.keepOut = s.keepOut ∧ t.wind.cells = s.wind.cells ∧
        t.lock.pending = (if s.seq.station = .listen ∧ s.lock.pending.length < 8 then
          s.lock.pending ++ [⟨n, 5, token, 0⟩] else s.lock.pending) ∧
        (s.seq.station ≠ .listen → t = queueFrame (setLockList (frameRead s n)
          (s.lock.list.filter fun e => !hasToken token e)) (.answer n 5 token 0 none)))

/-- A key's reading moves its machine and begins its count (R35): OPEN to CLOSING, CLOSING back to
OPEN, CLOSED to OPENING, OPENING back to CLOSED; CHECKING, and a reading that is no change, move
nothing.  A key closed for 50 ms enters CLOSED and its entry joins the list; one open for 500 ms
enters OPEN and its entry leaves; an unused key has no entry (R34, R37). -/
def Obligations.KeysAreDebounced : Prop :=
  (∀ (s : State) (k : Nat) (closed : Bool), 1 ≤ k → k ≤ 4 → s.seq.held = false →
    (keyReading s k = closed → exec (.keyInputChange k closed) s = .next s) ∧
    (keyReading s k ≠ closed →
      ∀ t, t = s.withPins { s.pins with keys := s.pins.keys.set (k - 1) closed } →
        (∀ st, ((keyMachine s k).state = .opened ∧ closed = true ∧ st = .closing ∨
            (keyMachine s k).state = .closing ∧ closed = false ∧ st = .opened ∨
            (keyMachine s k).state = .closed ∧ closed = false ∧ st = .opening ∨
            (keyMachine s k).state = .opening ∧ closed = true ∧ st = .closed) →
          exec (.keyInputChange k closed) s = .next (t.withLock { s.lock with
            keys := s.lock.keys.modify (k - 1) fun m => { m with state := st, run := 0 } })) ∧
        ((keyMachine s k).state = .checking → exec (.keyInputChange k closed) s = .next t))) ∧
  (∀ (s : State) (k : Nat), 1 ≤ k → k ≤ 4 → s.lock.keys.length = 4 →
    ((keyMachine s k).state = .closing → 50 ≤ (keyMachine s k).run →
      ∃ t, exec (.keyClosingCountEnd k) s = .next t ∧
        t.lock = { s.lock with
          keys := s.lock.keys.modify (k - 1) fun m => { m with state := .closed, run := 0 }
          list := if scopeEmpty (keyMachine s k).scope then s.lock.list
            else s.lock.list ++ [⟨.key k, (keyMachine s k).scope, now s⟩] } ∧
        t.pins = s.pins ∧ t.seq = s.seq ∧ t.time = s.time ∧ t.peers = s.peers ∧
        t.sensor = s.sensor ∧ t.keepOut = s.keepOut ∧ t.wind.cells = s.wind.cells) ∧
    ((keyMachine s k).state = .opening → 500 ≤ (keyMachine s k).run →
      ∃ t, exec (.keyOpeningCountEnd k) s = .next t ∧
        t.lock = { s.lock with
          keys := s.lock.keys.modify (k - 1) fun m => { m with state := .opened, run := 0 }
          list := s.lock.list.filter fun e => !isKeyEntry k e } ∧
        t.pins = s.pins ∧ t.seq = s.seq ∧ t.time = s.time ∧ t.peers = s.peers ∧
        t.sensor = s.sensor ∧ t.keepOut = s.keepOut ∧ t.wind.cells = s.wind.cells))

/-- CHECKING ends 500 ms after LOAD: each key read closed enters CLOSED and keeps its entry and the
entry's place, each read open enters OPEN and its entry leaves (R36). -/
def Obligations.CheckingEndsByTheReadings : Prop :=
  ∀ (s : State) (r : Nat), s.lock.checkRun = some r → 500 ≤ r → s.lock.keys.length = 4 →
    (∀ m ∈ s.lock.keys, m.state = .checking) →
    ∃ t, exec .keyCheckingEnd s = .next t ∧ t.lock.checkRun = none ∧
      t.lock.keys = s.lock.keys.mapIdx (fun i m =>
        { m with state := if keyReading s (i + 1) then .closed else .opened, run := 0 }) ∧
      t.lock.list = s.lock.list.filter (fun e =>
        !([1, 2, 3, 4].any fun k => isKeyEntry k e && !keyReading s k)) ∧
      t.lock.pending = s.lock.pending ∧ t.pins = s.pins ∧ t.seq = s.seq ∧ t.time = s.time ∧
      t.peers = s.peers ∧ t.sensor = s.sensor ∧ t.keepOut = s.keepOut

/-! ### The Report Unit -/

/-- A QUERY of this station from a console is answered from the state as it stands in READY and in
FAULTED of kind CONFIG, NO_ITEM where the item has no such index (each item's indices are in
`itemRanges`), and kept in LISTEN, up to four; a QUERY of another station is only read (DISH and
MELT as the rest), and so is one from a dish, and any in FAULTED of kind CLASH.  MELT clears the
item's mark, and DISH reads the encoders (R192, R193). -/
def Obligations.QueriesAreAnswered : Prop :=
  (∀ (s : State) (n target item index : Nat) (p : Encoders),
    KnownDish s n ∨ KnownConsole s n ∧ s.seq.station = .faulted .clash →
    (∀ q ∈ plainQueries (frameRead s n) n target index, exec q.1 s = .next (frameRead s n)) ∧
    exec (.queryIdent n target item index) s = .next (frameRead s n) ∧
    exec (.queryDish n target index p) s = .next (frameRead s n) ∧
    exec (.queryMelt n target index) s = .next (frameRead s n)) ∧
  ∀ (s : State) (n index : Nat) (p : Encoders), KnownConsole s n →
    (s.seq.station = .ready ∨ s.seq.station = .faulted .config →
      (∀ q ∈ plainQueries (frameRead s n) n s.seq.number index,
        exec q.1 s = .next (answered s n 1 (q.2.1 * 256 + index)
          (if q.2.2.isSome then 0 else 1) q.2.2)) ∧
      (∀ item, 15 ≤ item ∨ item = 0 → exec (.queryIdent n s.seq.number item index) s =
        .next (answered s n 1 (item * 256 + index) 1 none)) ∧
      exec (.queryDish n s.seq.number index p) s = .next (queueFrame
        ((frameRead s n).withAxis { s.axis with posAz := p.az, posEl := p.el })
        (.answer n 1 (3 * 256 + index) (if index = 0 then 0 else 1)
          (dishValue ((frameRead s n).withAxis { s.axis with posAz := p.az, posEl := p.el })
            index))) ∧
      exec (.queryMelt n s.seq.number index) s = .next
        ((answered s n 1 (10 * 256 + index) (if index = 0 then 0 else 1)
          (meltValue s index)).withSensor
          (if index = 0 then { s.sensor with meltChanged := false } else s.sensor))) ∧
    (s.seq.station = .listen → ∀ q : Instr × Nat,
      q ∈ (plainQueries (frameRead s n) n s.seq.number index).map (fun q => (q.1, q.2.1)) ∨
        q = (.queryDish n s.seq.number index p, 3) ∨
        q = (.queryMelt n s.seq.number index, 10) →
      exec q.1 s = .next (if s.report.pending.length < 4 then
        (frameRead s n).withReport { s.report with
          pending := s.report.pending ++ [⟨n, 1, q.2 * 256 + index⟩] }
        else frameRead s n)) ∧
    (∀ target, target ≠ s.seq.number →
      (∀ q ∈ plainQueries (frameRead s n) n target index, exec q.1 s = .next (frameRead s n)) ∧
      exec (.queryDish n target index p) s = .next (frameRead s n) ∧
      exec (.queryMelt n target index) s = .next (frameRead s n)) ∧
    (s.seq.station = .ready ∨ s.seq.station = .faulted .config → s.wind.cells.length = 8 →
      ∀ q ∈ itemRanges s n s.seq.number index,
        (q.2.2 = false → exec q.1 s =
          .next (answered s n 1 (q.2.1 * 256 + index) 1 none)) ∧
        (q.2.2 = true → ∃ v, exec q.1 s =
          .next (answered s n 1 (q.2.1 * 256 + index) 0 (some v))))

/-- A CLEAR of this station from a console clears the flags it names; one whose condition persists,
the frame being read, is set again at once with a fresh time, and no other flag changes (R191); the
ANSWER, of subject CLEAR with the flag set as key and outcome OK, is queued last (log 72), the
frames of the queue before it being kept where no flag is set again; FAULTED of kind CLASH the flags
are cleared so and nothing is queued (R191).  The detail of a flag set again is the model's choice
(log 18, 83) and is not stated.  In LISTEN it is kept, with the queries up to four, and a fifth is
only read (R192); so is a CLEAR from a dish (R191). -/
def Obligations.ClearClearsTheNamedFlags : Prop :=
  (∀ (s : State) (n target : Nat) (f : BitVec 16), KnownDish s n →
    exec (.clear n target f) s = .next (frameRead s n)) ∧
  ∀ (s : State) (n : Nat) (f : BitVec 16), KnownConsole s n → s.report.flags.length = 16 →
    (s.seq.station = .ready ∨ s.seq.station = .faulted .config ∨ s.seq.station = .faulted .clash →
      ∃ t, exec (.clear n s.seq.number f) s = .next t ∧
        (s.seq.station ≠ .faulted .clash → ∃ u,
          t = queueFrame u (.answer n 2 f.toNat 0 none) ∧ u.report.flags = t.report.flags) ∧
        (s.seq.station ≠ .faulted .clash →
          (∀ k, k < 16 → f.getLsbD k = true → persisting (frameRead s n) k = none) →
          t = queueFrame ((frameRead s n).withReport { s.report with
            flags := s.report.flags.mapIdx fun k r =>
              if f.getLsbD k then { r with on := false } else r })
            (.answer n 2 f.toNat 0 none)) ∧
        (s.seq.station = .faulted .clash → t.line = (frameRead s n).line) ∧
        (∀ k, k < 16 → f.getLsbD k = false → flagRecord t k = flagRecord s k) ∧
        (∀ k, k < 16 → f.getLsbD k = true →
          flagOn t k = (persisting (frameRead s n) k).isSome) ∧
        (∀ k, k < 16 → f.getLsbD k = true → (persisting (frameRead s n) k).isSome = true →
          (flagRecord t k).time = now s) ∧
        t.axis = s.axis ∧ t.lock = s.lock ∧ t.compact = s.compact ∧ t.sensor = s.sensor ∧
        t.wind = s.wind ∧ t.time = s.time ∧ t.seq = s.seq ∧ t.keepOut = s.keepOut) ∧
    (s.seq.station = .listen → s.report.pending.length < 4 →
      exec (.clear n s.seq.number f) s = .next ((frameRead s n).withReport { s.report with
        pending := s.report.pending ++ [⟨n, 2, f.toNat⟩] })) ∧
    (s.seq.station = .listen → 4 ≤ s.report.pending.length →
      exec (.clear n s.seq.number f) s = .next (frameRead s n)) ∧
    ∀ target, target ≠ s.seq.number → exec (.clear n target f) s = .next (frameRead s n)

/-! ### The Axis Engine -/

/-- A MOVE of a READY station passes the checks of R7 in order; the first that fails gives the
outcome of its ANSWER and nothing else; one that passes all joins the tail of the queue, and from
IDLE a leg is tried, after the ANSWER is queued (R5, R6, R7, R11; log 72); a MOVE of undefined
purpose fails at step 6 (R7).  The sweep and the estimate of an elevation search are read as log 23
gives, whether one that waits will descend as log 47, the estimate of an undefined purpose as log
55, and the sweep of a target within the tolerance as log 62.  A station FAULTED of kind CONFIG
answers NOT_READY, one in LISTEN keeps the answer for READY, and one FAULTED of kind CLASH, or not
named, only reads the frame, as any station does of a dish's MOVE (R6). -/
def Obligations.MovesAreJudged : Prop :=
  (∀ (s : State) (n target code : Nat) (az : Int) (el rate : Nat), KnownDish s n →
    exec (.movePoint n target code az el rate) s = .next (frameRead s n) ∧
    exec (.moveReferenceAz n target) s = .next (frameRead s n) ∧
    exec (.moveReferenceEl n target) s = .next (frameRead s n)) ∧
  (∀ (s : State) (n : Nat) (i : Instr) (code : Nat) (p : Purpose) (az : Int) (el rate : Nat),
    KnownConsole s n → s.seq.station = .ready →
    (i = .movePoint n s.seq.number 0 az el rate ∧ code = 0 ∧ p = .point ∨
      i = .moveReferenceAz n s.seq.number ∧ code = 1 ∧ p = .referenceAz ∧ az = 0 ∧ el = 0 ∧
        rate = 0 ∨
      i = .moveReferenceEl n s.seq.number ∧ code = 2 ∧ p = .referenceEl ∧ az = 0 ∧ el = 0 ∧
        rate = 0 ∨
      i = .movePoint n s.seq.number code az el rate ∧ 2 < code ∧ p = .undefined) →
    ∀ (e : MoveEntry) (o : Nat), e = requestedEntry s n p az el rate →
    o = (if windHolds s || s.axis.stowMark then 13
      else if changesAz s p az && (lockMask s).az || changesEl s p el && (lockMask s).el then 12
      else if s.axis.motion == .halted then 14
      else if s.compact.list.any (fun r => isFlying r || r.state == .forming &&
          decide (toMs r.start < finishEstimate s (s.axis.queue ++ [e]))) then 8
      else if p == .undefined then 10
      else if p == .point && !(inRange (cfg s).azLo (cfg s).azHi az && inRange (-270000) 270000 az
          && inRange (cfg s).elLo (cfg s).elHi el && inRange 0 90000 el) then 10
      else if p == .point && (changesAz s p az && !s.axis.refAz ||
          changesEl s p el && !s.axis.refEl) then 9
      else if !(sweepTest s (pathSweep s p az el)).isEmpty then 11
      else if 8 ≤ s.axis.queue.length then 3
      else 0) →
    (o ≠ 0 → exec i s = .next (answered s n 3 code o none)) ∧
    (o = 0 → s.axis.motion ≠ .idle → exec i s = .next ((answered s n 3 code 0 none).withAxis
      { s.axis with queue := s.axis.queue ++ [e] })) ∧
    (o = 0 → s.axis.motion = .idle → exec i s = .next (tryStart
      ((answered s n 3 code 0 none).withAxis { s.axis with queue := s.axis.queue ++ [e] })))) ∧
  (∀ (s : State) (n target code : Nat) (az : Int) (el rate : Nat) (i : Instr), KnownConsole s n →
    (i = .movePoint n target code az el rate ∨ i = .moveReferenceAz n target ∧ code = 1 ∨
      i = .moveReferenceEl n target ∧ code = 2) →
    (target = s.seq.number →
      (s.seq.station = .faulted .config → exec i s = .next (answered s n 3 code 2 none)) ∧
      (s.seq.station = .listen → exec i s = .next ((frameRead s n).withAxis
        { s.axis with pendingAnswers := s.axis.pendingAnswers ++ [(n, code)] })) ∧
      (s.seq.station = .faulted .clash → exec i s = .next (frameRead s n))) ∧
    (target ≠ s.seq.number → exec i s = .next (frameRead s n)))

/-- After the minimum gap a READY station starts the next leg of a SOLO head entry, or of a JOINT
one that is not held, which nothing blocks: the record is filled, the brakes of the moving axes
released, the commit taken, LEG entered, and the compact's record takes the leg index and count
(R9, R11, R12, R14, R107); the dish waits in GAP with a held JOINT entry (R14, R27); with an empty
queue the state becomes IDLE and the brakes engage (R14).  After 2 s of gap the brakes engage (R3,
R14).  That an axis whose leg target is exactly where it stands does not move in the leg is log 63.
The distance and the sweep of a target within the tolerance are log 10 and 62. -/
def Obligations.AGapEndsInTheNextLeg : Prop :=
  ∀ s : State, s.axis.motion = .gap →
    (s.seq.station = .ready → 100 ≤ s.axis.gapRun → s.axis.queue = [] →
      ∃ t, exec .gapMinimumEnd s = .next t ∧
        t.axis = { s.axis with motion := .idle, releasedAz := false, releasedEl := false } ∧
        t.share.motion = s.share.motion ∧ t.compact = s.compact ∧ Elsewhere s t) ∧
    (s.seq.station = .ready → 100 ≤ s.axis.gapRun → s.axis.stowMark = false →
      windHolds s = false → ∀ e rest l p, s.axis.queue = e :: rest →
      e.origin = .solo ∨ e.origin = .joint ∧ s.axis.jointHeld = false →
      p = planOf s e → p.count ≠ 0 → l = nextLeg s e p →
      (l.movesAz && (lockMask s).az || l.movesEl && (lockMask s).el) = false →
      sweepTest s (legSweep s l) = [] →
      ∃ t, exec .gapMinimumEnd s = .next t ∧
        t.axis = { s.axis with
          motion := .leg, leg := some l, gapRun := 0
          releasedAz := l.movesAz, releasedEl := l.movesEl
          queue := { e with plan := some { p with index := p.index + 1 } } :: rest } ∧
        t.share.motion = (if l.movesAz then (cfg s).axisShares else 0) +
          (if l.movesEl then (cfg s).axisShares else 0) ∧
        t.compact = (if e.origin = .joint then { s.compact with
            list := s.compact.list.map fun r => if r.id == e.compactId then
              { r with progress := some (p.index + 1, p.count) } else r }
          else s.compact) ∧ Elsewhere s t) ∧
    (∀ e rest, s.axis.queue = e :: rest → e.origin = .joint → s.axis.jointHeld = true →
      exec .gapMinimumEnd s = .next s) ∧
    (2000 ≤ s.axis.gapRun → exec .gapBrakeTimeout s = .next (s.withAxis { s.axis with
      releasedAz := false, releasedEl := false }))

/-- A leg that reaches its targets ends: the record is cleared and the commit released.  A SOLO or
JOINT entry's opens a gap, the entry leaving the queue after its last leg; a JOINT one leaves
earlier where its withdrawal is pending (R27), a held one waits, and at its last leg the arrival
notice makes the own member ARRIVED in a record in MOVING or HELD, perhaps COMPLETE, and in one
TIMED_OUT, with COMPACT_LATE, the ARRIVE being queued, and in no other (R13, R107); a stow leg
leaves the dish STOWED, or IDLE where the stow-order mark is clear, its entry gone and the brakes
engaged (R13, R22).  A leg short of a target goes on.  An unreferenced stow leg ends where the
elevation upper limit becomes active: no AXIS_LIMIT, the elevation still UNREFERENCED (R23).  That
no leg of a waiting entry is tried where a stow leg leaves the dish in IDLE is log 11. -/
def Obligations.LegsEnd : Prop :=
  (∀ (s : State) (p : Encoders) (l : Leg), s.axis.leg = some l →
    ((cfg s).tolerance < (p.az - l.targetAz).natAbs ∨
        (cfg s).tolerance < (p.el - l.targetEl).natAbs →
      exec (.legEnd p) s = .next s) ∧
    ((p.az - l.targetAz).natAbs ≤ (cfg s).tolerance →
      (p.el - l.targetEl).natAbs ≤ (cfg s).tolerance →
      (l.kind = .normal → ∀ e rest, s.axis.queue = e :: rest → e.origin = .solo →
        s.axis.jointHeld = false → s.axis.withdrawPending = false →
        ∃ t, exec (.legEnd p) s = .next t ∧
          t.axis = { s.axis with
            posAz := p.az, posEl := p.el, leg := none, motion := .gap, gapRun := 0
            queue := if lastFlown e then rest else e :: rest } ∧
          t.share.motion = 0 ∧ t.compact = s.compact ∧ Elsewhere s t) ∧
      (l.kind = .normal → ∀ e rest id own, s.axis.queue = e :: rest → e.origin = .joint →
        e.compactId = id → own = s.seq.number →
        ∃ t, exec (.legEnd p) s = .next t ∧
          t.axis = { s.axis with
            posAz := p.az, posEl := p.el, leg := none, motion := .gap, gapRun := 0
            queue := if lastFlown e then rest
              else if s.axis.withdrawPending then rest.filter fun x => x.origin != .joint
              else e :: rest
            jointHeld := s.axis.jointHeld && !lastFlown e && !s.axis.withdrawPending
            withdrawPending := false } ∧
          t.share.motion = 0 ∧ Elsewhere s t ∧
          (lastFlown e = false → t.compact = s.compact) ∧
          (findRecord s id = none → t.compact = s.compact) ∧
          ∀ r, lastFlown e = true → findRecord s id = some r →
            (isFlying r = true → memberState r own = some .accepted →
              findRecord t id = some (if (setMember r own (.arrived p.az p.el)).members.all
                  fun m => isLeft m.state || isArrived m.state then
                { setMember r own (.arrived p.az p.el) with
                  state := .complete, terminalAt := some (now s), terminalRun := 0 }
                else setMember r own (.arrived p.az p.el)) ∧
              (∀ k, k ≠ id → findRecord t k = findRecord s k)) ∧
            (r.state = .timedOut → s.report.flags.length = 16 →
              findRecord t id = some (setMember r own (.arrived p.az p.el)) ∧
              (∀ k, k ≠ id → findRecord t k = findRecord s k) ∧
              flagRecord t flagCompactLate = ⟨true, own, id, now s⟩) ∧
            (isFlying r = true ∧ memberState r own = some .accepted ∨ r.state = .timedOut →
              transmits s = true → s.line.queue = [] →
              (t.line.queue.map (·.frame)).count (.arrive id p.az p.el) = 1) ∧
            (r.state = .abandoned ∨ r.state = .cancelled → t.compact = s.compact ∧
              (s.line.queue = [] → (t.line.queue.map (·.frame)).count (.arrive id p.az p.el) = 0))) ∧
      (l.kind = .stow → ∃ t, exec (.legEnd p) s = .next t ∧
        t.axis = { s.axis with
          posAz := p.az, posEl := p.el, leg := none
          motion := if s.axis.stowMark then .stowed else .idle
          queue := s.axis.queue.filter fun e => e.origin != .stow
          releasedAz := false, releasedEl := false } ∧
        t.share.motion = 0 ∧ t.compact = s.compact ∧ Elsewhere s t))) ∧
  (∀ (s : State) (p : Encoders), s.seq.held = false → unreferencedStow s = true →
    s.pins.elUpper = false → s.pins.elLower = false →
    ∃ t, exec (.limitInput .el .upper p) s = .next t ∧
      t.pins = { s.pins with elUpper := true } ∧
      t.axis = { s.axis with
        posAz := p.az, posEl := p.el, leg := none
        motion := if s.axis.stowMark then .stowed else .idle
        queue := s.axis.queue.filter fun e => e.origin != .stow
        releasedAz := false, releasedEl := false } ∧
      flagRecord t flagAxisLimit = flagRecord s flagAxisLimit ∧ t.share.motion = 0 ∧
      t.lock = s.lock ∧ t.time = s.time ∧ t.compact = s.compact ∧ t.sensor = s.sensor)

/-- The index mark of the axis under search sets its position and makes it REFERENCED, and the leg
ends with GAP (R20); an elevation search that succeeds clears the pair's faulted mark (R17).  The
descent ends where the upper limit goes inactive, and the search goes upward (R20). -/
def Obligations.SearchesEndAtTheIndexMark : Prop :=
  ∀ (s : State) (l : Leg), s.axis.leg = some l →
    (∀ a e rest, l.kind = .search a → s.axis.queue = e :: rest → e.origin = .reference a →
      lastFlown e = true → s.axis.jointHeld = false → s.axis.withdrawPending = false →
      ∃ t, exec (.indexMark a) s = .next t ∧
        t.axis = { s.axis with
          posAz := if a = .az then (cfg s).azIndex else s.axis.posAz
          posEl := if a = .el then (cfg s).elIndex else s.axis.posEl
          refAz := s.axis.refAz || decide (a = .az)
          refEl := s.axis.refEl || decide (a = .el)
          pairFaulted := s.axis.pairFaulted && decide (a = .az)
          leg := none, motion := .gap, gapRun := 0, queue := rest } ∧
        t.share.motion = 0 ∧ t.compact = s.compact ∧ Elsewhere s t) ∧
    (l.kind = .descent →
      exec .referenceDescentEnd s = .next ((s.withPins { s.pins with elUpper := false }).withAxis
        { s.axis with leg := some { l with kind := .search .el } }) ∧
      exec (.limitInputInactive .el .upper) s = exec .referenceDescentEnd s)

/-- A controlled stop goes on while an axis is at creep rate or above; once both are below it, a
stop with reason STALL ends in HALTED with DRIVE_STALL, one with CLASH in IDLE without a leg, and
any other in IDLE, the brakes engaged, the commit released, and a leg tried: here with no entry to
fly, or with the STOW entry, whose leg a READY station starts from where the dish stands, unless it
is stowed already or the stow is blocked (R15, R16, R21, R22).  That the leg starts here whatever
the stow-order mark, and that with the mark cleared a stow of no motion gives IDLE, is log 53; the
entry's azimuth is log 54.  A leg that has run longer than twice its estimate plus 2000 ms is
stalled: a stop with reason STALL begins, naming each axis off its leg target, and the queue is
flushed; a stop that has outlasted its limit ends in HALTED with DRIVE_STALL (R16).  That the entry
into HALTED flushes the queue again is log 32; the axes named where the leg is a move's or the stow
leg are R16's, moving or not (log 45). -/
def Obligations.StopsAndStallsEnd : Prop :=
  (∀ (s : State) (p : Encoders) (a e : Nat) (x : Stop), s.axis.motion = .stopping →
    s.axis.stop = some x → s.report.flags.length = 16 →
    ((cfg s).creep ≤ a ∨ (cfg s).creep ≤ e → exec (.stopEnd p a e) s = .next s) ∧
    (a < (cfg s).creep → e < (cfg s).creep →
      (.stall ∈ x.reasons → ∃ t, exec (.stopEnd p a e) s = .next t ∧
        HaltedBy s t p flagDriveStall x.stallDetail) ∧
      (.stall ∉ x.reasons → .clash ∈ x.reasons ∨ s.axis.queue = [] →
        ∃ t, exec (.stopEnd p a e) s = .next t ∧
          t.axis = { s.axis with
            posAz := p.az, posEl := p.el, stop := none, motion := .idle
            releasedAz := false, releasedEl := false } ∧
          t.share.motion = 0 ∧ t.compact = s.compact ∧ Elsewhere s t) ∧
      (.stall ∉ x.reasons → .clash ∉ x.reasons → s.seq.station = .ready → ∀ m rest,
        s.axis.queue = m :: rest → m.origin = .stow → ∀ r : AxisUnit,
        r = { s.axis with
          posAz := p.az, posEl := p.el, stop := none, motion := .idle
          releasedAz := false, releasedEl := false } →
        (stowBlocked s = true → ∃ t, exec (.stopEnd p a e) s = .next t ∧ t.axis = r ∧
          t.share.motion = 0 ∧ Elsewhere s t) ∧
        (stowBlocked s = false → s.axis.refEl = true →
          (m.el ≤ p.el → ∃ t, exec (.stopEnd p a e) s = .next t ∧
            t.axis = { popHead r with
              motion := if s.axis.stowMark then .stowed else .idle } ∧
            t.share.motion = 0 ∧ Elsewhere s t) ∧
          (p.el + (cfg s).tolerance < m.el → ∃ t, exec (.stopEnd p a e) s = .next t ∧
            t.axis = { r with
              queue := { m with az := p.az, plan := some ⟨p.az, p.el, 1, 1⟩ } :: rest
              motion := .stowing, leg := some (stowLeg (s.withAxis r) m), gapRun := 0
              releasedEl := true } ∧ Elsewhere s t))))) ∧
  (∀ (s : State) (p : Encoders),
    (∀ l, s.axis.leg = some l → l.kind = .normal ∨ l.kind = .stow →
      2 * l.estimate + 2000 < l.run →
      ∃ t, exec (.legStall p) s = .next t ∧
        t.axis = flushed { s.axis with
          posAz := p.az, posEl := p.el, leg := none, motion := .stopping
          stop := some ⟨[.stall], 0,
            (if (cfg s).tolerance < (p.az - l.targetAz).natAbs then 1 else 0) +
            (if (cfg s).tolerance < (p.el - l.targetEl).natAbs then 2 else 0)⟩ } ∧
        t.share.motion = s.share.motion ∧ Elsewhere s t) ∧
    (∀ x a e, s.axis.motion = .stopping → s.axis.stop = some x → s.report.flags.length = 16 →
      (max (cfg s).azMax (cfg s).elMax * 1000 + (cfg s).decel - 1) / (cfg s).decel + 2000 ≤ x.run →
      ∃ t, exec (.stopStall p a e) s = .next t ∧ HaltedBy s t p flagDriveStall
        ((if (cfg s).creep ≤ a then 1 else 0) + (if (cfg s).creep ≤ e then 2 else 0))))

/-- A limit input, an amplifier fault or the loss of an encoder, becoming active, puts the dish in
HALTED with its flag (R17, R18); so does a search that runs 400 degrees, meets a limit, or whose
descent covers 5 degrees, with ENCODER_FAULT (R20).  That every limit input of either axis ends a
search of either axis so is log 32.  An input already active does nothing more.  An unreferenced
stow leg is halted by every limit input but the elevation upper one alone (R17, R23).  In HALTED a
further fault sets its own flag and the state stays HALTED (R18).
A compact whose JOINT entry the flush removes is left with reason FAULT (R18, R111).
That a STALL recorded in a stop so ended is dropped is log 64. -/
def Obligations.AxisFaultsHaltTheDish : Prop :=
  (∀ (s : State) (p : Encoders) (a : Axis) (i : Instr) (flag detail : Nat),
    s.seq.held = false → s.report.flags.length = 16 → s.axis.motion = .halted →
    s.axis.leg = none →
    ((∃ side, i = .limitInput a side p ∧ limitPin s.pins a side = false ∧ flag = flagAxisLimit ∧
        detail = if pairActive (setLimitPin s.pins a side true) a then (if a = .az then 5 else 6)
          else limitDetail a side) ∨
      i = .amplifierFault a p ∧ faultPin s.pins a = false ∧ flag = flagDriveFault ∧
        detail = (if a = .az then 1 else 2) ∨
      i = .encoderLoss a p ∧ validPin s.pins a = true ∧ flag = flagEncoderFault ∧
        detail = (if a = .az then 1 else 2)) →
    ∃ t, exec i s = .next t ∧ t.axis = { s.axis with
        posAz := p.az, posEl := p.el, pairFaulted := t.axis.pairFaulted } ∧
      flagRecord t flag = ⟨true, detail, 0, now s⟩ ∧
      (∀ n, n ≠ flag → flagRecord t n = flagRecord s n) ∧
      t.compact = s.compact ∧ t.seq = s.seq ∧ t.time = s.time ∧ t.lock = s.lock ∧
      t.sensor = s.sensor ∧ t.keepOut = s.keepOut) ∧
  ∀ (s : State) (p : Encoders) (a : Axis), s.seq.held = false → s.report.flags.length = 16 →
    s.axis.motion ≠ .halted →
    (∀ side, limitPin s.pins a side = true → exec (.limitInput a side p) s = .next s) ∧
    (∀ side, limitPin s.pins a side = false →
      unreferencedStow s = false ∨ a = .az ∨ side = .lower ∨ s.pins.elLower = true →
      ∃ t, exec (.limitInput a side p) s = .next t ∧
        t.pins = setLimitPin s.pins a side true ∧
        (searching s = none → pairActive t.pins a = false →
          HaltedBy s t p flagAxisLimit (limitDetail a side)) ∧
        (searching s = none → pairActive t.pins a = true →
          HaltedBy s t p flagAxisLimit (if a = .az then 5 else 6) ∧
          (a = .el → t.axis.pairFaulted = true)) ∧
        (∀ x, searching s = some x →
          HaltedBy s t p flagEncoderFault (if x = .az then 3 else 4))) ∧
    (faultPin s.pins a = false → ∃ t, exec (.amplifierFault a p) s = .next t ∧
      t.pins = setFaultPin s.pins a true ∧
      HaltedBy s t p flagDriveFault (if a = .az then 1 else 2)) ∧
    (validPin s.pins a = true → ∃ t, exec (.encoderLoss a p) s = .next t ∧
      t.pins = setValidPin s.pins a false ∧
      HaltedBy s t p flagEncoderFault (if a = .az then 1 else 2)) ∧
    (∀ l, s.axis.leg = some l →
      (l.kind = .search .az → 400000 ≤ (p.az - l.startAz).natAbs →
        ∃ t, exec (.referenceTravelLimit p) s = .next t ∧ t.pins = s.pins ∧
          HaltedBy s t p flagEncoderFault 3) ∧
      (l.kind = .descent → s.pins.elUpper = true → 5000 ≤ l.startEl - p.el →
        ∃ t, exec (.referenceDescentLimit p) s = .next t ∧ t.pins = s.pins ∧
          HaltedBy s t p flagEncoderFault 4))

/-- An axis input that goes inactive, and an encoder whose signal is valid again, change the input
alone (R17, R19).  The amplifier warning changes no motion: while the warning condition stays as it
was, the input alone changes; where it begins, a HOLD is queued for a record the station flies, and
where it ends, the unstarted HOLDs are withdrawn, first (log 57), and a RESUME is queued for a
record that the own number holds (R28, R102). -/
def Obligations.AxisInputsGoInactive : Prop :=
  ∀ (s : State) (a : Axis),
    (∀ side, (∀ l, s.axis.leg = some l → l.kind ≠ .descent) →
      exec (.limitInputInactive a side) s = .next (s.withPins (setLimitPin s.pins a side false))) ∧
    exec (.amplifierFaultInactive a) s = .next (s.withPins (setFaultPin s.pins a false)) ∧
    exec (.encoderSignalValid a) s = .next (s.withPins (setValidPin s.pins a true)) ∧
    (∀ w t, t = s.withPins (setWarningPin s.pins a w) →
      (∃ u, exec (.amplifierWarning a w) s = .next u ∧ u.pins = t.pins ∧ u.axis = s.axis ∧
        u.compact = s.compact ∧ u.lock = s.lock ∧ u.time = s.time ∧ u.sensor = s.sensor ∧
        u.wind = s.wind ∧ u.report = s.report ∧ u.peers = s.peers) ∧
      (warning t = warning s → exec (.amplifierWarning a w) s = .next t) ∧
      (∀ r, s.seq.held = false → warning s = false → warning t = true → s.compact.list = [r] →
        isLive r = true → memberState r s.seq.number = some .accepted →
        exec (.amplifierWarning a w) s = .next (queueFrame t (.hold r.id))) ∧
      (∀ r, s.seq.held = false → warning s = true → warning t = false → s.compact.list = [r] →
        isLive r = true → memberState r s.seq.number = some .accepted →
        s.seq.number ∈ r.holds →
        exec (.amplifierWarning a w) s = .next (queueFrame (t.withLine { t.line with
          queue := t.line.queue.filter fun e => e.started || !isHold e }) (.resume r.id))))

/-- A remote MOTION reset stops a moving dish with reason RESET, flushes the queue but in STOWED,
empties the Compact List, a LEAVE(RESET) and COMPACT_FAILED for each record it has accepted, and
leaves HALTED where the inputs are clear, which enables the amplifiers; the positions, the reference
and the stow-order mark are kept, and the Lockout Unit is not acted on (R3, R19, R30, R51, R117).
HALTED entered again marks the elevation pair where both its limits are active (R17). -/
def Obligations.AMotionResetStopsAndFlushes : Prop :=
  ∀ (s : State) (n : Nat), KnownConsole s n →
    (∀ target, target ≠ s.seq.number → exec (.resetMotion n target) s = .next (frameRead s n)) ∧
    ∃ t, exec (.resetMotion n s.seq.number) s = .next t ∧ Elsewhere (frameRead s n) t ∧
      t.compact.list = [] ∧ t.compact.pending = [] ∧
      t.axis.posAz = s.axis.posAz ∧ t.axis.posEl = s.axis.posEl ∧
      t.axis.refAz = s.axis.refAz ∧ t.axis.refEl = s.axis.refEl ∧
      t.axis.stowMark = s.axis.stowMark ∧
      (s.axis.motion = .leg ∨ s.axis.motion = .gap ∨ s.axis.motion = .stowing →
        t.axis = flushed (stopping s.axis .reset)) ∧
      (∀ x, s.axis.motion = .stopping → s.axis.stop = some x → t.axis = flushed { s.axis with
        stop := some { x with
          reasons := if .reset ∈ x.reasons then x.reasons else x.reasons ++ [.reset] } }) ∧
      (s.axis.motion = .stowed → t.axis = s.axis) ∧
      (s.axis.motion = .halted → faultsPresent s ≠ [] → t.axis = { flushed s.axis with
        pairFaulted := s.axis.pairFaulted || (s.pins.elLower && s.pins.elUpper) }) ∧
      (s.axis.motion = .halted → faultsPresent s = [] → s.axis.stowMark = false →
        stowEntries s = [] → t.axis = { flushed s.axis with
          motion := .idle, pairFaulted := s.axis.pairFaulted && !s.axis.refEl }) ∧
      (s.axis.motion = .halted → amplifiersEnabled t = decide (faultsPresent s = [] ∧
        s.seq.station ≠ .faulted .config)) ∧
      (s.axis.motion = .idle → stowEntries s = [] → t.axis = flushed s.axis) ∧
      (∀ r, s.compact.list = [r] → isLive r = true → memberState r s.seq.number = some .accepted →
        s.report.flags.length = 16 →
        flagRecord t flagCompactFailed = ⟨true, 16, r.id, now s⟩ ∧
        (transmits s = true → s.line.queue = [] → s.axis.queue = [] →
          s.axis.motion ≠ .halted → s.wind.ordered = false → shortfall s = 0 →
          ∃ x ∈ t.line.queue, x.frame = .leave r.id 16))

/-! ### The Compact Unit -/

/-- A CALL that names this station is answered by its state: kept in LISTEN, declined NOT_READY in
FAULTED of kind CONFIG; in READY a repeat is accepted again, another CALL of an id held is declined
DUPLICATE, and a new one passes the checks in order, the last four in `callTarget` (limits, sectors,
time enough, the queue); accepted, its record joins the list in FORMING (R94, R95, R96, R99).  One
that does not name the station, or of an undefined mode, is only read, and so is one from a dish,
one in FAULTED of kind CLASH (R94), and one of compact id 0 or of milliseconds above 999 (log 13).
A HOLD follows the REPLY where the warning condition holds (R99).  The sweep of a target within the
tolerance is log 62, the distance of such an axis log 10, the estimate of an elevation search that
descends log 23. -/
def Obligations.CallsAreEvaluated : Prop :=
  (∀ (s : State) (n : Nat) (p : CallPayload), KnownDish s n →
    exec (.call n p) s = .next (frameRead s n)) ∧
  ∀ (s : State) (n : Nat) (p : CallPayload), KnownConsole s n →
    ((callMembers p).contains s.seq.number = false ∨ 1 < p.mode ∨ p.id = 0 ∨ 999 < p.start.ms ∨
        999 < p.deadline.ms ∨ s.seq.station = .faulted .clash →
      exec (.call n p) s = .next (frameRead s n)) ∧
    ((callMembers p).contains s.seq.number = true → p.mode ≤ 1 → p.id ≠ 0 → p.start.ms ≤ 999 →
      p.deadline.ms ≤ 999 →
      (s.seq.station = .faulted .config → exec (.call n p) s = .next
        (queueFrame (frameRead s n) (.reply p.id 1 13))) ∧
      (s.seq.station = .listen → exec (.call n p) s = .next (if s.compact.pending.length < 4 then
        (frameRead s n).withCompact { s.compact with pending := s.compact.pending ++ [p.id] }
        else frameRead s n)) ∧
      (s.seq.station = .ready →
        (∀ r, findRecord s p.id = some r → exec (.call n p) s = .next
          (queueFrame (frameRead s n)
            (if sameCall r n p then .reply p.id 0 0 else .reply p.id 1 2))) ∧
        (findRecord s p.id = none → ∀ v : Except Nat Int,
          v = (if 4 ≤ s.compact.list.length then .error 1
            else if toMs p.start < nowMs s + 500 ∨ toMs p.deadline ≤ toMs p.start then .error 3
            else if s.compact.list.any fun r => isLive r && windowsOverlap r p then .error 4
            else if windHolds s then .error 5
            else if scopeMotion (lockMask s) then .error 6
            else if s.axis.motion == .halted then .error 7
            else if !s.axis.refAz || !s.axis.refEl then .error 8
            else callTarget s p) →
          (∀ reason, v = .error reason → exec (.call n p) s = .next
            (queueFrame (frameRead s n) (.reply p.id 1 reason))) ∧
          (∀ az u, v = .ok az → u = queueFrame ((frameRead s n).withCompact { s.compact with
              list := insertRecord
                { id := p.id, console := n, partialMode := p.mode == 1, skyAz := p.skyAz
                  el := p.el, ownAz := az, start := p.start, deadline := p.deadline
                  state := .forming
                  members := (callMembers p).map fun k =>
                    ⟨k, if k == s.seq.number then .accepted else .unanswered⟩
                  holds := [], progress := none, terminalAt := none, terminalRun := 0
                  inserted := false } s.compact.list }) (.reply p.id 0 0) →
            exec (.call n p) s =
              .next (if warning s then queueFrame u (.hold p.id) else u)))))

/-- A REPLY from a member sets its state in a record in FORMING, the latest verdict replacing any
earlier one, but for a member that has left; in any other record, from a station that is no member,
with reason DUPLICATE, or with a verdict or a reason 4.10 does not define, it changes nothing
(R100). -/
def Obligations.RepliesSetTheMemberState : Prop :=
  ∀ (s : State) (n id verdict reason : Nat), KnownDish s n →
    (findRecord s id = none → exec (.reply n id verdict reason) s = .next (frameRead s n)) ∧
    ∀ r, findRecord s id = some r →
      (r.state ≠ .forming ∨ memberState r n = none ∨ (memberState r n).map mayLeave = some false ∨
          2 ≤ verdict ∨ verdict = 0 ∧ reason ≠ 0 ∨
          verdict = 1 ∧ (reason = 0 ∨ reason = 2 ∨ 13 < reason) →
        exec (.reply n id verdict reason) s = .next (frameRead s n)) ∧
      (r.state = .forming → ∀ m st, memberState r n = some m → mayLeave m = true →
        (verdict = 0 ∧ reason = 0 ∧ st = .accepted ∨
          verdict = 1 ∧ 1 ≤ reason ∧ reason ≤ 13 ∧ reason ≠ 2 ∧ st = .declined reason) →
        exec (.reply n id verdict reason) s = .next ((frameRead s n).withCompact { s.compact with
          list := s.compact.list.map fun x => if x.id == id then setMember x n st else x }))

/-- A HOLD of a member or a console adds its number to the hold set of a live record, and a RESUME
takes it away; the state follows the set once the start is decided, with a hold or release request
to the Axis Engine where the JOINT entry has been inserted (R27, R101). -/
def Obligations.HoldsFollowTheSet : Prop :=
  ∀ (s : State) (n id : Nat) (r : CompactRecord), Known s n → findRecord s id = some r →
    (isMember r n = false → isConsole n = false →
      exec (.hold n id) s = .next (frameRead s n) ∧
      exec (.resume n id) s = .next (frameRead s n)) ∧
    (isLive r = false → exec (.hold n id) s = .next (frameRead s n) ∧
      exec (.resume n id) s = .next (frameRead s n)) ∧
    (isMember r n = true ∨ isConsole n = true → ∀ t : State,
      t = (frameRead s n).withCompact { s.compact with
        list := s.compact.list.map fun x => if x.id == id then { x with
          holds := if x.holds.contains n then x.holds else x.holds ++ [n]
          state := if x.state == .moving then .held else x.state } else x } →
      (r.state = .forming ∨ r.state = .held → exec (.hold n id) s = .next t) ∧
      (r.state = .moving → exec (.hold n id) s = .next (t.withAxis
        (if r.inserted && headIsJoint s id then { s.axis with jointHeld := true }
          else s.axis)))) ∧
    (isMember r n = true ∨ isConsole n = true → ∀ t : State,
      t = (frameRead s n).withCompact { s.compact with
        list := s.compact.list.map fun x => if x.id == id then { x with
          holds := x.holds.filter (· != n)
          state := if x.state == .held && (x.holds.filter (· != n)).isEmpty then .moving
            else x.state } else x } →
      (r.state = .forming ∨ r.state = .moving ∨
          r.state = .held ∧ (r.holds.filter (· != n)) ≠ [] →
        exec (.resume n id) s = .next t) ∧
      (r.state = .held → r.holds.filter (· != n) = [] →
        exec (.resume n id) s = .next (if r.inserted && headIsJoint s id then
          tryStart (t.withAxis { s.axis with jointHeld := false }) else t)))

/-- A CANCEL from the calling console of a live record makes it CANCELLED, with COMPACT_FAILED; from
any other sender, for no record held, or of a terminal record, it changes nothing (R113).  A JOINT
entry in flight is withdrawn at its leg's end (R27, R115). -/
def Obligations.CancelEndsTheRecord : Prop :=
  ∀ (s : State) (n id : Nat), Known s n →
    (findRecord s id = none → exec (.cancel n id) s = .next (frameRead s n)) ∧
    ∀ r, findRecord s id = some r →
      (isConsole n = false ∨ r.console ≠ n ∨ isLive r = false →
        exec (.cancel n id) s = .next (frameRead s n)) ∧
      (isConsole n = true → r.console = n → isLive r = true → s.report.flags.length = 16 →
        ∃ t, exec (.cancel n id) s = .next t ∧
          t.compact = { s.compact with list := s.compact.list.map fun x => if x.id == id then
            { x with state := .cancelled, terminalAt := some (now s), terminalRun := 0 } else x } ∧
          flagRecord t flagCompactFailed = ⟨true, 22, id, now s⟩ ∧
          Elsewhere (frameRead s n) t ∧
          (r.inserted = false → t.axis = s.axis) ∧
          (r.inserted = true → s.axis.motion = .leg → headIsJoint s id = true →
            t.axis = { s.axis with withdrawPending := true }))

/-- An ARRIVE from an ACCEPTED member of a record in MOVING or HELD makes it ARRIVED with its final
position, and the record COMPLETE where every member not LEFT has arrived; in a TIMED_OUT record it
sets COMPACT_LATE; else it changes nothing (R107, R108). -/
def Obligations.ArrivalsCompleteTheRecord : Prop :=
  ∀ (s : State) (n id : Nat) (az el : Int), KnownDish s n →
    (findRecord s id = none → exec (.arrive n id az el) s = .next (frameRead s n)) ∧
    ∀ r, findRecord s id = some r →
      (memberState r n ≠ some .accepted → exec (.arrive n id az el) s = .next (frameRead s n)) ∧
      (memberState r n = some .accepted →
        (isFlying r = true → ∃ t, exec (.arrive n id az el) s = .next t ∧
          findRecord t id = some (if (setMember r n (.arrived az el)).members.all
              fun m => isLeft m.state || isArrived m.state then
            { setMember r n (.arrived az el) with
              state := .complete, terminalAt := some (now s), terminalRun := 0 }
            else setMember r n (.arrived az el)) ∧
          (∀ k, k ≠ id → findRecord t k = findRecord s k) ∧ t.axis = s.axis ∧
          Elsewhere (frameRead s n) t) ∧
        (r.state = .timedOut → s.report.flags.length = 16 →
          ∃ t, exec (.arrive n id az el) s = .next t ∧
          findRecord t id = some (setMember r n (.arrived az el)) ∧
          flagRecord t flagCompactLate = ⟨true, n, id, now s⟩ ∧ t.axis = s.axis ∧
          Elsewhere (frameRead s n) t) ∧
        (r.state = .forming ∨ r.state = .complete ∨ r.state = .abandoned ∨
            r.state = .cancelled →
          exec (.arrive n id az el) s = .next (frameRead s n)))

/-- A LEAVE of a reason R109 names, from a member that has not arrived or left, makes it LEFT in a
live record; a record of mode ALL is then ABANDONED, one of mode PARTIAL in MOVING or HELD is
ABANDONED where every member has left and COMPLETE where every other has arrived (R107, R109). -/
def Obligations.LeavesEndTheMembership : Prop :=
  ∀ (s : State) (n id reason : Nat) (r : CompactRecord), KnownDish s n →
    findRecord s id = some r →
    (isLeaveReason reason = false ∨ isLive r = false ∨
        ((memberState r n).map mayLeave).getD false = false →
      exec (.leave n id reason) s = .next (frameRead s n)) ∧
    (isLeaveReason reason = true → isLive r = true → ∀ m, memberState r n = some m →
      mayLeave m = true → s.report.flags.length = 16 → ∀ r' : CompactRecord,
      r' = setMember r n (.left reason) →
      ∃ t, exec (.leave n id reason) s = .next t ∧
        findRecord t id = some (
          if r.partialMode = false ∨ isFlying r = true ∧ r'.members.all (fun x => isLeft x.state) then
            { r' with state := .abandoned, terminalAt := some (now s), terminalRun := 0 }
          else if isFlying r = true ∧
              r'.members.all (fun x => isLeft x.state || isArrived x.state) then
            { r' with state := .complete, terminalAt := some (now s), terminalRun := 0 }
          else r') ∧
        (∀ k, k ≠ id → findRecord t k = findRecord s k) ∧
        (r.partialMode = false → flagRecord t flagCompactFailed = ⟨true, 20, id, now s⟩) ∧
        Elsewhere (frameRead s n) t)

/-- At its start time a record in FORMING is decided (R103): mode ALL goes ahead with every member
ACCEPTED, mode PARTIAL with another member ACCEPTED, the rest then LEFT; else it is ABANDONED with
COMPACT_FAILED.  One that goes ahead enters MOVING, or HELD where the hold set is not empty; where
the motion can start (R104) the JOINT entry is inserted, held or with a leg tried, and where it
cannot the station leaves (R105), with COMPACT_FAILED for KEEP_OUT too (log 56).  Taken before it
is due, the event changes nothing (log 2).  The sweep of a target within the tolerance is log 62,
the distance of such an axis log 10. -/
def Obligations.TheStartTimeDecides : Prop :=
  ∀ (s : State) (id : Nat) (r : CompactRecord), findRecord s id = some r → r.id = id →
    (r.state ≠ .forming ∨ nowMs s < toMs r.start →
      exec (.compactStartTime id) s = .next s) ∧
    (r.state = .forming → toMs r.start ≤ nowMs s → s.report.flags.length = 16 →
      ∀ (r' : CompactRecord) (goes : Bool),
      r' = (if r.partialMode then
        { r with members := r.members.map fun m => { m with state := leftAtStart m.state } } else r) →
      goes = (if r.partialMode then
          r.members.any fun m => m.state == .accepted && m.station != s.seq.number
        else r.members.all fun m => m.state == .accepted) →
      (goes = false → ∃ t, exec (.compactStartTime id) s = .next t ∧
        findRecord t id = some { r' with
          state := .abandoned, terminalAt := some (now s), terminalRun := 0 } ∧
        flagRecord t flagCompactFailed = ⟨true, 20, id, now s⟩ ∧ Elsewhere s t) ∧
      (goes = true →
        (∀ az, startCheck s r = .ok az → r.holds ≠ [] →
          ∃ t, exec (.compactStartTime id) s = .next t ∧
            findRecord t id = some { r' with state := .held, ownAz := az, inserted := true } ∧
            t.axis = { s.axis with
              queue := [⟨.joint, az, r.el, (cfg s).azMax, (cfg s).elMax, id, 0, none⟩]
              jointHeld := true, withdrawPending := false } ∧ Elsewhere s t) ∧
        (∀ az, startCheck s r = .ok az → r.holds = [] →
          ∃ t, exec (.compactStartTime id) s = .next (tryStart t) ∧
            findRecord t id = some { r' with state := .moving, ownAz := az, inserted := true } ∧
            t.axis = { s.axis with
              queue := [⟨.joint, az, r.el, (cfg s).azMax, (cfg s).elMax, id, 0, none⟩]
              jointHeld := false, withdrawPending := false } ∧ Elsewhere s t) ∧
        (∀ reason, startCheck s r = .error reason → memberState r s.seq.number = some .accepted →
          ∃ t x, exec (.compactStartTime id) s = .next t ∧ findRecord t id = some x ∧
            memberState x s.seq.number = some (.left reason) ∧
            (r.partialMode = false → x.state = .abandoned) ∧
            flagOn t flagCompactFailed = true ∧ Elsewhere s t)))

/-- At its deadline a record in MOVING or HELD becomes TIMED_OUT, with COMPACT_FAILED, a JOINT entry
in flight being withdrawn at its leg's end (R27, R115); one in FORMING is first decided as at its
start time, and the deadline finds it as that leaves it (R106, R114); a terminal record, or one
whose deadline is not reached, is not changed (the second is log 2). -/
def Obligations.TheDeadlineTimesOut : Prop :=
  ∀ (s : State) (id : Nat) (r : CompactRecord), findRecord s id = some r → r.id = id →
    (isLive r = false ∨ nowMs s < toMs r.deadline → exec (.compactDeadline id) s = .next s) ∧
    (r.state = .moving ∨ r.state = .held → toMs r.deadline ≤ nowMs s →
      s.report.flags.length = 16 →
      ∃ t, exec (.compactDeadline id) s = .next t ∧
        t.compact = { s.compact with list := s.compact.list.map fun x => if x.id == id then
          { x with state := .timedOut, terminalAt := some (now s), terminalRun := 0 } else x } ∧
        flagRecord t flagCompactFailed = ⟨true, 21, id, now s⟩ ∧ Elsewhere s t ∧
        (r.inserted = false → t.axis = s.axis) ∧
        (r.inserted = true → s.axis.motion = .leg → headIsJoint s id = true →
          t.axis = { s.axis with withdrawPending := true })) ∧
    (r.state = .forming → toMs r.start ≤ nowMs s → toMs r.deadline ≤ nowMs s →
      ∀ u, exec (.compactStartTime id) s = .next u →
        exec (.compactDeadline id) s = exec (.compactDeadline id) u)

/-- A terminal record leaves the list once 5000 ms have passed since its terminal time, its LEAVE
frames not started withdrawn but for one of reason RESET (R93, R112); a live one, or one earlier,
stays (the second is log 2). -/
def Obligations.TerminalRecordsAreRemoved : Prop :=
  ∀ (s : State) (id : Nat) (r : CompactRecord), findRecord s id = some r →
    (isLive r = true ∨ r.terminalRun < 5000 → exec (.compactRemoval id) s = .next s) ∧
    (isLive r = false → 5000 ≤ r.terminalRun → exec (.compactRemoval id) s = .next { s with
      line := { s.line with queue := s.line.queue.filter fun e =>
        e.started || !(match e.frame with
          | .leave i reason => i == id && reason != reasonReset
          | _ => false) }
      compact := { s.compact with list := s.compact.list.filter fun x => x.id != id } })

/-! ### The Sensor Unit -/

/-- A scan begins at a scan instant, latches the pulse counts with their window and begins them
again; one reached while a scan is in flight begins none; the next instant is the next multiple of
the interval (R120, R123).  A pulse at least as wide as the filter is counted once the counters have
started, a narrower one is not (R123). -/
def Obligations.ScansBeginAndPulsesAreCounted : Prop :=
  ∀ s : State, s.seq.config.isSome = true → s.sensor.latched = true →
    (s.sensor.nextScan ≤ nowMs s →
      (s.sensor.scan = none → exec .scanStart s = .next (s.withSensor { s.sensor with
        scan := some ⟨0, s.sensor.pulsesA, s.sensor.pulsesB, some s.sensor.sinceLatch⟩
        nextScan := (nowMs s / (cfg s).scanInterval + 1) * (cfg s).scanInterval
        sinceLatch := 0, pulsesA := 0, pulsesB := 0 })) ∧
      (s.sensor.scan.isSome = true → exec .scanStart s = .next (s.withSensor { s.sensor with
        nextScan := (nowMs s / (cfg s).scanInterval + 1) * (cfg s).scanInterval }))) ∧
    ∀ w, ((cfg s).sensor = true → (cfg s).filterWidth ≤ w →
        exec (.anemometerPulse .a w) s = .next (s.withSensor { s.sensor with
          pulsesA := s.sensor.pulsesA + 1 }) ∧
        exec (.anemometerPulse .b w) s = .next (s.withSensor { s.sensor with
          pulsesB := s.sensor.pulsesB + 1 })) ∧
      ((cfg s).sensor = false ∨ w < (cfg s).filterWidth → ∀ x,
        exec (.anemometerPulse x w) s = .next s)

/-- A good scan records every converted channel, held at the ends of its range, with its band
position and any crossing; COLD and ice-present follow their bands with hysteresis, the melt rate
code the surface temperature; where demand ends with it, the own level and status standing, every
zone is OFF, with cause SENSOR or DEMAND (R154, R162); the first scan ends SELFCHECK (R121, R122,
R127, R128, R129, R184). -/
def Obligations.AGoodScanIsRecorded : Prop :=
  ∀ (s : State) (r : ScanReadings) (c : Scan), s.sensor.scan = some c → 12 ≤ c.run →
    (cfg s).refLo ≤ max 0 (min 4095 r.reference) → max 0 (min 4095 r.reference) ≤ (cfg s).refHi →
    ∀ surface air ice : Int, surface = max (-999) (min 999 r.surface) →
    air = max (-999) (min 999 r.air) → ice = max 0 (min 1000 r.ice) →
    ∃ t, exec (.scanComplete r) s = .next t ∧
      t.sensor.scan = none ∧ t.sensor.discarded = 0 ∧
      t.sensor.good = min 10 (s.sensor.good + 1) ∧ t.sensor.latest = some (now s, true) ∧
      t.sensor.reference = readChannel s.sensor.reference (cfg s).refLo (cfg s).refHi
        (max 0 (min 4095 r.reference)) (now s) ∧
      t.sensor.surface = readChannel s.sensor.surface (-500) 600 surface (now s) ∧
      t.sensor.air = readChannel s.sensor.air (cfg s).airLo (cfg s).airHi air (now s) ∧
      t.sensor.ice = readChannel s.sensor.ice (cfg s).iceLo (cfg s).iceHi ice (now s) ∧
      t.sensor.cold = (if air < (cfg s).airLo then true
        else if (cfg s).airHi < air then false else s.sensor.cold) ∧
      t.sensor.icePresent = (if ice < (cfg s).iceLo then false
        else if (cfg s).iceHi < ice then true else s.sensor.icePresent) ∧
      t.sensor.melt = (if surface < -500 then 0 else if surface ≤ -201 then 1
        else if surface ≤ -101 then 2 else if surface ≤ -31 then 3 else if surface ≤ 29 then 4
        else if surface ≤ 600 then 5 else 6) ∧
      t.sensor.meltChanged = (s.sensor.meltChanged || t.sensor.melt != s.sensor.melt) ∧
      t.seq = (if s.seq.station = .selfcheck then
        { s.seq with station := .listen, listenRun := 0 } else s.seq) ∧
      t.time = s.time ∧ t.pins = s.pins ∧ t.lock = s.lock ∧ t.peers = s.peers ∧
      t.keepOut = s.keepOut ∧
      (demand s = true → demand t = false → t.sensor.level = s.sensor.level →
        t.sensor.status = s.sensor.status →
        ∀ c, c = (if t.sensor.melt = 0 ∨ t.sensor.melt = 6 then .sensor else .demand) →
        t.heater.zones = s.heater.zones.map (zoneOff c) ∧ t.heater.claims = [] ∧
        t.heater.onOrder = [])

/-- A scan whose REFERENCE lies outside its band is discarded: only that channel is recorded, the
counts move, SENSOR_FAULT is set with detail REFERENCE, and the third in a row makes the status
FAULTED, the melt rate code 0, with HEAT_SENSOR of detail SCAN (R121, R122, R126, R129; log 20). -/
def Obligations.ADiscardedScanIsCounted : Prop :=
  ∀ (s : State) (r : ScanReadings) (c : Scan) (x : Int), s.sensor.scan = some c → 12 ≤ c.run →
    x = max 0 (min 4095 r.reference) → x < (cfg s).refLo ∨ (cfg s).refHi < x →
    s.report.flags.length = 16 →
    ∃ t, exec (.scanComplete r) s = .next t ∧ t.sensor.scan = none ∧
      t.sensor.reference =
        readChannel s.sensor.reference (cfg s).refLo (cfg s).refHi x (now s) ∧
      t.sensor.discarded = min 3 (s.sensor.discarded + 1) ∧ t.sensor.good = 0 ∧
      t.sensor.latest = some (now s, false) ∧ t.sensor.surface = s.sensor.surface ∧
      t.sensor.air = s.sensor.air ∧ t.sensor.ice = s.sensor.ice ∧
      t.sensor.cold = s.sensor.cold ∧ t.sensor.icePresent = s.sensor.icePresent ∧
      t.sensor.level = s.sensor.level ∧ t.sensor.combined = s.sensor.combined ∧
      t.sensor.melt = (if 2 ≤ s.sensor.discarded then 0 else s.sensor.melt) ∧
      flagRecord t flagSensorFault = ⟨true, 1, 0, now s⟩ ∧
      (s.sensor.discarded = 2 → t.sensor.status = .faulted ∧
        flagRecord t flagHeatSensor = ⟨true, 2, 0, now s⟩) ∧
      t.time = s.time ∧ t.pins = s.pins ∧ t.lock = s.lock ∧ t.peers = s.peers ∧
      t.keepOut = s.keepOut

/-- The anemometers of a good scan with a window: each speed is its count by the factor over the
window, at most 1000; the combined speed is their mean, or the higher where both work and differ by
more than the limit, or that of the one that works, or 0; the counts of R130 follow it, and the
level takes the first step that applies (R123, R124, R130).  That a channel works as the same scan
has judged it (R125 before R124) is log 19; that the counts and the level are judged at the very
scan at which the status leaves FAULTED is log 49. -/
def Obligations.TheWindLevelFollowsTheSpeeds : Prop :=
  ∀ (s : State) (r : ScanReadings) (c : Scan) (w : Nat), s.sensor.scan = some c → 12 ≤ c.run →
    c.window = some w → (cfg s).sensor = true →
    (cfg s).refLo ≤ max 0 (min 4095 r.reference) → max 0 (min 4095 r.reference) ≤ (cfg s).refHi →
    ∃ t, exec (.scanComplete r) s = .next t ∧
      t.sensor.channelA.speed = min 1000 (c.countA * (cfg s).anemoFactor / w) ∧
      t.sensor.channelB.speed = min 1000 (c.countB * (cfg s).anemoFactor / w) ∧
      (∀ a b, a = t.sensor.channelA → b = t.sensor.channelB → t.sensor.combined =
        if a.working ∧ b.working then
          if a.speed - b.speed ≤ (cfg s).disagreeLimit ∧ b.speed - a.speed ≤ (cfg s).disagreeLimit
          then (a.speed + b.speed) / 2 else max a.speed b.speed
        else if a.working then a.speed else if b.working then b.speed else 0) ∧
      (t.sensor.status ≠ .faulted → ∀ v k l, v = t.sensor.combined →
        k = (if (cfg s).watchSpeed ≤ v then min 8 (s.sensor.watchCount + 1) else 0) →
        l = (if (cfg s).stowSpeed ≤ v then min 8 (s.sensor.stowCount + 1) else 0) →
        t.sensor.watchCount = k ∧ t.sensor.stowCount = l ∧
        (s.sensor.level ≠ .stow → (cfg s).gustSpeed ≤ v →
          t.sensor.level = .stow ∧ t.sensor.stowCause = some .gust) ∧
        (s.sensor.level ≠ .stow → v < (cfg s).gustSpeed → (cfg s).stowConfirm ≤ l →
          t.sensor.level = .stow ∧ t.sensor.stowCause = some .speed) ∧
        (s.sensor.level = .calm → v < (cfg s).gustSpeed → l < (cfg s).stowConfirm →
          t.sensor.level = if (cfg s).watchConfirm ≤ k then .watch else .calm) ∧
        (s.sensor.level = .stow ∨ s.sensor.level = .watch ∧ v < (cfg s).gustSpeed ∧
            l < (cfg s).stowConfirm →
          t.sensor.level = if v < (cfg s).calmSpeed ∧
            (cfg s).calmTime * 1000 ≤ s.sensor.calmRun.getD 0 then .calm else s.sensor.level))

/-- A sensor station whose level is STOW sends its WIND again 30000 ms after the last, with the
level's own cause, while its status is not FAULTED (R132); the STOW lamp toggles each 500 ms while
stow-blocked holds, begins a flash with its lit half (the model's choice, log 80), and is lit in
STOWING and STOWED where it does not hold; the LOCK lamp is lit while some entry covers a part of
the dish, and the FAULT line is low while a fault-group flag is set or the station FAULTED (R47,
R194).  The outputs are functions of the state (log 29). -/
def Obligations.TheStowIsToldAgain : Prop :=
  (∀ (s : State) (k r : Nat), s.seq.station = .ready → (cfg s).sensor = true →
    s.sensor.level = .stow → s.sensor.windRun = some r → 30000 ≤ r →
    (s.sensor.status ≠ .faulted → k = (if s.sensor.stowCause = some .gust then 1 else 0) →
      exec .windResend s = .next
        ((queueFrame s (.wind (cfg s).ownCell 2 s.sensor.combined k)).withSensor
          { s.sensor with windRun := some 0 })) ∧
    (s.sensor.status = .faulted → exec .windResend s = .next s)) ∧
  (∀ s : State, s.wind.blocked = true → 500 ≤ s.report.lampRun →
    exec .stowLampFlash s = .next (s.withReport { s.report with
      lampOn := !s.report.lampOn, lampRun := 0 })) ∧
  (∀ s : State,
    (lockLamp s = true ↔ ∃ e ∈ s.lock.list, scopeEmpty e.scope = false) ∧
    (s.wind.blocked = true → stowLamp s = s.report.lampOn) ∧
    (s.wind.blocked = false →
      (stowLamp s = true ↔ s.axis.motion = .stowing ∨ s.axis.motion = .stowed)) ∧
    (faultLine s = true ↔
      (∃ n ∈ [0, 1, 2, 3, 4, 5, 7, 8, 15], flagOn s n = true) ∨
        ∃ k, s.seq.station = .faulted k) ∧
    ((judgeBlocked s).wind.blocked =
      (s.wind.ordered && (blockCause s (lockMask s)).isSome)) ∧
    (s.wind.blocked = false → (judgeBlocked s).wind.blocked = true →
      stowLamp (judgeBlocked s) = true ∧ (judgeBlocked s).report.lampRun = 0))

/-! ### The Wind Unit -/

/-- A WIND of a dish with a place in the roster names its cell and is a level report of its level,
but of cause FAULTED, which leaves the entry not working; the station's entries elsewhere work no
more (R137, R139).  A STOW report puts the cell in STOW with its cause and begins the hold again,
and, where a READY station obeys the cell, gives the stow order (R140, R145), by which the station
leaves a compact it flies with reason STOW (R111), and which leaves the queue with the STOW entry
alone and stops the dish, starts the stow leg or finds the dish stowed (R5, R21, R22; the azimuth
of the entry is log 54), unless its elevation is locked, in fault or without reference (R25, R148);
a WATCH report moves CALM to WATCH and begins a settle interval again; a CALM report may release
STOW, SETTLE and WATCH (R141, R142, R143); an obeyed cell left without a working entry is in STOW
with cause NO_SENSOR (R144).  A field the layout does not define has the frame only read (R74).  In
FAULTED of kind CLASH the WIND of another station that bears the own number acts on its cell as any
other does (R76), and the own entry stays as it is (R138; log 81).  That the cell is judged once,
after the report and its order, is log 79; that without a configuration no hold or settle interval
ends is log 25. -/
def Obligations.WindReportsMoveTheCell : Prop :=
  (∀ (s : State) (c level speed cause : Nat), s.seq.station = .faulted .clash →
    s.seq.held = false → 1 ≤ s.seq.number → s.seq.number ≤ 59 → WindOk s.wind →
    (7 < c ∨ 2 < level ∨ 2 < cause →
      exec (.windReceived s.seq.number c level speed cause) s = .next (s.withLine { s.line with
        vetoCount := 0, passive := false })) ∧
    (c ≤ 7 → cause ≤ 2 → inRoster s c s.seq.number = true ∨ (cellAt s c).roster.length < 8 →
      ∀ lv, levelOf level = some lv → ∃ t,
        exec (.windReceived s.seq.number c level speed cause) s = .next t ∧
        (s.wind.ownEntry = false ∨ c ≠ (cfg s).ownCell → ∃ e ∈ (cellAt t c).roster,
          e.station = s.seq.number ∧ e.level = some lv ∧ e.working = decide (cause ≠ 2)) ∧
        (s.wind.ownEntry = true → ∀ e ∈ (cellAt s (cfg s).ownCell).roster,
          e.station = s.seq.number → e ∈ (cellAt t (cfg s).ownCell).roster) ∧
        (cause ≠ 2 → lv = .stow → s.seq.config = none ∨ 0 < (cfg s).stowHold →
          (cellAt t c).state = .stow ∧ (cellAt t c).lastStow = some (now s) ∧
          (cellAt t c).holdRun = 0 ∧
          ((cellAt s c).state ≠ .stow → obeys s c = true →
            t.wind.ordered = true ∧ t.axis.stowMark = true ∧ t.compact.stowMark = true)) ∧
        (cause ≠ 2 → lv = .watch → s.seq.config = none ∨ 0 < (cfg s).settleTime →
          (cellAt s c).state = .settle → workingEntries (cellAt s c) ≠ [] →
          (cellAt t c).state = .settle ∧ (cellAt t c).settleStart = some (now s) ∧
          (cellAt t c).settleRun = 0) ∧
        t.time = s.time ∧ t.lock = s.lock ∧ t.seq = s.seq ∧ t.sensor = s.sensor ∧
        t.keepOut = s.keepOut ∧ t.pins = s.pins)) ∧
  ∀ (s : State) (n c level speed cause : Nat), KnownDish s n → WindOk s.wind →
    (7 < c ∨ 2 < level ∨ 2 < cause →
      exec (.windReceived n c level speed cause) s = .next (frameRead s n)) ∧
    (c ≤ 7 → cause ≤ 2 → inRoster s c n = true ∨ (cellAt s c).roster.length < 8 →
      ∀ lv, levelOf level = some lv → ∃ t,
        exec (.windReceived n c level speed cause) s = .next t ∧
        (∃ e ∈ (cellAt t c).roster, e.station = n ∧ e.level = some lv ∧
          e.working = decide (cause ≠ 2)) ∧
        (∀ d, d ≠ c → ∀ e ∈ (cellAt t d).roster, e.station = n →
          e.working = false ∧ e.level = none) ∧
        (cause ≠ 2 → lv = .stow → (cellAt t c).state = .stow ∧
          (cellAt t c).cause = some (if cause = 1 then .gust else .speed) ∧
          (cellAt t c).lastStow = some (now s) ∧ (cellAt t c).holdRun = 0 ∧
          ((cellAt s c).state ≠ .stow → s.seq.station = .ready → obeys s c = true →
            t.wind.ordered = true ∧ t.axis.stowMark = true ∧ t.compact.stowMark = true)) ∧
        (cause ≠ 2 → lv = .watch → s.seq.config = none ∨ 0 < (cfg s).settleTime →
          (cellAt t c).state = (if (cellAt s c).state = .calm then .watch
            else (cellAt s c).state) ∧
          ((cellAt s c).state = .settle →
            (cellAt t c).settleStart = some (now s) ∧ (cellAt t c).settleRun = 0)) ∧
        (cause ≠ 2 → lv = .calm →
          ((cellAt s c).state = .calm → (cellAt t c).state = .calm) ∧
          ((cellAt s c).state = .watch →
            (cellAt t c).state = if allCalm (cellAt t c) then .calm else .watch)) ∧
        t.time = s.time ∧ t.lock = s.lock ∧ t.seq = s.seq ∧ t.sensor = s.sensor ∧
        t.keepOut = s.keepOut ∧ t.pins = s.pins ∧
        (cause ≠ 2 → lv = .calm → s.seq.config.isSome = true →
          ((cellAt s c).state = .stow → (cellAt t c).state =
            if (cfg s).stowHold * 1000 ≤ (cellAt s c).holdRun ∧ allCalm (cellAt t c) then .settle
            else .stow) ∧
          ((cellAt s c).state = .settle → (cellAt t c).state =
            if (cfg s).settleTime * 1000 ≤ (cellAt s c).settleRun then
              if allCalm (cellAt t c) then .calm
              else if someWatch (cellAt t c) then .watch else .settle
            else .settle)) ∧
        (cause = 2 → (∀ e ∈ (cellAt s c).roster, e.station ≠ n → e.working = false) →
          s.seq.station = .ready → obeys s c = true →
          (cellAt t c).state = .stow ∧ (cellAt t c).cause = some .noSensor ∧
          (cellAt t c).holdRun = 0 ∧ ((cellAt s c).state ≠ .stow →
            t.wind.ordered = true ∧ t.axis.stowMark = true ∧ t.compact.stowMark = true)) ∧
        (cause ≠ 2 → lv = .stow → (cellAt s c).state ≠ .stow → obeys s c = true →
          ∀ r, FliesAlone s r → LeftBy s t r reasonStow) ∧
        (cause ≠ 2 → lv = .stow → (cellAt s c).state ≠ .stow → s.seq.station = .ready →
          obeys s c = true → s.axis.stowMark = false → ∀ a : AxisUnit,
          a = { s.axis with
            stowMark := true, queue := [stowEntry s], jointHeld := false
            withdrawPending := false } →
          (s.axis.motion = .leg → t.axis = { stopping a .stow with queue := [stowEntry s] }) ∧
          (∀ x, s.axis.motion = .stopping → s.axis.stop = some x → t.axis = { a with
            stop := some { x with
              reasons := if .stow ∈ x.reasons then x.reasons else x.reasons ++ [.stow] } }) ∧
          (s.axis.motion = .halted → t.axis = a) ∧
          (s.axis.motion = .idle → stowBlocked s = true → t.axis = a) ∧
          (s.axis.motion = .gap → stowBlocked s = true → t.axis = { a with
            motion := .idle, releasedAz := false, releasedEl := false }) ∧
          (s.axis.motion = .idle ∨ s.axis.motion = .gap → stowBlocked s = false →
            s.axis.refEl = true →
            (((cfg s).stowEl : Int) ≤ s.axis.posEl → t.axis = { a with
              queue := [], motion := .stowed, releasedAz := false, releasedEl := false }) ∧
            (s.axis.posEl + (cfg s).tolerance < (cfg s).stowEl → t.axis = { a with
              queue := [{ stowEntry s with plan := some ⟨s.axis.posAz, s.axis.posEl, 1, 1⟩ }]
              motion := .stowing, leg := some (stowLeg s (stowEntry s)), gapRun := 0
              releasedAz := false, releasedEl := true }))))

/-- A cell in STOW whose hold has passed enters SETTLE where every working entry is CALM (R142);
one in SETTLE whose interval has passed enters CALM where every working entry is CALM, WATCH where
each is known and one is WATCH, and else stays (R143); the last obeyed cell to reach CALM gives the
calm notice (R146), by which STOWED becomes IDLE, a STOW entry that waits in IDLE or HALTED leaves,
a stop records CALM and loses its STOW entry, and a dish in motion loses the mark alone (R24);
stow-blocked then no longer holds. -/
def Obligations.CellsAreReleasedByTheirRuns : Prop :=
  ∀ (s : State) (c : Nat) (x : Cell), c < 8 → s.wind.cells.length = 8 → x = cellAt s c →
    s.seq.config.isSome = true →
    (x.state = .stow → (cfg s).stowHold * 1000 ≤ x.holdRun →
      exec (.stowHoldExpiry c) s = .next (if allCalm x then s.withWind { s.wind with
        cells := s.wind.cells.modify c fun y =>
          { y with state := .settle, settleStart := some (now s), settleRun := 0 } } else s)) ∧
    (x.state = .settle → (cfg s).settleTime * 1000 ≤ x.settleRun →
      (allCalm x = true → ∃ t, exec (.settleExpiry c) s = .next t ∧
        cellAt t c = { x with
          state := .calm, cause := none, settleStart := none, settleRun := 0 } ∧
        (∀ d, d ≠ c → cellAt t d = cellAt s d) ∧
        (s.wind.ordered = true → obeys s c = true →
          (∀ d, d ≠ c → obeys s d = true → (cellAt s d).state = .calm) →
          t.wind.ordered = false ∧ t.axis.stowMark = false ∧ t.compact.stowMark = false ∧
          t.wind.blocked = false ∧ ∀ a : AxisUnit,
          a = { s.axis with
            stowMark := false, queue := s.axis.queue.filter fun e => e.origin != .stow } →
          (s.axis.motion = .stowed → s.axis.queue = [] → t.axis = { a with
            motion := .idle, releasedAz := false, releasedEl := false }) ∧
          (s.axis.motion = .idle → a.queue = [] → t.axis = a) ∧
          (s.axis.motion = .halted → t.axis = a) ∧
          (∀ y, s.axis.motion = .stopping → s.axis.stop = some y → t.axis = { a with
            stop := some { y with
              reasons := if .calm ∈ y.reasons then y.reasons else y.reasons ++ [.calm] } }) ∧
          (s.axis.motion = .stowing ∨ s.axis.motion = .leg ∨ s.axis.motion = .gap →
            t.axis = { s.axis with stowMark := false })) ∧
        (s.wind.ordered = false ∨ obeys s c = false →
          t.axis = s.axis ∧ t.wind.ordered = s.wind.ordered) ∧
        t.time = s.time ∧ t.lock = s.lock ∧ t.seq = s.seq ∧ t.sensor = s.sensor) ∧
      (allCalm x = false → exec (.settleExpiry c) s = .next (if someWatch x then
        s.withWind { s.wind with cells := s.wind.cells.modify c fun y =>
          { y with state := .watch, cause := none, settleStart := none, settleRun := 0 } }
        else s)))

/-! ### The Heater Unit -/

/-- At a boundary in READY a selection is made (R155, R156): the duty of the melt rate is fixed,
the next boundary is the first later than the present array time, and the pointer moves past the
first zone taken; a taken zone ON stays ON with its run at 0, one in CLAIM keeps its claim, and any
other enters CLAIM, the new claims following the old in the order taken; an untaken zone becomes
WANT, with cause DUTY where it was ON; where demand does not hold, every enabled zone is OFF and
none is claimed.  The duty 0 of the codes 0 and 6 is log 52, a next boundary past the end of array
time log 76, the order of an INRUSH and a SHARE_ASK log 72, and that a selection that leaves no zone
in CLAIM ends the switching sequence (R159) log 33.  Zones in WANT may then be topped
up from shares set free (R158).  Before the boundary nothing happens (log 2), nor in a station that
is not READY. -/
def Obligations.ABoundaryMakesASelection : Prop :=
  ∀ (s : State) (b : Nat), s.heater.nextBoundary = some b →
    (s.time.sec < b → exec .heaterBoundary s = .next s) ∧
    (s.seq.station = .ready → b ≤ s.time.sec → ∀ taken,
      taken = takeWalk s.heater.zones (fun z => z.enable && demand s) (walk s)
        (heldShares s - s.share.motion) →
      ∃ t, exec .heaterBoundary s = .next t ∧
        t.heater.duty = dutyOf s.sensor.melt ∧
        t.heater.nextBoundary =
          some ((s.time.sec / (cfg s).heaterPeriod + 1) * (cfg s).heaterPeriod) ∧
        t.heater.pointer = (match taken with
          | i :: _ => (i + 1) % s.heater.zones.length
          | [] => s.heater.pointer) ∧
        (demand s = false →
          t.heater.zones = s.heater.zones.map
            (fun z => if z.enable then zoneOff .demand z else z) ∧
          t.heater.claims = [] ∧ t.heater.onOrder = []) ∧
        (demand s = true → ∀ i, i ∈ taken → ∀ z, s.heater.zones[i]? = some z → z.state = .on →
          t.heater.zones[i]? = some { z with onRun := 0 }) ∧
        t.axis = s.axis ∧ t.lock = s.lock ∧ t.compact = s.compact ∧ t.sensor = s.sensor ∧
        t.wind = s.wind ∧ t.time = s.time ∧ t.report = s.report ∧
        t.share.loans = s.share.loans ∧ t.share.motion = s.share.motion ∧
        (∀ newly, newly = taken.filter (fun i => match s.heater.zones[i]? with
            | some z => z.state != .on && z.state != .claim
            | none => false) →
          ∀ u : State, u = s.withHeater { s.heater with
            zones := s.heater.zones.mapIdx fun i z => selectZone (demand s) (taken.contains i) z
            pointer := (match taken with
              | i :: _ => (i + 1) % s.heater.zones.length
              | [] => s.heater.pointer)
            nextBoundary :=
              some ((s.time.sec / (cfg s).heaterPeriod + 1) * (cfg s).heaterPeriod)
            duty := dutyOf s.sensor.melt
            claims := s.heater.claims.filter (fun i => taken.contains i) ++ newly
            admitted := if s.heater.claims.filter (fun i => taken.contains i) ++ newly = [] then 0
              else s.heater.admitted
            onOrder := s.heater.onOrder.filter fun i => taken.contains i } →
          exec .heaterBoundary s = .next (settlePower s (heaterNotice u)) ∧
          (freeShares (heaterNotice u) ≤ freeShares s → t.heater = u.heater) ∧
          ∃ topped, t.heater.claims = u.heater.claims ++ topped) ∧
        (∀ (i : Nat) (z : Zone), s.heater.zones[i]? = some z → z.enable = false →
          t.heater.zones[i]? = some z) ∧
        (demand s = true → ∀ (i : Nat) (z : Zone), s.heater.zones[i]? = some z → z.enable = true →
          (i ∈ taken → z.state = .claim → t.heater.zones[i]? = some z) ∧
          (i ∈ taken → z.state ≠ .claim → z.state ≠ .on → t.heater.zones[i]? = some { z with
            state := .claim, switchedAt := none, onRun := 0 }) ∧
          (i ∉ taken → ∃ x, (x = ZoneState.want ∨ x = .claim) ∧
            t.heater.zones[i]? = some { z with
              state := x, switchedAt := none, onRun := 0
              lastCause := if z.state = .on then some .duty else z.lastCause }))) ∧
    (s.seq.station ≠ .ready → exec .heaterBoundary s = .next s)

/-- In an open window the next zone in CLAIM is switched on, at the window's opening and each 50 ms
after: its time is recorded, its run begins, its contactor is energised and its claim is removed
(R152, R159, R177); the sequence ends once no zone is claimed (log 33), and an opening ends one
that runs (log 68).  Taken before it is due, an event of the window changes nothing (log 2).  The
window ends 500 ms after its start: the claim is made anew from NONE where zones are still claimed,
by an INRUSH queued, and is NONE otherwise (R177), the INRUSH in the lowest
free slot (log 46). -/
def Obligations.InrushWindowsRun : Prop :=
  (∀ (s : State) (i : Nat) (rest : List Nat), s.heater.claims = i :: rest →
    (∀ n start, s.seq.station = .ready → s.share.claim = .won start n false → start ≤ nowMs s →
      ∃ t, exec .inrushWindowOpen s = .next t ∧
        t.heater = { s.heater with
          zones := s.heater.zones.mapIdx fun k z => if k = i then
            { z with state := .on, switchedAt := some (now s), onRun := 0 } else z
          claims := rest, onOrder := s.heater.onOrder ++ [i]
          admitted := if rest = [] then 0 else n - 1, stepRun := 0 } ∧
        t.share.claim = .won start n true ∧ t.share.claimCount = rest.length ∧
        t.axis = s.axis ∧ t.sensor = s.sensor ∧ t.time = s.time ∧ t.line = s.line ∧
        (i < s.heater.zones.length → contactor t i = true)) ∧
    (∀ n start, s.share.claim = .won start n true → s.heater.admitted ≠ 0 →
      50 ≤ s.heater.stepRun → ∃ t, exec .zoneSwitchOnStep s = .next t ∧
        t.heater = { s.heater with
          zones := s.heater.zones.mapIdx fun k z => if k = i then
            { z with state := .on, switchedAt := some (now s), onRun := 0 } else z
          claims := rest, onOrder := s.heater.onOrder ++ [i]
          admitted := if rest = [] then 0 else s.heater.admitted - 1, stepRun := 0 } ∧
        t.share.claim = s.share.claim ∧ t.share.claimCount = rest.length ∧
        t.axis = s.axis ∧ t.sensor = s.sensor ∧ t.time = s.time ∧ t.line = s.line ∧
        (i < s.heater.zones.length → contactor t i = true))) ∧
  (∀ (s : State) (start n : Nat), s.share.claim = .won start n true →
    (nowMs s < start + 500 → exec .inrushWindowEnd s = .next s) ∧
    (start + 500 ≤ nowMs s →
      (s.share.claimCount = 0 ∨ s.seq.station ≠ .ready →
        exec .inrushWindowEnd s = .next (s.withShare { s.share with claim := .none })) ∧
      (s.share.claimCount ≠ 0 → s.seq.station = .ready → s.seq.held = false →
        ∀ k w, freeSlot s.line.queue 0 8 = some k → w = max (nowMs s) s.share.busyUntil →
        exec .inrushWindowEnd s = .next { s with
          share := { s.share with claim := .queued }
          line := s.line.append k
            (TxEntry.fresh (.inrush ⟨w / 1000, w % 1000⟩ s.share.claimCount)) })))

/-- A zone ON whose run has reached the duty fraction of the period enters REST with cause DUTY, its
contactor released; at 100 percent it stays, and before it is due the event changes nothing (R152,
R160; log 2).  Where the free shares rise and demand holds, the zones in WANT that fit them enter
CLAIM, in wrapped order from the pointer (R158). -/
def Obligations.DutyEndsAZonesRun : Prop :=
  ∀ (s : State) (i : Nat) (z : Zone), s.heater.zones[i]? = some z → z.state = .on →
    (s.heater.duty = 100 ∨ z.onRun < s.heater.duty * (cfg s).heaterPeriod * 10 →
      exec (.dutyEnd i) s = .next s) ∧
    (s.heater.duty < 100 → s.heater.duty * (cfg s).heaterPeriod * 10 ≤ z.onRun →
      ∃ t, exec (.dutyEnd i) s = .next t ∧
        t.heater.zones[i]? = some { z with
          state := .rest, switchedAt := none, onRun := 0, lastCause := some .duty } ∧
        t.heater.onOrder = s.heater.onOrder.filter (· != i) ∧
        t.heater.duty = s.heater.duty ∧ t.heater.nextBoundary = s.heater.nextBoundary ∧
        t.heater.pointer = s.heater.pointer ∧ t.axis = s.axis ∧ t.lock = s.lock ∧
        t.compact = s.compact ∧ t.sensor = s.sensor ∧ t.wind = s.wind ∧ t.time = s.time ∧
        t.report = s.report ∧ t.share.loans = s.share.loans ∧ contactor t i = false ∧
        (∀ u : State, u = heaterNotice (s.withHeater { s.heater with
            zones := s.heater.zones.mapIdx fun k x => if k = i then
              { x with state := .rest, switchedAt := none, onRun := 0, lastCause := some .duty }
              else x
            onOrder := s.heater.onOrder.filter (· != i) }) →
          (freeShares u ≤ freeShares s ∨ demand s = false ∨ s.seq.station ≠ .ready →
            t.heater = u.heater) ∧
          (freeShares s < freeShares u → demand s = true → s.seq.station = .ready → ∀ taken,
            taken = takeWalk u.heater.zones (fun x => x.enable && x.state == .want) (walk s)
              (freeShares u) →
            t.heater = { u.heater with
              zones := u.heater.zones.mapIdx fun k x => if taken.contains k then
                { x with state := .claim, switchedAt := none, onRun := 0 } else x
              claims := s.heater.claims ++ taken })))

/-- A remote HEAT reset puts every zone that is not OFF in OFF with cause RESET, keeps the pointer,
the duty and the next boundary, and returns every BORROWED loan by a SHARE_BACK of its amount,
after the SHARE_ASK that the fall of B brings (log 72); LENT ones and busy-until are kept (R165,
R178), and neither the Lockout Unit nor the axes are acted on (R51). -/
def Obligations.AHeatResetSwitchesOff : Prop :=
  ∀ (s : State) (n : Nat), KnownConsole s n →
    (∀ target, target ≠ s.seq.number → exec (.resetHeat n target) s = .next (frameRead s n)) ∧
    (LoansOk s.share → ∃ t, exec (.resetHeat n s.seq.number) s = .next t ∧
      t.heater = { s.heater with
        zones := s.heater.zones.map (zoneOff .reset), claims := [], onOrder := []
        admitted := 0 } ∧
      t.share.loans = s.share.loans.filter (fun e => e.lent) ∧
      t.share.busyUntil = s.share.busyUntil ∧ t.share.motion = s.share.motion ∧
      t.lock = s.lock ∧ t.axis = s.axis ∧ t.compact = s.compact ∧ t.sensor = s.sensor ∧
      t.wind = s.wind ∧ t.time = s.time ∧ (∀ z, contactor t z = false) ∧
      exec (.resetHeat n s.seq.number) s = .next
        ((s.share.loans.filter fun e => !e.lent).foldl
          (fun v e => queueFrame (removeBorrowed v e.peer) (.shareBack e.peer e.amount))
          (allOff (frameRead s n) .reset)) ∧
      (transmits s = true → s.line.queue = [] →
        t.line.queue.map (·.frame) =
          (s.share.loans.filter fun e => !e.lent).map fun e => .shareBack e.peer e.amount))

/-! ### The Share Unit -/

/-- A READY station with a shortfall whose ask run has reached 5000 ms asks again, for the shortfall
held at 16, and begins the run again; without a shortfall it does not (R171).  A SHARE_ASK of
another dish is granted, by the smaller of the amount wanted and the spare, where the station is
READY, has spare, holds no BORROWED entry from the asker and has room for a LENT one; else, and for
an amount of 0 or above 16, it is only read; a grant to the asker that waits unstarted is revised to
the new ask, or withdrawn where it may no longer be given (R172).  That a SHARE_ASK and a
SHARE_GRANT take the lowest free slot is log 46. -/
def Obligations.SharesAreAskedAndGranted : Prop :=
  (∀ (s : State) (r : Nat), s.share.askRun = some r → 5000 ≤ r → s.seq.station = .ready →
    s.seq.held = false →
    (shortfall s = 0 → exec .askRunExpiry s = .next s) ∧
    (∀ k, shortfall s ≠ 0 → (∀ e ∈ s.line.queue, isAsk e = false) →
      freeSlot s.line.queue 0 8 = some k → exec .askRunExpiry s = .next { s with
        line := s.line.append k (TxEntry.fresh (.shareAsk (min (shortfall s) 16)))
        share := { s.share with askRun := some 0 } })) ∧
  (∀ (s : State) (n amount : Nat), KnownDish s n →
    (∀ e ∈ s.line.queue, isGrantTo n e = false ∨ e.started = true) →
    (amount = 0 ∨ 16 < amount ∨ s.seq.station ≠ .ready ∨ spareShares s = 0 ∨
        (findLoan s n false).isSome = true ∨
        (findLoan s n true).isSome = false ∧ 8 ≤ s.share.loans.length + newGrants s →
      exec (.shareAsk n amount) s = .next (frameRead s n)) ∧
    (amount ≠ 0 → amount ≤ 16 → s.seq.station = .ready → spareShares s ≠ 0 →
      (findLoan s n false).isSome = false →
      (findLoan s n true).isSome = true ∨ s.share.loans.length + newGrants s < 8 →
      ∀ k, freeSlot s.line.queue 0 8 = some k → exec (.shareAsk n amount) s = .next
        ((frameRead s n).withLine ((frameRead s n).line.append k
          { TxEntry.fresh (.shareGrant n (min amount (spareShares s)) 0) with
            stillWanted := amount })))) ∧
  (∀ (s : State) (n amount : Nat), KnownDish s n → amount ≠ 0 → amount ≤ 16 →
    (∃ e ∈ s.line.queue, isGrantTo n e = true ∧ e.started = false) →
    (s.seq.station ≠ .ready ∨ spareShares s = 0 ∨ (findLoan s n false).isSome = true ∨
        (findLoan s n true).isSome = false ∧ 8 ≤ s.share.loans.length + newGrants s →
      exec (.shareAsk n amount) s = .next ((frameRead s n).withLine { (frameRead s n).line with
        queue := s.line.queue.filter fun e => e.started || !isGrantTo n e })) ∧
    (s.seq.station = .ready → spareShares s ≠ 0 → (findLoan s n false).isSome = false →
      (findLoan s n true).isSome = true ∨ s.share.loans.length + newGrants s < 8 →
      exec (.shareAsk n amount) s = .next ((frameRead s n).withLine { (frameRead s n).line with
        queue := s.line.queue.map fun e => if isGrantTo n e && !e.started then { e with
          frame := .shareGrant n (min amount (spareShares s)) 0, stillWanted := amount } else e })))

/-- A SHARE_GRANT to this station is kept up to the shortfall, in the BORROWED entry from its
lender with the frame's expiry, and the rest is given back by a SHARE_BACK, queued last (log 72);
nothing is kept by a station that is not READY, or toward a peer it lends to, or with a full table
(R173), and that an entry from the lender then keeps its expiry is log 59; that B may so reach 64
is log 69.  A SHARE_GRANT to another borrower cuts the grant that waits for it, and withdraws one
that nothing is left of (R172). A SHARE_BACK to this lender lowers the LENT entry toward its
sender, and removes it at 0 (R174). -/
def Obligations.SharesAreKeptAndTakenBack : Prop :=
  (∀ (s : State) (n amount expiry kept : Nat), KnownDish s n → isDish s.seq.number = true →
    (amount = 0 ∨ 16 < amount →
      exec (.shareGrant n s.seq.number amount expiry) s = .next (frameRead s n)) ∧
    (1 ≤ amount → amount ≤ 16 →
      kept = (if s.seq.station ≠ .ready ∨ (findLoan s n true).isSome = true ∨
          (findLoan s n false).isSome = false ∧ 8 ≤ s.share.loans.length then 0
        else min amount (shortfall s)) →
      (kept = 0 → exec (.shareGrant n s.seq.number amount expiry) s = .next
        (if s.seq.station = .ready ∨ s.seq.station = .faulted .config then
          queueFrame (frameRead s n) (.shareBack n amount) else frameRead s n)) ∧
      (kept ≠ 0 → ∃ t, exec (.shareGrant n s.seq.number amount expiry) s = .next t ∧
        t.share.loans = (if (findLoan s n false).isSome then s.share.loans.map fun e =>
            if e.peer == n && !e.lent then
              { e with amount := e.amount + kept, expiry := expiry, grace := false, graceRun := 0 }
            else e
          else s.share.loans ++ [⟨n, false, kept, expiry, false, 0⟩]) ∧
        t.share.motion = s.share.motion ∧ t.axis = s.axis ∧ t.lock = s.lock ∧
        t.compact = s.compact ∧ t.sensor = s.sensor ∧ t.wind = s.wind ∧ t.time = s.time) ∧
      (kept ≠ 0 → ∀ v, v = settlePower (frameRead s n) ((frameRead s n).withShare { s.share with
          loans := if (findLoan s n false).isSome then s.share.loans.map fun e =>
              if e.peer == n && !e.lent then
                { e with amount := e.amount + kept, expiry := expiry, grace := false, graceRun := 0 }
              else e
            else s.share.loans ++ [⟨n, false, kept, expiry, false, 0⟩] }) →
        exec (.shareGrant n s.seq.number amount expiry) s =
          .next (if kept < amount then queueFrame v (.shareBack n (amount - kept)) else v)))) ∧
  (∀ (s : State) (n b amount expiry : Nat), KnownDish s n → b ≠ s.seq.number →
    ((∀ e ∈ s.line.queue, isGrantTo b e = false ∨ e.started = true) →
      exec (.shareGrant n b amount expiry) s = .next (frameRead s n)) ∧
    (∀ e a x, isDish b = true → 1 ≤ amount → amount ≤ 16 → s.line.queue = [e] →
      e.started = false → e.frame = .shareGrant b a x →
      exec (.shareGrant n b amount expiry) s = .next ((frameRead s n).withLine
        { (frameRead s n).line with
          queue := if e.stillWanted ≤ amount then [] else [{ e with
            frame := .shareGrant b (min a (e.stillWanted - amount)) x
            stillWanted := e.stillWanted - amount }] })) ∧
    (isDish b = true → 1 ≤ amount → amount ≤ 16 →
      exec (.shareGrant n b amount expiry) s = .next ((frameRead s n).withLine
        { (frameRead s n).line with
          queue := (s.line.queue.map fun e => match e.started, e.frame with
            | false, .shareGrant d a x => if d = b then { e with
                frame := .shareGrant b (min a (e.stillWanted - amount)) x
                stillWanted := e.stillWanted - amount } else e
            | _, _ => e).filter fun e =>
              e.started || !(isGrantTo b e && e.stillWanted == 0) }))) ∧
  (∀ (s : State) (n amount : Nat), KnownDish s n →
    (∀ l, l ≠ s.seq.number ∨ findLoan s n true = none →
      exec (.shareBack n l amount) s = .next (frameRead s n)) ∧
    (∀ e, findLoan s n true = some e → ∃ t,
      exec (.shareBack n s.seq.number amount) s = .next t ∧
      t.share.loans = (if e.amount ≤ amount then
          s.share.loans.filter fun x => !(x.peer == n && x.lent == true)
        else s.share.loans.map fun x =>
          if x.peer == n && x.lent then { x with amount := x.amount - amount } else x) ∧
      t.share.motion = s.share.motion ∧ t.axis = s.axis ∧ t.lock = s.lock ∧
      t.compact = s.compact ∧ t.sensor = s.sensor ∧ t.time = s.time))

/-- A BORROWED entry ends at its expiry, and the whole amount is given back, after the SHARE_ASK
that the fall of B brings (log 72), zones being shed first where the shares held would fall below
those committed (R161, R169); a LENT entry begins its grace at its expiry, and ends 2000 ms later;
a SHARE_BACK not started 2000 ms after its expiry is withdrawn (R174). -/
def Obligations.LoansEndAtTheirExpiry : Prop :=
  ∀ (s : State) (p : Nat),
    (∀ e, findLoan s p false = some e → e.expiry ≤ s.time.sec → ∃ u v t : State, ∃ c o,
      ShedBy s v (committedShares s + e.amount - heldShares s) c o ∧
      u = settlePower s (v.withShare { v.share with
        loans := s.share.loans.filter fun x => !(x.peer == p && x.lent == false) }) ∧
      u = removeBorrowed s p ∧
      t = enqueueEntry u { TxEntry.fresh (.shareBack p e.amount) with expiryRun := some 0 } ∧
      exec (.borrowedExpiry p) s = .next t ∧
      t.share.loans = s.share.loans.filter (fun x => !(x.peer == p && x.lent == false)) ∧
      t.share.motion = s.share.motion ∧ t.axis = s.axis ∧ t.lock = s.lock ∧
      t.compact = s.compact ∧ t.sensor = s.sensor ∧ t.time = s.time) ∧
    (∀ e, findLoan s p true = some e →
      (e.grace = false → e.expiry ≤ s.time.sec → exec (.lentExpiry p) s = .next (s.withShare
        { s.share with loans := s.share.loans.map fun x =>
          if x.peer == p && x.lent then { x with grace := true, graceRun := 0 } else x })) ∧
      (e.grace = true → 2000 ≤ e.graceRun → ∃ t, exec (.loanGraceEnd p) s = .next t ∧
        t.share.loans = s.share.loans.filter (fun x => !(x.peer == p && x.lent == true)) ∧
        t.share.motion = s.share.motion ∧ t.axis = s.axis ∧ t.lock = s.lock ∧
        t.compact = s.compact ∧ t.sensor = s.sensor ∧ t.time = s.time)) ∧
    exec (.shareBackWithdrawal p) s = .next (s.withLine { s.line with
      queue := s.line.queue.filter fun e => e.started || !isLateBack p e })

/-- An INRUSH taken sets busy-until 500 ms after the later of its window's start and busy-until as
it stands, its effective start, and an own INRUSH that waits unstarted proposes its window anew;
one of no zone or more than 8 is only read (R176, R177).  The own one acts at its completion alike,
and wins its window where the effective start plus 150 ms has not passed: the window opens at the
start, or at once where the start has passed, switching the first claimed zone on in READY; 150 ms
after the start or later the claim is made anew from NONE, or is NONE (R75, R159, R176, R177).
That busy-until may pass the last value of array time is log 61; that its window ends a sequence
still running is log 68, that the sequence ends once no zone is claimed log 33, and that the INRUSH
of a claim made anew takes the lowest free slot log 46. -/
def Obligations.AnInrushReservesItsWindow : Prop :=
  ∀ (s : State) (w : ATime) (z eff : Nat), w.ms ≤ 999 →
    eff = max (w.sec * 1000 + w.ms) s.share.busyUntil →
    (∀ n, KnownDish s n →
      (z = 0 ∨ 8 < z → exec (.inrush n w z) s = .next (frameRead s n)) ∧
      (1 ≤ z → z ≤ 8 → s.share.claim ≠ .queued → exec (.inrush n w z) s = .next
        ((frameRead s n).withShare { s.share with busyUntil := eff + 500 }))) ∧
    (∀ e, sendingEntry s = some e → e.frame = .inrush w z → nowMs s < eff →
      exec .attemptSucceeds s = .next { s with
        line := { s.line with
          queue := s.line.queue.filter fun x => x.age != e.age
          sending := none, txErrors := s.line.txErrors - 1 }
        share := { s.share with busyUntil := eff + 500, claim := .won eff z false } }) ∧
    (∀ n, KnownDish s n → 1 ≤ z → z ≤ 8 → s.share.claim = .queued → exec (.inrush n w z) s = .next
      (((frameRead s n).withShare { s.share with busyUntil := eff + 500 }).withLine
        { (frameRead s n).line with
          queue := s.line.queue.map fun e => match e.started, e.frame with
            | false, .inrush _ _ => { e with
                frame := .inrush (ofMs (max (nowMs s) (eff + 500))) s.share.claimCount }
            | _, _ => e })) ∧
    (∀ e, sendingEntry s = some e → e.frame = .inrush w z → ∀ u : State,
      u = { s with
        line := { s.line with
          queue := s.line.queue.filter fun x => x.age != e.age
          sending := none, txErrors := s.line.txErrors - 1 }
        share := { s.share with busyUntil := eff + 500, claim := .won eff z true } } →
      (eff ≤ nowMs s → nowMs s < eff + 150 →
        (s.seq.station ≠ .ready → exec .attemptSucceeds s = .next u) ∧
        (s.seq.station = .ready → s.heater.claims = [] → exec .attemptSucceeds s = .next
          (u.withHeater { s.heater with admitted := 0, stepRun := 0 })) ∧
        (s.seq.station = .ready → ∀ i rest, s.heater.claims = i :: rest → ∃ t,
          exec .attemptSucceeds s = .next t ∧
          t.heater = { s.heater with
            zones := s.heater.zones.mapIdx fun k x => if k = i then
              { x with state := .on, switchedAt := some (now s), onRun := 0 } else x
            claims := rest, onOrder := s.heater.onOrder ++ [i]
            admitted := if rest = [] then 0 else z - 1, stepRun := 0 } ∧
          t.share.claim = .won eff z true ∧ t.share.busyUntil = eff + 500 ∧
          t.share.claimCount = rest.length ∧ t.line = u.line ∧ t.axis = s.axis ∧
          t.time = s.time)) ∧
      (eff + 150 ≤ nowMs s →
        (s.share.claimCount = 0 ∨ s.seq.station ≠ .ready → exec .attemptSucceeds s = .next
          (u.withShare { u.share with claim := .none })) ∧
        (s.share.claimCount ≠ 0 → s.seq.station = .ready → s.seq.held = false →
          ∀ k, freeSlot u.line.queue 0 8 = some k → exec .attemptSucceeds s = .next
            ((u.withShare { u.share with claim := .queued }).withLine (u.line.append k
              (TxEntry.fresh (.inrush (ofMs (max (nowMs s) (eff + 500)))
                s.share.claimCount)))))))

/-- The own HOLD and RESUME act at their completion: the own number joins the hold set, or leaves
it, as another member's would (R75, R102), a RESUME being queued at once where the warning condition
no longer holds (R102), and a HELD record whose set empties entering MOVING (R101); the own
SHARE_GRANT makes its LENT entry, or adds to the one that stands, its grace cleared, or is LOAN_LOST
where its borrower is not PRESENT (R173; a full table is log 40); the own WIND is taken by the Wind
Unit as another station's, the own entry working while the own status is not FAULTED (R75, R138),
which for a WIND of cause SENSOR_FAULT is log 39.  That without a configuration no settle interval
ends is log 25. -/
def Obligations.OwnFramesActAtTheirCompletion : Prop :=
  ∀ (s : State) (e : TxEntry), sendingEntry s = some e →
    (∀ id r, e.frame = .hold id → findRecord s id = some r → isLive r = true →
      warning s = true → ∃ t, exec .attemptSucceeds s = .next t ∧
      findRecord t id = some { r with
        holds := if r.holds.contains s.seq.number then r.holds else r.holds ++ [s.seq.number]
        state := if r.state = .moving then .held else r.state } ∧ Elsewhere s t) ∧
    (∀ id r, e.frame = .hold id → findRecord s id = some r → isLive r = true →
      warning s = false → ∀ u : State, u = { s with
        line := { s.line with
          queue := s.line.queue.filter fun x => x.age != e.age
          sending := none, txErrors := s.line.txErrors - 1 }
        axis := if r.state = .moving ∧ r.inserted = true ∧ headIsJoint s id = true then
          { s.axis with jointHeld := true } else s.axis
        compact := { s.compact with
          list := s.compact.list.map fun x => if x.id == id then { x with
            holds := if x.holds.contains s.seq.number then x.holds
              else x.holds ++ [s.seq.number]
            state := if x.state == .moving then .held else x.state } else x } } →
      exec .attemptSucceeds s = .next (queueFrame u (.resume id)) ∧
      (transmits s = true → s.line.queue = [e] → ∃ t, exec .attemptSucceeds s = .next t ∧
        (t.line.queue.map (·.frame)).count (.resume id) = 1)) ∧
    (∀ id r, e.frame = .resume id → findRecord s id = some r → r.state = .held →
      r.holds.filter (· != s.seq.number) = [] → ∀ u : State, u = { s with
        line := { s.line with
          queue := s.line.queue.filter fun x => x.age != e.age
          sending := none, txErrors := s.line.txErrors - 1 }
        compact := { s.compact with
          list := s.compact.list.map fun x => if x.id == id then { x with
            holds := x.holds.filter (· != s.seq.number)
            state := if x.state == .held && (x.holds.filter (· != s.seq.number)).isEmpty
              then .moving else x.state } else x } } →
      findRecord u id = some { r with holds := [], state := .moving } ∧
      exec .attemptSucceeds s = .next (if r.inserted && headIsJoint s id then
        tryStart (u.withAxis { s.axis with jointHeld := false }) else u)) ∧
    (∀ id r, e.frame = .resume id → findRecord s id = some r →
      r.state = .forming ∨ r.state = .moving ∨
        r.state = .held ∧ r.holds.filter (· != s.seq.number) ≠ [] →
      ∃ t, exec .attemptSucceeds s = .next t ∧
      findRecord t id = some { r with holds := r.holds.filter (· != s.seq.number) } ∧
      Elsewhere s t) ∧
    (∀ b amount expiry, e.frame = .shareGrant b amount expiry → isPresent s b = true →
      findLoan s b true = none → findLoan s b false = none → s.share.loans.length < 8 →
      ∃ t, exec .attemptSucceeds s = .next t ∧
      t.share.loans = s.share.loans ++ [⟨b, true, amount, expiry, false, 0⟩] ∧
      t.share.motion = s.share.motion ∧ Elsewhere s t) ∧
    (∀ b amount expiry, e.frame = .shareGrant b amount expiry → isPresent s b = true →
      (findLoan s b true).isSome = true → ∃ t, exec .attemptSucceeds s = .next t ∧
      t.share.loans = s.share.loans.map (fun x => if x.peer == b && x.lent then
        { x with amount := x.amount + amount, expiry := expiry, grace := false, graceRun := 0 }
        else x) ∧
      t.share.motion = s.share.motion ∧ Elsewhere s t) ∧
    (∀ b amount expiry, e.frame = .shareGrant b amount expiry → isPresent s b = false →
      s.report.flags.length = 16 → ∃ t, exec .attemptSucceeds s = .next t ∧
      t.share.loans = s.share.loans ∧ flagRecord t flagLoanLost = ⟨true, b, 0, now s⟩ ∧
      t.share.motion = s.share.motion ∧ Elsewhere s t) ∧
    (∀ c level speed cause lv, e.frame = .wind c level speed cause → WindOk s.wind → c ≤ 7 →
      cause ≤ 2 → levelOf level = some lv → s.sensor.status ≠ .faulted →
      inRoster s c s.seq.number = true ∨ (cellAt s c).roster.length < 8 → ∃ t,
      exec .attemptSucceeds s = .next t ∧
      (∃ x ∈ (cellAt t c).roster, x.station = s.seq.number ∧ x.level = some lv ∧
        x.working = true) ∧
      (cause ≠ 2 → lv = .stow → (cellAt t c).state = .stow ∧
        (cellAt t c).cause = some (if cause = 1 then .gust else .speed) ∧
        (cellAt t c).lastStow = some (now s) ∧ (cellAt t c).holdRun = 0 ∧
        ((cellAt s c).state ≠ .stow → s.seq.station = .ready → s.seq.held = false →
          obeys s c = true →
          t.wind.ordered = true ∧ t.axis.stowMark = true ∧ t.compact.stowMark = true)) ∧
      (cause ≠ 2 → lv = .watch → s.seq.config = none ∨ 0 < (cfg s).settleTime →
        (cellAt t c).state = (if (cellAt s c).state = .calm then .watch
          else (cellAt s c).state)) ∧
      t.time = s.time ∧ t.lock = s.lock ∧ t.seq = s.seq ∧ t.sensor = s.sensor ∧
      t.keepOut = s.keepOut ∧ t.pins = s.pins)
end

