-- ==== Sys2Proof/Laws/Line.lean ====
section
/-! SUPPORT. What each operation on the transmit queue keeps of `LineOk`. -/

namespace Sys2Proof.Machine

/-- No unstarted frame of a queue is of a frame's group (R70). -/
def GroupFree (q : List TxEntry) (f : Frame) : Prop :=
  ∀ x ∈ q, x.started = false → sameGroup x.frame f = false

theorem sameGroup_congr {f g : Frame} (h : sameGroup f g = true) (x : Frame) :
    sameGroup x g = sameGroup x f ∧ sameGroup g x = sameGroup f x := by
  cases f <;> cases g <;> simp [sameGroup] at h <;> cases x <;> simp [sameGroup, h]

theorem sameGroup_class {f g : Frame} (h : sameGroup f g = true) :
    frameClass g = frameClass f := by
  cases f <;> cases g <;> simp [sameGroup] at h <;> simp [frameClass, h]

theorem sameGroup_groupless {x f : Frame}
    (h : ∀ y : Frame, sameGroup y f = false) : sameGroup x f = false := h x

theorem GroupFree.of_groupMate {l : LineUnit} {f : Frame} (h : l.groupMate f = none) :
    GroupFree l.queue f := by
  intro x hx hs
  have := List.find?_eq_none.1 h x hx
  simpa [hs] using this

theorem LineOk.sub {l : LineUnit} (h : LineOk l) (q : List TxEntry) (hq : q.Sublist l.queue) :
    LineOk { l with queue := q } :=
  ⟨h.1.sublist hq, fun e he => h.2.1 e (hq.subset he), h.2.2⟩

theorem LineOk.remove {l : LineUnit} (h : LineOk l) (age : Nat) : LineOk (l.remove age) :=
  h.sub _ List.filter_sublist

theorem LineOk.withdraw {l : LineUnit} (h : LineOk l) (p : TxEntry → Bool) :
    LineOk (l.withdraw p) :=
  h.sub _ List.filter_sublist

theorem LineOk.append {l : LineUnit} (h : LineOk l) {slot : Nat} {e : TxEntry}
    (hfree : ∀ x ∈ l.queue, x.slot ≠ slot) (h12 : slot < 12)
    (hc : frameClass e.frame ≠ .safety → slot < 8) (hg : GroupFree l.queue e.frame) :
    LineOk (l.append slot e) := by
  refine ⟨?_, ?_, h.2.2⟩
  · simp only [LineUnit.append, List.pairwise_append, List.pairwise_singleton, true_and,
      List.mem_singleton]
    refine ⟨h.1, ?_⟩
    rintro a ha b rfl
    exact ⟨hfree a ha, (h.2.1 a ha).2.1, fun hs _ => hg a ha hs⟩
  · intro x hx
    simp only [LineUnit.append, List.mem_append, List.mem_singleton] at hx ⊢
    obtain hx | rfl := hx
    · have := h.2.1 x hx
      exact ⟨this.1, by omega, this.2.2⟩
    · exact ⟨h12, by simp, hc⟩

/-- A change of the frames that keeps slot, age, started mark, class and group. -/
theorem LineOk.map {l : LineUnit} (h : LineOk l) (f : TxEntry → TxEntry)
    (hs : ∀ e ∈ l.queue, (f e).slot = e.slot) (ha : ∀ e ∈ l.queue, (f e).age = e.age)
    (hst : ∀ e ∈ l.queue, (f e).started = false → e.started = false)
    (hc : ∀ e ∈ l.queue, frameClass (f e).frame = frameClass e.frame)
    (hg : ∀ e ∈ l.queue, ∀ x : Frame, sameGroup (f e).frame x = sameGroup e.frame x ∧
      sameGroup x (f e).frame = sameGroup x e.frame) :
    LineOk { l with queue := l.queue.map f } := by
  refine ⟨?_, ?_, h.2.2⟩
  · rw [List.pairwise_map]
    refine List.Pairwise.imp_of_mem ?_ h.1
    intro a b ma mb hab
    refine ⟨by rw [hs a ma, hs b mb]; exact hab.1, by rw [ha a ma, ha b mb]; exact hab.2.1, ?_⟩
    intro sa sb
    rw [(hg a ma _).1, (hg b mb _).2]
    exact hab.2.2 (hst a ma sa) (hst b mb sb)
  · intro x hx
    simp only [List.mem_map] at hx
    obtain ⟨e, he, rfl⟩ := hx
    have := h.2.1 e he
    exact ⟨by rw [hs e he]; exact this.1, by rw [ha e he]; exact this.2.1, by
      rw [hs e he, hc e he]; exact this.2.2⟩

/-- Frames of a queue with one slot, or with one age, are one frame (R68). -/
theorem LineOk.same {l : LineUnit} (h : LineOk l) {a b : TxEntry} (ha : a ∈ l.queue)
    (hb : b ∈ l.queue) (hab : a.slot = b.slot ∨ a.age = b.age) : a = b := by
  obtain ⟨i, hi, rfl⟩ := List.getElem_of_mem ha
  obtain ⟨j, hj, rfl⟩ := List.getElem_of_mem hb
  have hw := List.pairwise_iff_getElem.1 h.1
  rcases Nat.lt_trichotomy i j with hij | hij | hij
  · have h1 := hw i j hi hj hij; have h2 := h1.1; have h3 := h1.2.1; omega
  · subst hij; rfl
  · have h1 := hw j i hj hi hij; have h2 := h1.1; have h3 := h1.2.1; omega

theorem LineOk.coalesce {l : LineUnit} (h : LineOk l) {f : Frame} {old : TxEntry}
    (ho : l.groupMate f = some old) : LineOk (l.coalesce old.age f) := by
  have hm := List.mem_of_find?_eq_some ho
  have hp := List.find?_some ho
  simp only [Bool.and_eq_true, Bool.not_eq_true'] at hp
  refine h.map (fun e => if e.age == old.age then { e with frame := f } else e) ?_ ?_ ?_ ?_ ?_
  · intro e _; split <;> rfl
  · intro e _; split <;> rfl
  · intro e _; split <;> exact id
  · intro e he; split
    · rename_i hage
      rw [h.same he hm (.inr (by simpa using hage))]
      exact sameGroup_class hp.2
    · rfl
  · intro e he x; split
    · rename_i hage
      rw [h.same he hm (.inr (by simpa using hage))]
      exact ⟨(sameGroup_congr hp.2 x).2, (sameGroup_congr hp.2 x).1⟩
    · exact ⟨rfl, rfl⟩

theorem LineOk.revise {l : LineUnit} (h : LineOk l) (f : TxEntry → TxEntry)
    (hc : ∀ e, frameClass (f e).frame = frameClass e.frame)
    (hg : ∀ e x, sameGroup (f e).frame x = sameGroup e.frame x ∧
      sameGroup x (f e).frame = sameGroup x e.frame) : LineOk (l.revise f) := by
  refine h.map _ ?_ ?_ ?_ ?_ ?_
  · intro e _; split <;> rfl
  · intro e _; split <;> rfl
  · intro e _; split
    · exact id
    · rename_i hs; intro _; simpa using hs
  · intro e _; split
    · rfl
    · exact hc e
  · intro e _ x; split
    · exact ⟨rfl, rfl⟩
    · exact hg e x

theorem freeSlot_free {q : List TxEntry} {lo n k : Nat} (h : freeSlot q lo n = some k) :
    (∀ x ∈ q, x.slot ≠ k) ∧ lo ≤ k ∧ k < lo + n := by
  have hm := List.mem_of_find?_eq_some h
  have hp := List.find?_some h
  simp only [List.mem_range'_1] at hm
  refine ⟨fun x hx hk => ?_, hm⟩
  simp only [Bool.not_eq_true', List.any_eq_false] at hp
  exact hp x hx (by simpa using hk)

theorem LineOk.slot_after_remove {l : LineUnit} (h : LineOk l) {v : TxEntry} (hv : v ∈ l.queue) :
    ∀ x ∈ (l.remove v.age).queue, x.slot ≠ v.slot := by
  intro x hx hs
  simp only [LineUnit.remove, List.mem_filter, bne_iff_ne, ne_eq] at hx
  exact hx.2 (by rw [h.same hx.1 hv (.inl hs)])

theorem GroupFree.remove {l : LineUnit} {f : Frame} (h : GroupFree l.queue f) (age : Nat) :
    GroupFree (l.remove age).queue f := fun x hx =>
  h x (List.mem_filter.1 hx).1

theorem LineOk.place {l l' : LineUnit} (h : LineOk l) {e : TxEntry} (hg : GroupFree l.queue e.frame)
    (hp : l.place e = some l') : LineOk l' := by
  unfold LineUnit.place at hp
  split at hp
  · rename_i k hk
    have := freeSlot_free hk
    cases hp
    exact h.append this.1 (by omega) (fun _ => by omega) hg
  · split at hp
    · rename_i v hv
      have hm := List.mem_of_find?_eq_some hv
      have hb := List.find?_some hv
      simp only [Bool.and_eq_true, decide_eq_true_eq] at hb
      cases hp
      exact (h.remove _).append (h.slot_after_remove hm) (by omega) (fun _ => hb.2) (hg.remove _)
    · cases hp

theorem LineUnit.victim_mem {l : LineUnit} {v : TxEntry} (h : l.victim = some v) : v ∈ l.queue := by
  unfold LineUnit.victim at h
  simp only [Option.orElse_eq_orElse, Option.orElse_eq_or, Option.or_eq_some_iff] at h
  rcases h with h | ⟨_, h | ⟨_, h | ⟨_, h | ⟨_, h⟩⟩⟩⟩
  all_goals first
    | exact List.mem_of_find?_eq_some h
    | exact List.mem_reverse.1 (List.mem_of_find?_eq_some h)

theorem LineOk.placeSafety {l : LineUnit} (h : LineOk l) {e : TxEntry}
    (hg : GroupFree l.queue e.frame) (hc : frameClass e.frame = .safety) :
    LineOk (l.placeSafety e).1 := by
  unfold LineUnit.placeSafety
  split
  · rename_i k hk
    simp only [Option.orElse_eq_orElse, Option.orElse_eq_or, Option.or_eq_some_iff] at hk
    have hk' : (∀ x ∈ l.queue, x.slot ≠ k) ∧ k < 12 := by
      rcases hk with hk | ⟨_, hk⟩
      · have := freeSlot_free hk; exact ⟨this.1, by omega⟩
      · have := freeSlot_free hk; exact ⟨this.1, by omega⟩
    exact h.append hk'.1 hk'.2 (fun hn => absurd hc hn) hg
  · split
    · rename_i v hv
      have hm := LineUnit.victim_mem hv
      exact (h.remove _).append (h.slot_after_remove hm) (h.2.1 v hm).1 (fun hn => absurd hc hn)
        (hg.remove _)
    · exact h

/-- Placing a frame touches the queue and the ages alone. -/
theorem LineUnit.place_counters {l l' : LineUnit} {e : TxEntry} (h : l.place e = some l') :
    l' = { l with queue := l'.queue, nextAge := l'.nextAge } := by
  unfold LineUnit.place at h
  split at h
  · cases h; rfl
  · split at h
    · cases h; rfl
    · cases h

theorem LineUnit.placeSafety_counters (l : LineUnit) (e : TxEntry) :
    (l.placeSafety e).1 =
      { l with queue := (l.placeSafety e).1.queue, nextAge := (l.placeSafety e).1.nextAge } := by
  unfold LineUnit.placeSafety
  split
  · rfl
  · split <;> rfl

/-- A frame that has started keeps its slot when a COORD or ROUTINE frame is placed (R71). -/
theorem LineUnit.place_started {l l' : LineUnit} (ok : LineOk l) {e x : TxEntry}
    (h : l.place e = some l') (hx : x ∈ l.queue) (hs : x.started = true) : x ∈ l'.queue := by
  unfold LineUnit.place at h
  split at h
  · cases h; exact List.mem_append_left _ hx
  · split at h
    · rename_i v hv
      cases h
      refine List.mem_append_left _ (List.mem_filter.2 ⟨hx, ?_⟩)
      have hb := List.find?_some hv
      have hm := List.mem_of_find?_eq_some hv
      simp only [isDisplaceable, Bool.and_eq_true, Bool.not_eq_true'] at hb
      simp only [bne_iff_ne, ne_eq]
      intro ha
      rw [ok.same hx hm (.inr ha)] at hs
      rw [hb.1.1.1] at hs
      cases hs
    · cases h

/-- The queue never holds more than 12 frames (R68). -/
theorem LineOk.length_le {l : LineUnit} (h : LineOk l) : l.queue.length ≤ 12 := by
  have hn : (l.queue.map (·.slot)).Nodup := by
    rw [List.Nodup, List.pairwise_map]
    exact h.1.imp fun hab => hab.1
  have hs : l.queue.map (·.slot) ⊆ List.range 12 := by
    intro x hx
    obtain ⟨e, he, rfl⟩ := List.mem_map.1 hx
    exact List.mem_range.2 (h.2.1 e he).1
  have := (hn.subperm hs).length_le
  simpa using this

end Sys2Proof.Machine
end

