-- ==== Sys2Proof/Laws/State.lean ====
section
/-! SUPPORT. One lemma per block per update of the state, so that no later proof unfolds a record
update. -/

namespace Sys2Proof.Machine

@[simp] theorem withPending_pending (s : State) (x : List Instr) : (s.withPending x).pending = x := rfl
@[simp] theorem withPending_pins (s : State) (x : List Instr) : (s.withPending x).pins = s.pins := rfl
@[simp] theorem withPending_seq (s : State) (x : List Instr) : (s.withPending x).seq = s.seq := rfl
@[simp] theorem withPending_line (s : State) (x : List Instr) : (s.withPending x).line = s.line := rfl
@[simp] theorem withPending_time (s : State) (x : List Instr) : (s.withPending x).time = s.time := rfl
@[simp] theorem withPending_peers (s : State) (x : List Instr) : (s.withPending x).peers = s.peers := rfl
@[simp] theorem withPending_axis (s : State) (x : List Instr) : (s.withPending x).axis = s.axis := rfl
@[simp] theorem withPending_lock (s : State) (x : List Instr) : (s.withPending x).lock = s.lock := rfl
@[simp] theorem withPending_keepOut (s : State) (x : List Instr) : (s.withPending x).keepOut = s.keepOut := rfl
@[simp] theorem withPending_compact (s : State) (x : List Instr) : (s.withPending x).compact = s.compact := rfl
@[simp] theorem withPending_sensor (s : State) (x : List Instr) : (s.withPending x).sensor = s.sensor := rfl
@[simp] theorem withPending_wind (s : State) (x : List Instr) : (s.withPending x).wind = s.wind := rfl
@[simp] theorem withPending_heater (s : State) (x : List Instr) : (s.withPending x).heater = s.heater := rfl
@[simp] theorem withPending_share (s : State) (x : List Instr) : (s.withPending x).share = s.share := rfl
@[simp] theorem withPending_report (s : State) (x : List Instr) : (s.withPending x).report = s.report := rfl
@[simp] theorem withPending_free (s : State) (x : List Instr) : (s.withPending x).free = s.free := rfl

@[simp] theorem withPins_pins (s : State) (x : Pins) : (s.withPins x).pins = x := rfl
@[simp] theorem withPins_pending (s : State) (x : Pins) : (s.withPins x).pending = s.pending := rfl
@[simp] theorem withPins_seq (s : State) (x : Pins) : (s.withPins x).seq = s.seq := rfl
@[simp] theorem withPins_line (s : State) (x : Pins) : (s.withPins x).line = s.line := rfl
@[simp] theorem withPins_time (s : State) (x : Pins) : (s.withPins x).time = s.time := rfl
@[simp] theorem withPins_peers (s : State) (x : Pins) : (s.withPins x).peers = s.peers := rfl
@[simp] theorem withPins_axis (s : State) (x : Pins) : (s.withPins x).axis = s.axis := rfl
@[simp] theorem withPins_lock (s : State) (x : Pins) : (s.withPins x).lock = s.lock := rfl
@[simp] theorem withPins_keepOut (s : State) (x : Pins) : (s.withPins x).keepOut = s.keepOut := rfl
@[simp] theorem withPins_compact (s : State) (x : Pins) : (s.withPins x).compact = s.compact := rfl
@[simp] theorem withPins_sensor (s : State) (x : Pins) : (s.withPins x).sensor = s.sensor := rfl
@[simp] theorem withPins_wind (s : State) (x : Pins) : (s.withPins x).wind = s.wind := rfl
@[simp] theorem withPins_heater (s : State) (x : Pins) : (s.withPins x).heater = s.heater := rfl
@[simp] theorem withPins_share (s : State) (x : Pins) : (s.withPins x).share = s.share := rfl
@[simp] theorem withPins_report (s : State) (x : Pins) : (s.withPins x).report = s.report := rfl
@[simp] theorem withPins_free (s : State) (x : Pins) : (s.withPins x).free = s.free := rfl

@[simp] theorem withSeq_seq (s : State) (x : SeqUnit) : (s.withSeq x).seq = x := rfl
@[simp] theorem withSeq_pending (s : State) (x : SeqUnit) : (s.withSeq x).pending = s.pending := rfl
@[simp] theorem withSeq_pins (s : State) (x : SeqUnit) : (s.withSeq x).pins = s.pins := rfl
@[simp] theorem withSeq_line (s : State) (x : SeqUnit) : (s.withSeq x).line = s.line := rfl
@[simp] theorem withSeq_time (s : State) (x : SeqUnit) : (s.withSeq x).time = s.time := rfl
@[simp] theorem withSeq_peers (s : State) (x : SeqUnit) : (s.withSeq x).peers = s.peers := rfl
@[simp] theorem withSeq_axis (s : State) (x : SeqUnit) : (s.withSeq x).axis = s.axis := rfl
@[simp] theorem withSeq_lock (s : State) (x : SeqUnit) : (s.withSeq x).lock = s.lock := rfl
@[simp] theorem withSeq_keepOut (s : State) (x : SeqUnit) : (s.withSeq x).keepOut = s.keepOut := rfl
@[simp] theorem withSeq_compact (s : State) (x : SeqUnit) : (s.withSeq x).compact = s.compact := rfl
@[simp] theorem withSeq_sensor (s : State) (x : SeqUnit) : (s.withSeq x).sensor = s.sensor := rfl
@[simp] theorem withSeq_wind (s : State) (x : SeqUnit) : (s.withSeq x).wind = s.wind := rfl
@[simp] theorem withSeq_heater (s : State) (x : SeqUnit) : (s.withSeq x).heater = s.heater := rfl
@[simp] theorem withSeq_share (s : State) (x : SeqUnit) : (s.withSeq x).share = s.share := rfl
@[simp] theorem withSeq_report (s : State) (x : SeqUnit) : (s.withSeq x).report = s.report := rfl
@[simp] theorem withSeq_free (s : State) (x : SeqUnit) : (s.withSeq x).free = s.free := rfl

@[simp] theorem withLine_line (s : State) (x : LineUnit) : (s.withLine x).line = x := rfl
@[simp] theorem withLine_pending (s : State) (x : LineUnit) : (s.withLine x).pending = s.pending := rfl
@[simp] theorem withLine_pins (s : State) (x : LineUnit) : (s.withLine x).pins = s.pins := rfl
@[simp] theorem withLine_seq (s : State) (x : LineUnit) : (s.withLine x).seq = s.seq := rfl
@[simp] theorem withLine_time (s : State) (x : LineUnit) : (s.withLine x).time = s.time := rfl
@[simp] theorem withLine_peers (s : State) (x : LineUnit) : (s.withLine x).peers = s.peers := rfl
@[simp] theorem withLine_axis (s : State) (x : LineUnit) : (s.withLine x).axis = s.axis := rfl
@[simp] theorem withLine_lock (s : State) (x : LineUnit) : (s.withLine x).lock = s.lock := rfl
@[simp] theorem withLine_keepOut (s : State) (x : LineUnit) : (s.withLine x).keepOut = s.keepOut := rfl
@[simp] theorem withLine_compact (s : State) (x : LineUnit) : (s.withLine x).compact = s.compact := rfl
@[simp] theorem withLine_sensor (s : State) (x : LineUnit) : (s.withLine x).sensor = s.sensor := rfl
@[simp] theorem withLine_wind (s : State) (x : LineUnit) : (s.withLine x).wind = s.wind := rfl
@[simp] theorem withLine_heater (s : State) (x : LineUnit) : (s.withLine x).heater = s.heater := rfl
@[simp] theorem withLine_share (s : State) (x : LineUnit) : (s.withLine x).share = s.share := rfl
@[simp] theorem withLine_report (s : State) (x : LineUnit) : (s.withLine x).report = s.report := rfl
@[simp] theorem withLine_free (s : State) (x : LineUnit) : (s.withLine x).free = s.free := rfl

@[simp] theorem withTime_time (s : State) (x : TimeUnit) : (s.withTime x).time = x := rfl
@[simp] theorem withTime_pending (s : State) (x : TimeUnit) : (s.withTime x).pending = s.pending := rfl
@[simp] theorem withTime_pins (s : State) (x : TimeUnit) : (s.withTime x).pins = s.pins := rfl
@[simp] theorem withTime_seq (s : State) (x : TimeUnit) : (s.withTime x).seq = s.seq := rfl
@[simp] theorem withTime_line (s : State) (x : TimeUnit) : (s.withTime x).line = s.line := rfl
@[simp] theorem withTime_peers (s : State) (x : TimeUnit) : (s.withTime x).peers = s.peers := rfl
@[simp] theorem withTime_axis (s : State) (x : TimeUnit) : (s.withTime x).axis = s.axis := rfl
@[simp] theorem withTime_lock (s : State) (x : TimeUnit) : (s.withTime x).lock = s.lock := rfl
@[simp] theorem withTime_keepOut (s : State) (x : TimeUnit) : (s.withTime x).keepOut = s.keepOut := rfl
@[simp] theorem withTime_compact (s : State) (x : TimeUnit) : (s.withTime x).compact = s.compact := rfl
@[simp] theorem withTime_sensor (s : State) (x : TimeUnit) : (s.withTime x).sensor = s.sensor := rfl
@[simp] theorem withTime_wind (s : State) (x : TimeUnit) : (s.withTime x).wind = s.wind := rfl
@[simp] theorem withTime_heater (s : State) (x : TimeUnit) : (s.withTime x).heater = s.heater := rfl
@[simp] theorem withTime_share (s : State) (x : TimeUnit) : (s.withTime x).share = s.share := rfl
@[simp] theorem withTime_report (s : State) (x : TimeUnit) : (s.withTime x).report = s.report := rfl
@[simp] theorem withTime_free (s : State) (x : TimeUnit) : (s.withTime x).free = s.free := rfl

@[simp] theorem withPeers_peers (s : State) (x : PeerUnit) : (s.withPeers x).peers = x := rfl
@[simp] theorem withPeers_pending (s : State) (x : PeerUnit) : (s.withPeers x).pending = s.pending := rfl
@[simp] theorem withPeers_pins (s : State) (x : PeerUnit) : (s.withPeers x).pins = s.pins := rfl
@[simp] theorem withPeers_seq (s : State) (x : PeerUnit) : (s.withPeers x).seq = s.seq := rfl
@[simp] theorem withPeers_line (s : State) (x : PeerUnit) : (s.withPeers x).line = s.line := rfl
@[simp] theorem withPeers_time (s : State) (x : PeerUnit) : (s.withPeers x).time = s.time := rfl
@[simp] theorem withPeers_axis (s : State) (x : PeerUnit) : (s.withPeers x).axis = s.axis := rfl
@[simp] theorem withPeers_lock (s : State) (x : PeerUnit) : (s.withPeers x).lock = s.lock := rfl
@[simp] theorem withPeers_keepOut (s : State) (x : PeerUnit) : (s.withPeers x).keepOut = s.keepOut := rfl
@[simp] theorem withPeers_compact (s : State) (x : PeerUnit) : (s.withPeers x).compact = s.compact := rfl
@[simp] theorem withPeers_sensor (s : State) (x : PeerUnit) : (s.withPeers x).sensor = s.sensor := rfl
@[simp] theorem withPeers_wind (s : State) (x : PeerUnit) : (s.withPeers x).wind = s.wind := rfl
@[simp] theorem withPeers_heater (s : State) (x : PeerUnit) : (s.withPeers x).heater = s.heater := rfl
@[simp] theorem withPeers_share (s : State) (x : PeerUnit) : (s.withPeers x).share = s.share := rfl
@[simp] theorem withPeers_report (s : State) (x : PeerUnit) : (s.withPeers x).report = s.report := rfl
@[simp] theorem withPeers_free (s : State) (x : PeerUnit) : (s.withPeers x).free = s.free := rfl

@[simp] theorem withAxis_axis (s : State) (x : AxisUnit) : (s.withAxis x).axis = x := rfl
@[simp] theorem withAxis_pending (s : State) (x : AxisUnit) : (s.withAxis x).pending = s.pending := rfl
@[simp] theorem withAxis_pins (s : State) (x : AxisUnit) : (s.withAxis x).pins = s.pins := rfl
@[simp] theorem withAxis_seq (s : State) (x : AxisUnit) : (s.withAxis x).seq = s.seq := rfl
@[simp] theorem withAxis_line (s : State) (x : AxisUnit) : (s.withAxis x).line = s.line := rfl
@[simp] theorem withAxis_time (s : State) (x : AxisUnit) : (s.withAxis x).time = s.time := rfl
@[simp] theorem withAxis_peers (s : State) (x : AxisUnit) : (s.withAxis x).peers = s.peers := rfl
@[simp] theorem withAxis_lock (s : State) (x : AxisUnit) : (s.withAxis x).lock = s.lock := rfl
@[simp] theorem withAxis_keepOut (s : State) (x : AxisUnit) : (s.withAxis x).keepOut = s.keepOut := rfl
@[simp] theorem withAxis_compact (s : State) (x : AxisUnit) : (s.withAxis x).compact = s.compact := rfl
@[simp] theorem withAxis_sensor (s : State) (x : AxisUnit) : (s.withAxis x).sensor = s.sensor := rfl
@[simp] theorem withAxis_wind (s : State) (x : AxisUnit) : (s.withAxis x).wind = s.wind := rfl
@[simp] theorem withAxis_heater (s : State) (x : AxisUnit) : (s.withAxis x).heater = s.heater := rfl
@[simp] theorem withAxis_share (s : State) (x : AxisUnit) : (s.withAxis x).share = s.share := rfl
@[simp] theorem withAxis_report (s : State) (x : AxisUnit) : (s.withAxis x).report = s.report := rfl
@[simp] theorem withAxis_free (s : State) (x : AxisUnit) : (s.withAxis x).free = s.free := rfl

@[simp] theorem withLock_lock (s : State) (x : LockUnit) : (s.withLock x).lock = x := rfl
@[simp] theorem withLock_pending (s : State) (x : LockUnit) : (s.withLock x).pending = s.pending := rfl
@[simp] theorem withLock_pins (s : State) (x : LockUnit) : (s.withLock x).pins = s.pins := rfl
@[simp] theorem withLock_seq (s : State) (x : LockUnit) : (s.withLock x).seq = s.seq := rfl
@[simp] theorem withLock_line (s : State) (x : LockUnit) : (s.withLock x).line = s.line := rfl
@[simp] theorem withLock_time (s : State) (x : LockUnit) : (s.withLock x).time = s.time := rfl
@[simp] theorem withLock_peers (s : State) (x : LockUnit) : (s.withLock x).peers = s.peers := rfl
@[simp] theorem withLock_axis (s : State) (x : LockUnit) : (s.withLock x).axis = s.axis := rfl
@[simp] theorem withLock_keepOut (s : State) (x : LockUnit) : (s.withLock x).keepOut = s.keepOut := rfl
@[simp] theorem withLock_compact (s : State) (x : LockUnit) : (s.withLock x).compact = s.compact := rfl
@[simp] theorem withLock_sensor (s : State) (x : LockUnit) : (s.withLock x).sensor = s.sensor := rfl
@[simp] theorem withLock_wind (s : State) (x : LockUnit) : (s.withLock x).wind = s.wind := rfl
@[simp] theorem withLock_heater (s : State) (x : LockUnit) : (s.withLock x).heater = s.heater := rfl
@[simp] theorem withLock_share (s : State) (x : LockUnit) : (s.withLock x).share = s.share := rfl
@[simp] theorem withLock_report (s : State) (x : LockUnit) : (s.withLock x).report = s.report := rfl
@[simp] theorem withLock_free (s : State) (x : LockUnit) : (s.withLock x).free = s.free := rfl

@[simp] theorem withKeepOut_keepOut (s : State) (x : List KeepEntry) : (s.withKeepOut x).keepOut = x := rfl
@[simp] theorem withKeepOut_pending (s : State) (x : List KeepEntry) : (s.withKeepOut x).pending = s.pending := rfl
@[simp] theorem withKeepOut_pins (s : State) (x : List KeepEntry) : (s.withKeepOut x).pins = s.pins := rfl
@[simp] theorem withKeepOut_seq (s : State) (x : List KeepEntry) : (s.withKeepOut x).seq = s.seq := rfl
@[simp] theorem withKeepOut_line (s : State) (x : List KeepEntry) : (s.withKeepOut x).line = s.line := rfl
@[simp] theorem withKeepOut_time (s : State) (x : List KeepEntry) : (s.withKeepOut x).time = s.time := rfl
@[simp] theorem withKeepOut_peers (s : State) (x : List KeepEntry) : (s.withKeepOut x).peers = s.peers := rfl
@[simp] theorem withKeepOut_axis (s : State) (x : List KeepEntry) : (s.withKeepOut x).axis = s.axis := rfl
@[simp] theorem withKeepOut_lock (s : State) (x : List KeepEntry) : (s.withKeepOut x).lock = s.lock := rfl
@[simp] theorem withKeepOut_compact (s : State) (x : List KeepEntry) : (s.withKeepOut x).compact = s.compact := rfl
@[simp] theorem withKeepOut_sensor (s : State) (x : List KeepEntry) : (s.withKeepOut x).sensor = s.sensor := rfl
@[simp] theorem withKeepOut_wind (s : State) (x : List KeepEntry) : (s.withKeepOut x).wind = s.wind := rfl
@[simp] theorem withKeepOut_heater (s : State) (x : List KeepEntry) : (s.withKeepOut x).heater = s.heater := rfl
@[simp] theorem withKeepOut_share (s : State) (x : List KeepEntry) : (s.withKeepOut x).share = s.share := rfl
@[simp] theorem withKeepOut_report (s : State) (x : List KeepEntry) : (s.withKeepOut x).report = s.report := rfl
@[simp] theorem withKeepOut_free (s : State) (x : List KeepEntry) : (s.withKeepOut x).free = s.free := rfl

@[simp] theorem withCompact_compact (s : State) (x : CompactUnit) : (s.withCompact x).compact = x := rfl
@[simp] theorem withCompact_pending (s : State) (x : CompactUnit) : (s.withCompact x).pending = s.pending := rfl
@[simp] theorem withCompact_pins (s : State) (x : CompactUnit) : (s.withCompact x).pins = s.pins := rfl
@[simp] theorem withCompact_seq (s : State) (x : CompactUnit) : (s.withCompact x).seq = s.seq := rfl
@[simp] theorem withCompact_line (s : State) (x : CompactUnit) : (s.withCompact x).line = s.line := rfl
@[simp] theorem withCompact_time (s : State) (x : CompactUnit) : (s.withCompact x).time = s.time := rfl
@[simp] theorem withCompact_peers (s : State) (x : CompactUnit) : (s.withCompact x).peers = s.peers := rfl
@[simp] theorem withCompact_axis (s : State) (x : CompactUnit) : (s.withCompact x).axis = s.axis := rfl
@[simp] theorem withCompact_lock (s : State) (x : CompactUnit) : (s.withCompact x).lock = s.lock := rfl
@[simp] theorem withCompact_keepOut (s : State) (x : CompactUnit) : (s.withCompact x).keepOut = s.keepOut := rfl
@[simp] theorem withCompact_sensor (s : State) (x : CompactUnit) : (s.withCompact x).sensor = s.sensor := rfl
@[simp] theorem withCompact_wind (s : State) (x : CompactUnit) : (s.withCompact x).wind = s.wind := rfl
@[simp] theorem withCompact_heater (s : State) (x : CompactUnit) : (s.withCompact x).heater = s.heater := rfl
@[simp] theorem withCompact_share (s : State) (x : CompactUnit) : (s.withCompact x).share = s.share := rfl
@[simp] theorem withCompact_report (s : State) (x : CompactUnit) : (s.withCompact x).report = s.report := rfl
@[simp] theorem withCompact_free (s : State) (x : CompactUnit) : (s.withCompact x).free = s.free := rfl

@[simp] theorem withSensor_sensor (s : State) (x : SensorUnit) : (s.withSensor x).sensor = x := rfl
@[simp] theorem withSensor_pending (s : State) (x : SensorUnit) : (s.withSensor x).pending = s.pending := rfl
@[simp] theorem withSensor_pins (s : State) (x : SensorUnit) : (s.withSensor x).pins = s.pins := rfl
@[simp] theorem withSensor_seq (s : State) (x : SensorUnit) : (s.withSensor x).seq = s.seq := rfl
@[simp] theorem withSensor_line (s : State) (x : SensorUnit) : (s.withSensor x).line = s.line := rfl
@[simp] theorem withSensor_time (s : State) (x : SensorUnit) : (s.withSensor x).time = s.time := rfl
@[simp] theorem withSensor_peers (s : State) (x : SensorUnit) : (s.withSensor x).peers = s.peers := rfl
@[simp] theorem withSensor_axis (s : State) (x : SensorUnit) : (s.withSensor x).axis = s.axis := rfl
@[simp] theorem withSensor_lock (s : State) (x : SensorUnit) : (s.withSensor x).lock = s.lock := rfl
@[simp] theorem withSensor_keepOut (s : State) (x : SensorUnit) : (s.withSensor x).keepOut = s.keepOut := rfl
@[simp] theorem withSensor_compact (s : State) (x : SensorUnit) : (s.withSensor x).compact = s.compact := rfl
@[simp] theorem withSensor_wind (s : State) (x : SensorUnit) : (s.withSensor x).wind = s.wind := rfl
@[simp] theorem withSensor_heater (s : State) (x : SensorUnit) : (s.withSensor x).heater = s.heater := rfl
@[simp] theorem withSensor_share (s : State) (x : SensorUnit) : (s.withSensor x).share = s.share := rfl
@[simp] theorem withSensor_report (s : State) (x : SensorUnit) : (s.withSensor x).report = s.report := rfl
@[simp] theorem withSensor_free (s : State) (x : SensorUnit) : (s.withSensor x).free = s.free := rfl

@[simp] theorem withWind_wind (s : State) (x : WindUnit) : (s.withWind x).wind = x := rfl
@[simp] theorem withWind_pending (s : State) (x : WindUnit) : (s.withWind x).pending = s.pending := rfl
@[simp] theorem withWind_pins (s : State) (x : WindUnit) : (s.withWind x).pins = s.pins := rfl
@[simp] theorem withWind_seq (s : State) (x : WindUnit) : (s.withWind x).seq = s.seq := rfl
@[simp] theorem withWind_line (s : State) (x : WindUnit) : (s.withWind x).line = s.line := rfl
@[simp] theorem withWind_time (s : State) (x : WindUnit) : (s.withWind x).time = s.time := rfl
@[simp] theorem withWind_peers (s : State) (x : WindUnit) : (s.withWind x).peers = s.peers := rfl
@[simp] theorem withWind_axis (s : State) (x : WindUnit) : (s.withWind x).axis = s.axis := rfl
@[simp] theorem withWind_lock (s : State) (x : WindUnit) : (s.withWind x).lock = s.lock := rfl
@[simp] theorem withWind_keepOut (s : State) (x : WindUnit) : (s.withWind x).keepOut = s.keepOut := rfl
@[simp] theorem withWind_compact (s : State) (x : WindUnit) : (s.withWind x).compact = s.compact := rfl
@[simp] theorem withWind_sensor (s : State) (x : WindUnit) : (s.withWind x).sensor = s.sensor := rfl
@[simp] theorem withWind_heater (s : State) (x : WindUnit) : (s.withWind x).heater = s.heater := rfl
@[simp] theorem withWind_share (s : State) (x : WindUnit) : (s.withWind x).share = s.share := rfl
@[simp] theorem withWind_report (s : State) (x : WindUnit) : (s.withWind x).report = s.report := rfl
@[simp] theorem withWind_free (s : State) (x : WindUnit) : (s.withWind x).free = s.free := rfl

@[simp] theorem withHeater_heater (s : State) (x : HeaterUnit) : (s.withHeater x).heater = x := rfl
@[simp] theorem withHeater_pending (s : State) (x : HeaterUnit) : (s.withHeater x).pending = s.pending := rfl
@[simp] theorem withHeater_pins (s : State) (x : HeaterUnit) : (s.withHeater x).pins = s.pins := rfl
@[simp] theorem withHeater_seq (s : State) (x : HeaterUnit) : (s.withHeater x).seq = s.seq := rfl
@[simp] theorem withHeater_line (s : State) (x : HeaterUnit) : (s.withHeater x).line = s.line := rfl
@[simp] theorem withHeater_time (s : State) (x : HeaterUnit) : (s.withHeater x).time = s.time := rfl
@[simp] theorem withHeater_peers (s : State) (x : HeaterUnit) : (s.withHeater x).peers = s.peers := rfl
@[simp] theorem withHeater_axis (s : State) (x : HeaterUnit) : (s.withHeater x).axis = s.axis := rfl
@[simp] theorem withHeater_lock (s : State) (x : HeaterUnit) : (s.withHeater x).lock = s.lock := rfl
@[simp] theorem withHeater_keepOut (s : State) (x : HeaterUnit) : (s.withHeater x).keepOut = s.keepOut := rfl
@[simp] theorem withHeater_compact (s : State) (x : HeaterUnit) : (s.withHeater x).compact = s.compact := rfl
@[simp] theorem withHeater_sensor (s : State) (x : HeaterUnit) : (s.withHeater x).sensor = s.sensor := rfl
@[simp] theorem withHeater_wind (s : State) (x : HeaterUnit) : (s.withHeater x).wind = s.wind := rfl
@[simp] theorem withHeater_share (s : State) (x : HeaterUnit) : (s.withHeater x).share = s.share := rfl
@[simp] theorem withHeater_report (s : State) (x : HeaterUnit) : (s.withHeater x).report = s.report := rfl
@[simp] theorem withHeater_free (s : State) (x : HeaterUnit) : (s.withHeater x).free = s.free := rfl

@[simp] theorem withShare_share (s : State) (x : ShareUnit) : (s.withShare x).share = x := rfl
@[simp] theorem withShare_pending (s : State) (x : ShareUnit) : (s.withShare x).pending = s.pending := rfl
@[simp] theorem withShare_pins (s : State) (x : ShareUnit) : (s.withShare x).pins = s.pins := rfl
@[simp] theorem withShare_seq (s : State) (x : ShareUnit) : (s.withShare x).seq = s.seq := rfl
@[simp] theorem withShare_line (s : State) (x : ShareUnit) : (s.withShare x).line = s.line := rfl
@[simp] theorem withShare_time (s : State) (x : ShareUnit) : (s.withShare x).time = s.time := rfl
@[simp] theorem withShare_peers (s : State) (x : ShareUnit) : (s.withShare x).peers = s.peers := rfl
@[simp] theorem withShare_axis (s : State) (x : ShareUnit) : (s.withShare x).axis = s.axis := rfl
@[simp] theorem withShare_lock (s : State) (x : ShareUnit) : (s.withShare x).lock = s.lock := rfl
@[simp] theorem withShare_keepOut (s : State) (x : ShareUnit) : (s.withShare x).keepOut = s.keepOut := rfl
@[simp] theorem withShare_compact (s : State) (x : ShareUnit) : (s.withShare x).compact = s.compact := rfl
@[simp] theorem withShare_sensor (s : State) (x : ShareUnit) : (s.withShare x).sensor = s.sensor := rfl
@[simp] theorem withShare_wind (s : State) (x : ShareUnit) : (s.withShare x).wind = s.wind := rfl
@[simp] theorem withShare_heater (s : State) (x : ShareUnit) : (s.withShare x).heater = s.heater := rfl
@[simp] theorem withShare_report (s : State) (x : ShareUnit) : (s.withShare x).report = s.report := rfl
@[simp] theorem withShare_free (s : State) (x : ShareUnit) : (s.withShare x).free = s.free := rfl

@[simp] theorem withReport_report (s : State) (x : ReportUnit) : (s.withReport x).report = x := rfl
@[simp] theorem withReport_pending (s : State) (x : ReportUnit) : (s.withReport x).pending = s.pending := rfl
@[simp] theorem withReport_pins (s : State) (x : ReportUnit) : (s.withReport x).pins = s.pins := rfl
@[simp] theorem withReport_seq (s : State) (x : ReportUnit) : (s.withReport x).seq = s.seq := rfl
@[simp] theorem withReport_line (s : State) (x : ReportUnit) : (s.withReport x).line = s.line := rfl
@[simp] theorem withReport_time (s : State) (x : ReportUnit) : (s.withReport x).time = s.time := rfl
@[simp] theorem withReport_peers (s : State) (x : ReportUnit) : (s.withReport x).peers = s.peers := rfl
@[simp] theorem withReport_axis (s : State) (x : ReportUnit) : (s.withReport x).axis = s.axis := rfl
@[simp] theorem withReport_lock (s : State) (x : ReportUnit) : (s.withReport x).lock = s.lock := rfl
@[simp] theorem withReport_keepOut (s : State) (x : ReportUnit) : (s.withReport x).keepOut = s.keepOut := rfl
@[simp] theorem withReport_compact (s : State) (x : ReportUnit) : (s.withReport x).compact = s.compact := rfl
@[simp] theorem withReport_sensor (s : State) (x : ReportUnit) : (s.withReport x).sensor = s.sensor := rfl
@[simp] theorem withReport_wind (s : State) (x : ReportUnit) : (s.withReport x).wind = s.wind := rfl
@[simp] theorem withReport_heater (s : State) (x : ReportUnit) : (s.withReport x).heater = s.heater := rfl
@[simp] theorem withReport_share (s : State) (x : ReportUnit) : (s.withReport x).share = s.share := rfl
@[simp] theorem withReport_free (s : State) (x : ReportUnit) : (s.withReport x).free = s.free := rfl

@[simp] theorem withFree_free (s : State) (x : Nat) : (s.withFree x).free = x := rfl
@[simp] theorem withFree_pending (s : State) (x : Nat) : (s.withFree x).pending = s.pending := rfl
@[simp] theorem withFree_pins (s : State) (x : Nat) : (s.withFree x).pins = s.pins := rfl
@[simp] theorem withFree_seq (s : State) (x : Nat) : (s.withFree x).seq = s.seq := rfl
@[simp] theorem withFree_line (s : State) (x : Nat) : (s.withFree x).line = s.line := rfl
@[simp] theorem withFree_time (s : State) (x : Nat) : (s.withFree x).time = s.time := rfl
@[simp] theorem withFree_peers (s : State) (x : Nat) : (s.withFree x).peers = s.peers := rfl
@[simp] theorem withFree_axis (s : State) (x : Nat) : (s.withFree x).axis = s.axis := rfl
@[simp] theorem withFree_lock (s : State) (x : Nat) : (s.withFree x).lock = s.lock := rfl
@[simp] theorem withFree_keepOut (s : State) (x : Nat) : (s.withFree x).keepOut = s.keepOut := rfl
@[simp] theorem withFree_compact (s : State) (x : Nat) : (s.withFree x).compact = s.compact := rfl
@[simp] theorem withFree_sensor (s : State) (x : Nat) : (s.withFree x).sensor = s.sensor := rfl
@[simp] theorem withFree_wind (s : State) (x : Nat) : (s.withFree x).wind = s.wind := rfl
@[simp] theorem withFree_heater (s : State) (x : Nat) : (s.withFree x).heater = s.heater := rfl
@[simp] theorem withFree_share (s : State) (x : Nat) : (s.withFree x).share = s.share := rfl
@[simp] theorem withFree_report (s : State) (x : Nat) : (s.withFree x).report = s.report := rfl

end Sys2Proof.Machine
end

