-- ==== Sys2Proof/Laws/Quiet.lean ====
section
/-! SUPPORT. What queueing a frame, setting a flag and settling the power account can change: the
transmit queue, the zones, the account and the flags, and nothing else. -/

namespace Sys2Proof.Machine

/-- Everything but the transmit queue, the zones, the ask, the claim, the account's own figures and
the free values is unchanged, and the queue stays as R68 gives it. -/
structure Silent (s t : State) : Prop where
  pending : t.pending = s.pending
  pins : t.pins = s.pins
  seq : t.seq = s.seq
  time : t.time = s.time
  peers : t.peers = s.peers
  lock : t.lock = s.lock
  keepOut : t.keepOut = s.keepOut
  sensor : t.sensor = s.sensor
  axis : t.axis = s.axis
  compact : t.compact = s.compact
  wind : t.wind = s.wind
  report : t.report = s.report
  motion : t.share.motion = s.share.motion
  loans : t.share.loans = s.share.loans
  busy : t.share.busyUntil = s.share.busyUntil
  counters : t.line = { s.line with queue := t.line.queue, nextAge := t.line.nextAge }
  line : LineOk s.line → LineOk t.line

theorem Silent.refl (s : State) : Silent s s := by constructor <;> first | rfl | exact id

theorem Silent.trans {s t u : State} (h : Silent s t) (k : Silent t u) : Silent s u where
  pending := k.pending.trans h.pending
  pins := k.pins.trans h.pins
  seq := k.seq.trans h.seq
  time := k.time.trans h.time
  peers := k.peers.trans h.peers
  lock := k.lock.trans h.lock
  keepOut := k.keepOut.trans h.keepOut
  sensor := k.sensor.trans h.sensor
  axis := k.axis.trans h.axis
  compact := k.compact.trans h.compact
  wind := k.wind.trans h.wind
  report := k.report.trans h.report
  motion := k.motion.trans h.motion
  loans := k.loans.trans h.loans
  busy := k.busy.trans h.busy
  counters := by rw [k.counters, h.counters]
  line := k.line ∘ h.line

variable {s0 s : State}

theorem Silent.withLine (h : Silent s0 s) {l : LineUnit}
    (hc : l = { s.line with queue := l.queue, nextAge := l.nextAge })
    (hl : LineOk s.line → LineOk l) : Silent s0 (s.withLine l) :=
  h.trans { Silent.refl s with counters := hc, line := hl }

theorem Silent.withHeater (h : Silent s0 s) (x : HeaterUnit) : Silent s0 (s.withHeater x) :=
  h.trans { Silent.refl s with }

theorem Silent.withFree (h : Silent s0 s) (x : Nat) : Silent s0 (s.withFree x) :=
  h.trans { Silent.refl s with }

theorem Silent.withShare (h : Silent s0 s) {x : ShareUnit} (hm : x.motion = s.share.motion)
    (hl : x.loans = s.share.loans) (hb : x.busyUntil = s.share.busyUntil) :
    Silent s0 (s.withShare x) :=
  h.trans { Silent.refl s with motion := hm, loans := hl, busy := hb }

/-! ### The transmit queue -/

theorem claimFromNone_silent (h : Silent s0 s) : Silent s0 (claimFromNone s) := by
  unfold claimFromNone
  have idle : Silent s0 (s.withShare { s.share with claim := .none }) := h.withShare rfl rfl rfl
  dsimp only
  split
  · split
    · rename_i l hl
      refine Silent.withLine (Silent.withShare h (by rfl) (by rfl) (by rfl))
        (LineUnit.place_counters hl) fun ok => LineOk.place ok (fun x _ _ => ?_) hl
      cases x.frame <;> rfl
    · exact idle
  · exact idle

theorem queueAgain_silent (h : Silent s0 s) {f : Frame} (hf : ∀ x, sameGroup x f = false) :
    Silent s0 (queueAgain s f) := by
  unfold queueAgain
  split
  · rename_i l hl
    exact h.withLine (LineUnit.place_counters hl) fun ok => ok.place (fun x _ _ => hf _) hl
  · exact h

theorem onLost_silent (h : Silent s0 s) (e : TxEntry) : Silent s0 (onLost s e) := by
  unfold onLost
  split
  case h_5 => exact claimFromNone_silent h
  case h_6 => exact h
  all_goals
    split
    · exact h
    · exact queueAgain_silent h fun x => by cases x <;> rfl

theorem onRefused_silent (h : Silent s0 s) (e : TxEntry) : Silent s0 (onRefused s e) := by
  unfold onRefused
  split
  · exact h.withShare rfl rfl rfl
  · exact h

theorem enqueueNew_silent (h : Silent s0 s) {e : TxEntry}
    (hg : GroupFree s.line.queue e.frame) : Silent s0 (enqueueNew s e) := by
  unfold enqueueNew
  split
  · rename_i hc
    have := fun ok : LineOk s.line => ok.placeSafety hg hc
    split
    · rename_i l v hl
      have hc := LineUnit.placeSafety_counters s.line e
      rw [hl] at hc
      exact onLost_silent (h.withLine hc fun ok => by simpa [hl] using this ok) v
    · rename_i l hl
      have hc := LineUnit.placeSafety_counters s.line e
      rw [hl] at hc
      exact h.withLine hc fun ok => by simpa [hl] using this ok
  · split
    · rename_i l hl
      exact h.withLine (LineUnit.place_counters hl) fun ok => ok.place hg hl
    · exact onRefused_silent h e

theorem enqueueEntry_silent (h : Silent s0 s) (e : TxEntry) : Silent s0 (enqueueEntry s e) := by
  unfold enqueueEntry
  split
  · split
    · rename_i old ho
      exact h.withLine rfl fun ok => ok.coalesce ho
    · rename_i ho
      exact enqueueNew_silent h (GroupFree.of_groupMate ho)
  · exact h

theorem enqueue_silent (h : Silent s0 s) (f : Frame) : Silent s0 (enqueue s f) :=
  enqueueEntry_silent h _

theorem withdrawFrames_silent (h : Silent s0 s) (p : TxEntry → Bool) :
    Silent s0 (withdrawFrames s p) :=
  h.withLine rfl fun ok => ok.withdraw p

theorem reviseFrames_silent (h : Silent s0 s) {f : TxEntry → TxEntry}
    (hc : ∀ e, frameClass (f e).frame = frameClass e.frame)
    (hg : ∀ e x, sameGroup (f e).frame x = sameGroup e.frame x ∧
      sameGroup x (f e).frame = sameGroup x e.frame) : Silent s0 (reviseFrames s f) :=
  h.withLine rfl fun ok => ok.revise f hc hg

/-! ### The account -/

theorem reviseInrush_silent (h : Silent s0 s) : Silent s0 (reviseInrush s) := by
  refine reviseFrames_silent h (fun e => ?_) fun e x => ?_
  · split
    · rename_i he; rw [he]; rfl
    · rfl
  · split
    · rename_i he; rw [he]; cases x <;> exact ⟨rfl, rfl⟩
    · exact ⟨rfl, rfl⟩

theorem updateClaim_silent (h : Silent s0 s) : Silent s0 (updateClaim s) := by
  unfold updateClaim
  split
  · split
    · exact claimFromNone_silent h
    · exact h
  · split
    · exact (withdrawFrames_silent h _).withShare rfl rfl rfl
    · exact reviseInrush_silent h
  · exact h

theorem heaterNotice_silent (h : Silent s0 s) : Silent s0 (heaterNotice s) := by
  unfold heaterNotice
  dsimp only
  split
  · exact h
  · exact updateClaim_silent (h.withShare rfl rfl rfl)

theorem topUp_silent (h : Silent s0 s) : Silent s0 (topUp s) := by
  unfold topUp
  split
  · exact heaterNotice_silent (h.withHeater _)
  · exact h

theorem queueAsk_silent (h : Silent s0 s) : Silent s0 (queueAsk s) :=
  (enqueue_silent h _).withShare rfl rfl rfl

theorem updateAsk_silent (h : Silent s0 s) : Silent s0 (updateAsk s) := by
  unfold updateAsk
  split
  · split
    · exact withdrawFrames_silent h _
    · have hr := reviseFrames_silent h
        (f := fun e => if isAsk e then { e with frame := .shareAsk (askAmount s) } else e)
        (fun e => by
          unfold isAsk
          cases he : e.frame <;> simp [he, frameClass])
        (fun e x => by
          unfold isAsk
          cases he : e.frame <;> cases x <;> simp [he, sameGroup])
      dsimp only
      split
      · split
        · exact hr
        · exact queueAsk_silent hr
      · exact queueAsk_silent hr
  · exact h

theorem settlePower_silent (h : Silent s0 s) (before : State) : Silent s0 (settlePower before s) := by
  unfold settlePower
  split
  · exact updateAsk_silent (topUp_silent h)
  · exact updateAsk_silent h

theorem shed_silent (h : Silent s0 s) (n : Nat) : Silent s0 (shed s n) := by
  unfold shed
  split
  · exact h
  · exact heaterNotice_silent (h.withHeater _)

theorem allOff_silent (h : Silent s0 s) (c : OffCause) : Silent s0 (allOff s c) :=
  settlePower_silent (heaterNotice_silent (h.withHeater _)) _

theorem heaterMaskNotice_silent (h : Silent s0 s) (old new : Scope) :
    Silent s0 (heaterMaskNotice s old new) := by
  unfold heaterMaskNotice
  split
  · exact allOff_silent h _
  · exact h

theorem heaterConditions_silent (h : Silent s0 s) (had : Bool) :
    Silent s0 (heaterConditions s had) := by
  unfold heaterConditions
  split
  · exact allOff_silent h _
  · exact h

theorem queueFrame_silent (h : Silent s0 s) (f : Frame) : Silent s0 (queueFrame s f) :=
  settlePower_silent (enqueue_silent h f) _

theorem queueEvent_silent (h : Silent s0 s) (n : Nat) : Silent s0 (queueEvent s n) := by
  unfold queueEvent
  split
  · exact enqueue_silent h _
  · exact h

theorem takeFree_silent (h : Silent s0 s) : Silent s0 (takeFree s).2 := h.withFree _

/-! ### Loans, commits and flags -/

/-- Everything but the Line Unit, the Heater Unit, the Share Unit, the flags and the free values is
unchanged, and what holds of those units still holds. -/
structure Quiet (s t : State) : Prop where
  pending : t.pending = s.pending
  pins : t.pins = s.pins
  seq : t.seq = s.seq
  time : t.time = s.time
  peers : t.peers = s.peers
  lock : t.lock = s.lock
  keepOut : t.keepOut = s.keepOut
  sensor : t.sensor = s.sensor
  axis : t.axis = s.axis
  compact : t.compact = s.compact
  wind : t.wind = s.wind
  kept : t.report.pending = s.report.pending
  flags : t.report.flags.length = s.report.flags.length
  line : LineOk s.line → LineOk t.line
  share : LoansOk s.share → LoansOk t.share

theorem Quiet.refl (s : State) : Quiet s s := by constructor <;> first | rfl | exact id

theorem Quiet.trans {s t u : State} (h : Quiet s t) (k : Quiet t u) : Quiet s u where
  pending := k.pending.trans h.pending
  pins := k.pins.trans h.pins
  seq := k.seq.trans h.seq
  time := k.time.trans h.time
  peers := k.peers.trans h.peers
  lock := k.lock.trans h.lock
  keepOut := k.keepOut.trans h.keepOut
  sensor := k.sensor.trans h.sensor
  axis := k.axis.trans h.axis
  compact := k.compact.trans h.compact
  wind := k.wind.trans h.wind
  kept := k.kept.trans h.kept
  flags := k.flags.trans h.flags
  line := k.line ∘ h.line
  share := k.share ∘ h.share

theorem Silent.quiet {s t : State} (h : Silent s t) : Quiet s t where
  pending := h.pending
  pins := h.pins
  seq := h.seq
  time := h.time
  peers := h.peers
  lock := h.lock
  keepOut := h.keepOut
  sensor := h.sensor
  axis := h.axis
  compact := h.compact
  wind := h.wind
  kept := by rw [h.report]
  flags := by rw [h.report]
  line := h.line
  share := by unfold LoansOk; rw [h.loans]; exact id

theorem Quiet.silent {s0 s t : State} (h : Quiet s0 s) (k : Silent s t) : Quiet s0 t :=
  h.trans k.quiet

theorem Quiet.withShare (h : Quiet s0 s) {x : ShareUnit} (hx : LoansOk s.share → LoansOk x) :
    Quiet s0 (s.withShare x) :=
  h.trans { Quiet.refl s with share := hx }

theorem Quiet.withReport (h : Quiet s0 s) {x : ReportUnit} (hp : x.pending = s.report.pending)
    (hf : x.flags.length = s.report.flags.length) : Quiet s0 (s.withReport x) :=
  h.trans { Quiet.refl s with kept := hp, flags := hf }

theorem onLost_quiet (h : Quiet s0 s) (e : TxEntry) :
    Quiet s0 (onLost s e) := h.silent (onLost_silent (.refl s) e)

theorem claimFromNone_quiet (h : Quiet s0 s) :
    Quiet s0 (claimFromNone s) := h.silent (claimFromNone_silent (.refl s))

theorem enqueueEntry_quiet (h : Quiet s0 s) (e : TxEntry) :
    Quiet s0 (enqueueEntry s e) := h.silent (enqueueEntry_silent (.refl s) e)

theorem enqueue_quiet (h : Quiet s0 s) (f : Frame) :
    Quiet s0 (enqueue s f) := h.silent (enqueue_silent (.refl s) f)

theorem withdrawFrames_quiet (h : Quiet s0 s) (p : TxEntry → Bool) :
    Quiet s0 (withdrawFrames s p) := h.silent (withdrawFrames_silent (.refl s) p)

theorem reviseInrush_quiet (h : Quiet s0 s) :
    Quiet s0 (reviseInrush s) := h.silent (reviseInrush_silent (.refl s))

theorem heaterNotice_quiet (h : Quiet s0 s) :
    Quiet s0 (heaterNotice s) := h.silent (heaterNotice_silent (.refl s))

theorem updateAsk_quiet (h : Quiet s0 s) :
    Quiet s0 (updateAsk s) := h.silent (updateAsk_silent (.refl s))

theorem settlePower_quiet (h : Quiet s0 s) (before : State) : Quiet s0 (settlePower before s) :=
  h.silent (settlePower_silent (.refl s) before)

theorem shed_quiet (h : Quiet s0 s) (n : Nat) :
    Quiet s0 (shed s n) := h.silent (shed_silent (.refl s) n)

theorem allOff_quiet (h : Quiet s0 s) (c : OffCause) :
    Quiet s0 (allOff s c) := h.silent (allOff_silent (.refl s) c)

theorem heaterMaskNotice_quiet (h : Quiet s0 s) (old new : Scope) :
    Quiet s0 (heaterMaskNotice s old new) := h.silent (heaterMaskNotice_silent (.refl s) old new)

theorem heaterConditions_quiet (h : Quiet s0 s) (had : Bool) :
    Quiet s0 (heaterConditions s had) := h.silent (heaterConditions_silent (.refl s) had)

theorem queueFrame_quiet (h : Quiet s0 s) (f : Frame) :
    Quiet s0 (queueFrame s f) := h.silent (queueFrame_silent (.refl s) f)

theorem queueEvent_quiet (h : Quiet s0 s) (n : Nat) :
    Quiet s0 (queueEvent s n) := h.silent (queueEvent_silent (.refl s) n)

theorem takeFree_quiet (h : Quiet s0 s) : Quiet s0 (takeFree s).2 :=
  h.silent (takeFree_silent (.refl s))

theorem reviseFrames_quiet (h : Quiet s0 s) {f : TxEntry → TxEntry}
    (hc : ∀ e, frameClass (f e).frame = frameClass e.frame)
    (hg : ∀ e x, sameGroup (f e).frame x = sameGroup e.frame x ∧
      sameGroup x (f e).frame = sameGroup x e.frame) : Quiet s0 (reviseFrames s f) :=
  h.silent (reviseFrames_silent (.refl s) hc hg)

theorem commitMotion_quiet (h : Quiet s0 s) (n : Nat) : Quiet s0 (commitMotion s n) :=
  settlePower_quiet (Quiet.withShare (shed_quiet h _) (by exact id)) _

theorem shareLegStart_quiet (h : Quiet s0 s) (az el : Bool) : Quiet s0 (shareLegStart s az el) :=
  commitMotion_quiet h _

theorem shareLegEnd_quiet (h : Quiet s0 s) : Quiet s0 (shareLegEnd s) := commitMotion_quiet h _

theorem LoansOk.drop {u : ShareUnit} (h : LoansOk u) (peer : Nat) (lent : Bool) :
    LoansOk { u with loans := dropLoan u.loans peer lent } :=
  ⟨(List.length_filter_le _ _).trans h.1, h.2.filter _⟩

theorem removeBorrowed_quiet (h : Quiet s0 s) (peer : Nat) : Quiet s0 (removeBorrowed s peer) :=
  settlePower_quiet ((shed_quiet h _).withShare fun ok => ok.drop _ _) _

theorem removeLent_quiet (h : Quiet s0 s) (peer : Nat) : Quiet s0 (removeLent s peer) :=
  settlePower_quiet (h.withShare fun ok => ok.drop _ _) _

theorem recordFlag_quiet (h : Quiet s0 s) (n detail extra : Nat) :
    Quiet s0 (recordFlag s n detail extra) :=
  h.withReport rfl (List.length_set ..)

theorem setFlagRaw_quiet (h : Quiet s0 s) (n detail extra : Nat) :
    Quiet s0 (setFlagRaw s n detail extra) := by
  unfold setFlagRaw
  split
  · exact recordFlag_quiet h _ _ _
  · exact queueEvent_quiet (recordFlag_quiet h _ _ _) _

theorem setFlag_quiet (h : Quiet s0 s) (n detail extra : Nat) :
    Quiet s0 (setFlag s n detail extra) :=
  settlePower_quiet (setFlagRaw_quiet h _ _ _) _

/-- A fold of operations that keep `Quiet` keeps it. -/
theorem Quiet.foldl {α : Type} {f : State → α → State}
    (hf : ∀ (t : State) (a : α), Quiet s0 t → Quiet s0 (f t a)) (h : Quiet s0 s) (l : List α) :
    Quiet s0 (l.foldl f s) := by
  induction l generalizing s with
  | nil => exact h
  | cons a l ih => exact ih (hf s a h)

end Sys2Proof.Machine
end

