-- ==== Sys2Proof/Laws/Recs.lean ====
section
/-! SUPPORT. What the Compact Unit's work on its own records, and the judgement of stow-blocked, can
change: the records, the queue the JOINT entry leaves, and what `Quiet` allows. -/

namespace Sys2Proof.Machine

/-- The Axis Engine as the withdrawal of a JOINT entry can leave it: entries gone from the queue,
and GAP turned IDLE with the brakes engaged (R27). -/
structure Withdrawn (a b : AxisUnit) : Prop where
  posAz : b.posAz = a.posAz
  posEl : b.posEl = a.posEl
  refAz : b.refAz = a.refAz
  refEl : b.refEl = a.refEl
  leg : b.leg = a.leg
  stop : b.stop = a.stop
  stowMark : b.stowMark = a.stowMark
  pair : b.pairFaulted = a.pairFaulted
  answers : b.pendingAnswers = a.pendingAnswers
  queue : b.queue.Sublist a.queue
  motion : (b.motion = a.motion ∧ b.releasedAz = a.releasedAz ∧ b.releasedEl = a.releasedEl) ∨
    (a.motion = .gap ∧ b.motion = .idle ∧ b.releasedAz = false ∧ b.releasedEl = false)

theorem Withdrawn.refl (a : AxisUnit) : Withdrawn a a where
  posAz := rfl
  posEl := rfl
  refAz := rfl
  refEl := rfl
  leg := rfl
  stop := rfl
  stowMark := rfl
  pair := rfl
  answers := rfl
  queue := List.Sublist.refl _
  motion := .inl ⟨rfl, rfl, rfl⟩

theorem Withdrawn.trans {a b c : AxisUnit} (h : Withdrawn a b) (k : Withdrawn b c) :
    Withdrawn a c where
  posAz := k.posAz.trans h.posAz
  posEl := k.posEl.trans h.posEl
  refAz := k.refAz.trans h.refAz
  refEl := k.refEl.trans h.refEl
  leg := k.leg.trans h.leg
  stop := k.stop.trans h.stop
  stowMark := k.stowMark.trans h.stowMark
  pair := k.pair.trans h.pair
  answers := k.answers.trans h.answers
  queue := k.queue.trans h.queue
  motion := by
    rcases h.motion with ⟨h1, h2, h3⟩ | ⟨h1, h2, h3, h4⟩
    · rcases k.motion with ⟨k1, k2, k3⟩ | ⟨k1, k2, k3, k4⟩
      · exact .inl ⟨k1.trans h1, k2.trans h2, k3.trans h3⟩
      · exact .inr ⟨h1 ▸ k1, k2, k3, k4⟩
    · rcases k.motion with ⟨k1, k2, k3⟩ | ⟨k1, k2, k3, k4⟩
      · exact .inr ⟨h1, k1.trans h2, k2.trans h3, k3.trans h4⟩
      · rw [h2] at k1; cases k1

/-- Withdrawal keeps what R3, R4 and R5 give of the engine. -/
theorem Withdrawn.ok {a b : AxisUnit} (h : Withdrawn a b) (ok : AxisOk a) : AxisOk b := by
  obtain ⟨q, l, s, br, st, rest⟩ := ok
  have hq := h.queue.length_le
  have hl := h.leg
  have hs := h.stop
  rcases h.motion with ⟨m, az, el⟩ | ⟨m, m', az, el⟩
  · refine ⟨by omega, ?_, ?_, ?_, ?_, ?_⟩
    · rw [hl, m]; exact l
    · rw [hs, m]; exact s
    · unfold brakesFollow at br ⊢; rw [hl, az, el]; exact br
    · rw [m, az]; exact st
    · rw [m, az, el]; exact rest
  · have hn : a.leg = none := by
      cases hg : a.leg with
      | none => rfl
      | some _ => rw [hg, m] at l; simp at l
    refine ⟨by omega, ?_, ?_, ?_, ?_, ?_⟩
    · rw [hl, m', hn]; simp
    · rw [hs, m']; rw [m] at s; simpa using s
    · unfold brakesFollow; rw [hl, hn]
    · rw [m']; simp
    · intro _; exact ⟨az, el⟩

/-- Everything but the Line Unit, the Heater and Share Units, the flags, the records, the JOINT
entry and stow-blocked is unchanged, and what holds of those still holds. -/
structure Recs (s t : State) : Prop where
  pending : t.pending = s.pending
  pins : t.pins = s.pins
  seq : t.seq = s.seq
  time : t.time = s.time
  peers : t.peers = s.peers
  lock : t.lock = s.lock
  keepOut : t.keepOut = s.keepOut
  sensor : t.sensor = s.sensor
  cells : t.wind.cells = s.wind.cells
  named : t.wind.lastNamed = s.wind.lastNamed
  ordered : t.wind.ordered = s.wind.ordered
  kept : t.report.pending = s.report.pending
  flags : t.report.flags.length = s.report.flags.length
  replies : t.compact.pending = s.compact.pending
  stowMark : t.compact.stowMark = s.compact.stowMark
  ids : t.compact.list.map (·.id) = s.compact.list.map (·.id)
  axis : Withdrawn s.axis t.axis
  compact : CompactOk s.compact → CompactOk t.compact
  line : LineOk s.line → LineOk t.line
  share : LoansOk s.share → LoansOk t.share

theorem Quiet.recs {s t : State} (h : Quiet s t) : Recs s t where
  pending := h.pending
  pins := h.pins
  seq := h.seq
  time := h.time
  peers := h.peers
  lock := h.lock
  keepOut := h.keepOut
  sensor := h.sensor
  cells := by rw [h.wind]
  named := by rw [h.wind]
  ordered := by rw [h.wind]
  kept := h.kept
  flags := h.flags
  replies := by rw [h.compact]
  stowMark := by rw [h.compact]
  ids := by rw [h.compact]
  axis := h.axis ▸ Withdrawn.refl _
  compact := by rw [h.compact]; exact id
  line := h.line
  share := h.share

theorem Recs.refl (s : State) : Recs s s := (Quiet.refl s).recs

theorem Recs.trans {s t u : State} (h : Recs s t) (k : Recs t u) : Recs s u where
  pending := k.pending.trans h.pending
  pins := k.pins.trans h.pins
  seq := k.seq.trans h.seq
  time := k.time.trans h.time
  peers := k.peers.trans h.peers
  lock := k.lock.trans h.lock
  keepOut := k.keepOut.trans h.keepOut
  sensor := k.sensor.trans h.sensor
  cells := k.cells.trans h.cells
  named := k.named.trans h.named
  ordered := k.ordered.trans h.ordered
  kept := k.kept.trans h.kept
  flags := k.flags.trans h.flags
  replies := k.replies.trans h.replies
  stowMark := k.stowMark.trans h.stowMark
  ids := k.ids.trans h.ids
  axis := h.axis.trans k.axis
  compact := k.compact ∘ h.compact
  line := k.line ∘ h.line
  share := k.share ∘ h.share

variable {s0 s : State}

theorem setFlag_recs (h : Recs s0 s) (n detail extra : Nat) : Recs s0 (setFlag s n detail extra) :=
  h.trans (setFlag_quiet (.refl s) n detail extra).recs

theorem queueFrame_recs (h : Recs s0 s) (f : Frame) : Recs s0 (queueFrame s f) :=
  h.trans (queueFrame_quiet (.refl s) f).recs

theorem Recs.foldl {α : Type} {f : State → α → State}
    (hf : ∀ (t : State) (a : α), Recs s0 t → Recs s0 (f t a)) (h : Recs s0 s) (l : List α) :
    Recs s0 (l.foldl f s) := by
  induction l generalizing s with
  | nil => exact h
  | cons a l ih => exact ih (hf s a h)

theorem withBlocked_recs (h : Recs s0 s) (b on : Bool) (run : Nat) :
    Recs s0 ((s.withWind { s.wind with blocked := b }).withReport
      { s.report with lampOn := on, lampRun := run }) :=
  h.trans { Recs.refl s with }

theorem judgeBlocked_recs (h : Recs s0 s) : Recs s0 (judgeBlocked s) := by
  unfold judgeBlocked
  split
  · split
    · exact h
    · exact setFlag_recs (withBlocked_recs h _ _ _) _ _ _
  · split
    · exact withBlocked_recs h _ _ _
    · exact h

theorem withAxis_recs (h : Recs s0 s) {a : AxisUnit} (ha : Withdrawn s.axis a) :
    Recs s0 (s.withAxis a) :=
  h.trans { Recs.refl s with axis := ha }

theorem withCompact_recs (h : Recs s0 s) {u : CompactUnit}
    (hi : u.list.map (·.id) = s.compact.list.map (·.id)) (hp : u.pending = s.compact.pending)
    (hm : u.stowMark = s.compact.stowMark) (hu : CompactOk s.compact → CompactOk u) :
    Recs s0 (s.withCompact u) :=
  h.trans { Recs.refl s with ids := hi, replies := hp, stowMark := hm, compact := hu }

/-- Coming to rest in IDLE from GAP. -/
theorem toIdle_recs (h : Recs s0 s) (hm : s.axis.motion = .gap) : Recs s0 (toIdle s) :=
  judgeBlocked_recs (withAxis_recs h
    { Withdrawn.refl s.axis with motion := .inr ⟨hm, rfl, rfl, rfl⟩ })

theorem dropJoint_withdrawn (a : AxisUnit) : Withdrawn a (dropJoint a) :=
  { Withdrawn.refl a with queue := List.filter_sublist, motion := .inl ⟨rfl, rfl, rfl⟩ }

theorem axisWithdraw_recs (h : Recs s0 s) (id : Nat) : Recs s0 (axisWithdraw s id) := by
  unfold axisWithdraw
  split
  · split
    · exact withAxis_recs h { Withdrawn.refl s.axis with motion := .inl ⟨rfl, rfl, rfl⟩ }
    · rename_i hm
      exact toIdle_recs (withAxis_recs h (dropJoint_withdrawn _)) hm
    · exact withAxis_recs h (dropJoint_withdrawn _)
    · exact h
  · exact h

/-- A change of records that keeps each one's compact id, start time and `RecordOk`. -/
theorem CompactOk.map {u : CompactUnit} (h : CompactOk u) (f : CompactRecord → CompactRecord)
    (hi : ∀ r, (f r).id = r.id ∧ (f r).start = r.start) (hf : ∀ r ∈ u.list, RecordOk r → RecordOk (f r)) :
    CompactOk { u with list := u.list.map f } := by
  refine ⟨by simpa using h.1, ?_, ?_, h.2.2.2⟩
  · rw [List.pairwise_map]
    refine h.2.1.imp fun {a b} hab => ?_
    simp only [recordBefore, (hi a).1, (hi a).2, (hi b).1, (hi b).2]
    exact hab
  · intro r hr
    obtain ⟨x, hx, rfl⟩ := List.mem_map.1 hr
    exact hf x hx (h.2.2.1 x hx)

/-- A change of one record that keeps its compact id, its start time and `RecordOk`. -/
theorem changeRecord_recs (h : Recs s0 s) (id : Nat) {f : CompactRecord → CompactRecord}
    (hi : ∀ r, (f r).id = r.id ∧ (f r).start = r.start)
    (hf : ∀ r ∈ s.compact.list, r.id = id → RecordOk r → RecordOk (f r)) :
    Recs s0 (changeRecord s id f) := by
  refine withCompact_recs h ?_ rfl rfl fun ok => ok.map _ (fun r => ?_) fun r hr hok => ?_
  · simp only [List.map_map]
    refine List.map_congr_left fun r _ => ?_
    simp only [Function.comp_apply]
    split
    · exact (hi r).1
    · rfl
  · split
    · exact hi r
    · exact ⟨rfl, rfl⟩
  · split
    · rename_i e; exact hf r hr (by simpa using e) hok
    · exact hok

theorem setMember_recs (h : Recs s0 s) (id n : Nat) (m : MemberState) :
    Recs s0 (changeRecord s id fun x => setMember x n m) :=
  changeRecord_recs h id (fun _ => ⟨rfl, rfl⟩) fun _ _ _ ok => ok

theorem compactFailed_recs (h : Recs s0 s) (d id : Nat) : Recs s0 (compactFailed s d id) :=
  setFlag_recs h _ _ _

theorem makeTerminal_recs (h : Recs s0 s) (r : CompactRecord) {st : CompactState}
    (hs : st ≠ .forming ∧ st ≠ .moving ∧ st ≠ .held) : Recs s0 (makeTerminal s r st) := by
  have hc : Recs s0 (changeRecord s r.id fun x =>
      { x with state := st, terminalAt := some (now s), terminalRun := 0 }) :=
    changeRecord_recs h r.id (fun _ => ⟨rfl, rfl⟩) fun x _ _ _ => by
      cases st <;> simp_all [RecordOk, isLive]
  unfold makeTerminal
  dsimp only
  split
  · split
    · exact axisWithdraw_recs (compactFailed_recs hc _ _) _
    · exact compactFailed_recs hc _ _
  · exact hc

theorem completionTest_recs (h : Recs s0 s) (id : Nat) : Recs s0 (completionTest s id) := by
  unfold completionTest
  split
  · split
    · split
      · exact makeTerminal_recs h _ (by simp)
      · split
        · exact makeTerminal_recs h _ (by simp)
        · exact h
    · exact h
  · exact h

theorem afterLeft_recs (h : Recs s0 s) (id : Nat) : Recs s0 (afterLeft s id) := by
  unfold afterLeft
  split
  · split
    · split
      · exact completionTest_recs h _
      · exact makeTerminal_recs h _ (by simp)
    · exact h
  · exact h

theorem queueLeave_recs (h : Recs s0 s) (r : CompactRecord) (reason : Nat) :
    Recs s0 (queueLeave s r reason) := by
  unfold queueLeave
  dsimp only
  split
  · exact queueFrame_recs (queueFrame_recs h _) _
  · exact queueFrame_recs h _

theorem ownLeave_recs (h : Recs s0 s) (r : CompactRecord) (reason : Nat) :
    Recs s0 (ownLeave s r reason) :=
  afterLeft_recs (compactFailed_recs (queueLeave_recs (setMember_recs h _ _ _) _ _) _ _) _

theorem leaveAll_recs (h : Recs s0 s) (reason : Nat) : Recs s0 (leaveAll s reason) :=
  h.foldl (fun _ _ ht => ownLeave_recs ht _ _) _

theorem jointWithdrawn_recs (h : Recs s0 s) (id cause : Nat) :
    Recs s0 (jointWithdrawn s id cause) := by
  unfold jointWithdrawn
  split
  · exact h
  · split
    · exact ownLeave_recs h _ _
    · exact h

theorem arrivalNotice_recs (h : Recs s0 s) (id : Nat) (az el : Int) :
    Recs s0 (arrivalNotice s id az el) := by
  unfold arrivalNotice
  split
  · dsimp only
    split
    · exact completionTest_recs (queueFrame_recs (setMember_recs h _ _ _) _) _
    · split
      · exact setFlag_recs (queueFrame_recs (setMember_recs h _ _ _) _) _ _ _
      · exact h
  · exact h

theorem compactLegStart_recs (h : Recs s0 s) (id index count : Nat) :
    Recs s0 (compactLegStart s id index count) :=
  changeRecord_recs h id (fun _ => ⟨rfl, rfl⟩) fun _ _ _ ok => ok

theorem noticeRemoved_recs (h : Recs s0 s) (gone : List MoveEntry) (cause : Nat) :
    Recs s0 (noticeRemoved s gone cause) := by
  refine h.foldl (fun t e ht => ?_) _
  split
  · exact jointWithdrawn_recs ht _ _
  · exact ht

end Sys2Proof.Machine
end

