-- ==== Sys2Proof/Laws/Keeps.lean ====
section
/-! SUPPORT. What the Axis Engine's shared operations can change, and that they keep what R3, R4 and
R5 give of the engine. -/

namespace Sys2Proof.Machine

/-- The queue of commands, the pins, start-up, array time, the Peer Table, the Lockout Unit, the
Keep-out Table, the Sensor Unit, the cells and the kept queries are unchanged, and what holds of
the other blocks still holds. -/
structure Keeps (s t : State) : Prop where
  pending : t.pending = s.pending
  pins : t.pins = s.pins
  seq : t.seq = s.seq
  time : t.time = s.time
  peers : t.peers = s.peers
  lock : t.lock = s.lock
  keepOut : t.keepOut = s.keepOut
  sensor : t.sensor = s.sensor
  kept : t.report.pending = s.report.pending
  flags : t.report.flags.length = s.report.flags.length
  axis : AxisOk s.axis → AxisOk t.axis
  compact : CompactOk s.compact → CompactOk t.compact
  cells : t.wind.cells = s.wind.cells
  named : t.wind.lastNamed = s.wind.lastNamed
  ordered : t.wind.ordered = s.wind.ordered
  line : LineOk s.line → LineOk t.line
  share : LoansOk s.share → LoansOk t.share

theorem Recs.keeps {s t : State} (h : Recs s t) : Keeps s t where
  pending := h.pending
  pins := h.pins
  seq := h.seq
  time := h.time
  peers := h.peers
  lock := h.lock
  keepOut := h.keepOut
  sensor := h.sensor
  kept := h.kept
  flags := h.flags
  axis := h.axis.ok
  compact := h.compact
  cells := h.cells
  named := h.named
  ordered := h.ordered
  line := h.line
  share := h.share

theorem Quiet.keeps {s t : State} (h : Quiet s t) : Keeps s t := h.recs.keeps

theorem Keeps.refl (s : State) : Keeps s s := (Recs.refl s).keeps

theorem Keeps.trans {s t u : State} (h : Keeps s t) (k : Keeps t u) : Keeps s u where
  pending := k.pending.trans h.pending
  pins := k.pins.trans h.pins
  seq := k.seq.trans h.seq
  time := k.time.trans h.time
  peers := k.peers.trans h.peers
  lock := k.lock.trans h.lock
  keepOut := k.keepOut.trans h.keepOut
  sensor := k.sensor.trans h.sensor
  kept := k.kept.trans h.kept
  flags := k.flags.trans h.flags
  axis := k.axis ∘ h.axis
  compact := k.compact ∘ h.compact
  cells := k.cells.trans h.cells
  named := k.named.trans h.named
  ordered := k.ordered.trans h.ordered
  line := k.line ∘ h.line
  share := k.share ∘ h.share

variable {s0 s : State}

theorem Keeps.foldl {α : Type} {f : State → α → State}
    (hf : ∀ (t : State) (a : α), Keeps s0 t → Keeps s0 (f t a)) (h : Keeps s0 s) (l : List α) :
    Keeps s0 (l.foldl f s) := by
  induction l generalizing s with
  | nil => exact h
  | cons a l ih => exact ih (hf s a h)

theorem setFlag_keeps (h : Keeps s0 s) (n detail extra : Nat) :
    Keeps s0 (setFlag s n detail extra) :=
  h.trans (setFlag_quiet (.refl s) n detail extra).keeps

theorem queueFrame_keeps (h : Keeps s0 s) (f : Frame) : Keeps s0 (queueFrame s f) :=
  h.trans (queueFrame_quiet (.refl s) f).keeps

theorem judgeBlocked_keeps (h : Keeps s0 s) : Keeps s0 (judgeBlocked s) :=
  h.trans (judgeBlocked_recs (.refl s)).keeps

theorem shareLegEnd_keeps (h : Keeps s0 s) : Keeps s0 (shareLegEnd s) :=
  h.trans (shareLegEnd_quiet (.refl s)).keeps

theorem jointWithdrawn_keeps (h : Keeps s0 s) (id cause : Nat) :
    Keeps s0 (jointWithdrawn s id cause) :=
  h.trans (jointWithdrawn_recs (.refl s) id cause).keeps

theorem noticeRemoved_keeps (h : Keeps s0 s) (gone : List MoveEntry) (cause : Nat) :
    Keeps s0 (noticeRemoved s gone cause) :=
  h.trans (noticeRemoved_recs (.refl s) gone cause).keeps

theorem arrivalNotice_keeps (h : Keeps s0 s) (id : Nat) (az el : Int) :
    Keeps s0 (arrivalNotice s id az el) :=
  h.trans (arrivalNotice_recs (.refl s) id az el).keeps

theorem compactLegStart_keeps (h : Keeps s0 s) (id index count : Nat) :
    Keeps s0 (compactLegStart s id index count) :=
  h.trans (compactLegStart_recs (.refl s) id index count).keeps

theorem Keeps.withAxis (h : Keeps s0 s) {a : AxisUnit} (ha : AxisOk s.axis → AxisOk a) :
    Keeps s0 (s.withAxis a) :=
  h.trans { Keeps.refl s with axis := ha }

theorem Keeps.withCompact (h : Keeps s0 s) {u : CompactUnit}
    (hu : CompactOk s.compact → CompactOk u) : Keeps s0 (s.withCompact u) :=
  h.trans { Keeps.refl s with compact := hu }

theorem Keeps.withHalted (h : Keeps s0 s) (l : List Nat) :
    Keeps s0 (s.withReport { s.report with haltedFlags := l }) :=
  h.trans { Keeps.refl s with }

/-! ### Changes of the engine's record -/

/-- A change of the engine that leaves its motion, records and brakes. -/
theorem AxisOk.still {a b : AxisUnit} (ok : AxisOk a) (q : b.queue.length ≤ 8)
    (m : b.motion = a.motion) (l : b.leg = a.leg) (st : b.stop = a.stop)
    (az : b.releasedAz = a.releasedAz) (el : b.releasedEl = a.releasedEl) : AxisOk b := by
  obtain ⟨_, h⟩ := ok
  refine ⟨q, ?_⟩
  unfold brakesFollow at h ⊢
  rw [m, l, st, az, el]
  exact h

/-- No leg or stop is recorded in a state that has none (R4). -/
theorem AxisOk.noRecords {a : AxisUnit} (ok : AxisOk a)
    (h : a.motion ≠ .leg ∧ a.motion ≠ .stowing ∧ a.motion ≠ .stopping) :
    a.leg = none ∧ a.stop = none := by
  obtain ⟨_, l, s, _⟩ := ok
  constructor
  · cases hl : a.leg with
    | none => rfl
    | some _ => simp [hl, h.1, h.2.1] at l
  · cases hs : a.stop with
    | none => rfl
    | some _ => simp [hs, h.2.2] at s

/-- The dish at rest with both brakes engaged. -/
theorem AxisOk.rest {a : AxisUnit} (q : a.queue.length ≤ 8) (l : a.leg = none) (s : a.stop = none)
    (m : a.motion = .idle ∨ a.motion = .stowed ∨ a.motion = .halted) (az : a.releasedAz = false)
    (el : a.releasedEl = false) : AxisOk a := by
  refine ⟨q, ?_, ?_, ?_, ?_, fun _ => ⟨az, el⟩⟩
  · rcases m with m | m | m <;> simp [l, m]
  · rcases m with m | m | m <;> simp [s, m]
  · simp [brakesFollow, l]
  · exact fun _ => az

theorem toIdle_keeps (h : Keeps s0 s)
    (hm : AxisOk s.axis → s.axis.leg = none ∧ s.axis.stop = none) : Keeps s0 (toIdle s) :=
  judgeBlocked_keeps (h.withAxis fun ok =>
    AxisOk.rest ok.1 (hm ok).1 (hm ok).2 (.inl rfl) rfl rfl)

theorem beginStop_keeps (h : Keeps s0 s) (r : StopReason) : Keeps s0 (beginStop s r) :=
  judgeBlocked_keeps (h.withAxis fun ok =>
    ⟨ok.1, by simp, by simp, by simp [brakesFollow], by simp, by simp⟩)

theorem addReason_keeps (h : Keeps s0 s) (r : StopReason) : Keeps s0 (addReason s r) := by
  unfold addReason
  split
  · rename_i st hst
    refine h.withAxis fun ok => ⟨ok.1, ok.2.1, ?_, ok.2.2.2⟩
    have := ok.2.2.1
    rw [hst] at this
    simpa using this
  · exact h

theorem flush_keeps (h : Keeps s0 s) (cause : Nat) : Keeps s0 (flush s cause) := by
  unfold flush
  exact noticeRemoved_keeps (h.withAxis fun ok => by
    exact ok.still ((List.length_filter_le _ _).trans ok.1) rfl rfl rfl rfl rfl) _ _

theorem popHead_ok {a : AxisUnit} (ok : AxisOk a) : AxisOk (popHead a) :=
  ok.still (by have := ok.1; simp [popHead]; omega) rfl rfl rfl rfl rfl

theorem dropStow_ok {a : AxisUnit} (ok : AxisOk a) : AxisOk (dropStow a) :=
  ok.still ((List.length_filter_le _ _).trans ok.1) rfl rfl rfl rfl rfl

theorem planHead_ok {a : AxisUnit} (ok : AxisOk a) (p : LegPlan) : AxisOk (planHead a p) := by
  unfold planHead
  split
  · rename_i e rest hq
    exact ok.still (by have := ok.1; rw [hq] at this; simpa using this) rfl rfl rfl rfl rfl
  · exact ok

theorem aimStow_ok {a : AxisUnit} (ok : AxisOk a) : AxisOk (aimStow a) := by
  unfold aimStow
  split
  · rename_i e rest hq
    exact ok.still (by have := ok.1; rw [hq] at this; simpa using this) rfl rfl rfl rfl rfl
  · exact ok

theorem planHead_motion (a : AxisUnit) (p : LegPlan) :
    (planHead a p).motion = a.motion ∧ (planHead a p).stop = a.stop := by
  unfold planHead; split <;> exact ⟨rfl, rfl⟩

theorem aimStow_motion (a : AxisUnit) :
    (aimStow a).motion = a.motion ∧ (aimStow a).stop = a.stop := by
  unfold aimStow; split <;> exact ⟨rfl, rfl⟩

theorem startLeg_keeps (h : Keeps s0 s) {l : Leg} {m : Motion}
    (hs : AxisOk s.axis → s.axis.stop = none)
    (hm : m = .leg ∨ m = .stowing ∧ l.movesAz = false) : Keeps s0 (startLeg s l m) := by
  refine judgeBlocked_keeps (Keeps.trans (h.withAxis fun ok => ?_)
    (shareLegStart_quiet (.refl _) _ _).keeps)
  have := hs ok
  refine ⟨ok.1, ?_, ?_, by simp [brakesFollow], ?_, ?_⟩
  · rcases hm with rfl | ⟨rfl, _⟩ <;> simp
  · rcases hm with rfl | ⟨rfl, _⟩ <;> simp [this]
  · rcases hm with rfl | ⟨rfl, hz⟩
    · simp
    · exact fun _ => hz
  · rcases hm with rfl | ⟨rfl, _⟩ <;> simp

/-- IDLE or GAP: no leg and no stop is recorded. -/
def Resting (s : State) : Prop := s.axis.motion = .idle ∨ s.axis.motion = .gap

theorem Resting.noRecords (h : Resting s) (ok : AxisOk s.axis) :
    s.axis.leg = none ∧ s.axis.stop = none :=
  ok.noRecords (by rcases h with h | h <;> simp [h])

theorem legMayStart_resting (h : legMayStart s = true) : Resting s := by
  simp only [legMayStart, Bool.and_eq_true, Bool.or_eq_true, beq_iff_eq] at h
  rcases h.2 with h | h
  · exact .inl h
  · exact .inr h.1

theorem becomeStowed_keeps (h : Keeps s0 s) (hr : Resting s) : Keeps s0 (becomeStowed s) :=
  judgeBlocked_keeps (h.withAxis fun ok =>
    AxisOk.rest (popHead_ok ok).1 (hr.noRecords ok).1 (hr.noRecords ok).2
      (by cases s.axis.stowMark <;> simp) rfl rfl)

theorem flyStow_keeps (h : Keeps s0 s) (hr : Resting s) (e : MoveEntry) :
    Keeps s0 (flyStow s e) := by
  refine startLeg_keeps (h.withAxis fun ok => planHead_ok (aimStow_ok ok) _) (fun ok => ?_)
    (.inr ⟨rfl, rfl⟩)
  refine (ok.noRecords ?_).2
  show (planHead (aimStow s.axis) _).motion ≠ _ ∧ (planHead (aimStow s.axis) _).motion ≠ _ ∧
    (planHead (aimStow s.axis) _).motion ≠ _
  rw [(planHead_motion _ _).1, (aimStow_motion _).1]
  rcases hr with hr | hr <;> simp [hr]

theorem startStow_keeps (h : Keeps s0 s) (hr : Resting s) (e : MoveEntry) :
    Keeps s0 (startStow s e) := by
  unfold startStow
  split
  · split
    · exact becomeStowed_keeps h hr
    · exact flyStow_keeps h hr e
  · split
    · exact becomeStowed_keeps h hr
    · exact flyStow_keeps h hr e

theorem flyLeg_keeps (h : Keeps s0 s) (hr : Resting s) (e : MoveEntry) (p : LegPlan) (l : Leg) :
    Keeps s0 (flyLeg s e p l) := by
  have hs : Keeps s0 (startLeg (s.withAxis (planHead s.axis { p with index := p.index + 1 })) l
      .leg) := by
    refine startLeg_keeps (h.withAxis fun ok => planHead_ok ok _) (fun ok => ?_) (.inl rfl)
    refine (ok.noRecords ?_).2
    show (planHead s.axis _).motion ≠ _ ∧ (planHead s.axis _).motion ≠ _ ∧
      (planHead s.axis _).motion ≠ _
    rw [(planHead_motion _ _).1]
    rcases hr with hr | hr <;> simp [hr]
  unfold flyLeg
  dsimp only
  split
  · exact compactLegStart_keeps hs _ _ _
  · exact hs

theorem removeForSector_keeps (h : Keeps s0 s) (e : MoveEntry) (n : Nat) :
    Keeps s0 (removeForSector s e n) := by
  have ht : Keeps s0 (setFlag (s.withAxis (popHead s.axis)) flagKeepOutStop 1 n) :=
    setFlag_keeps (h.withAxis popHead_ok) _ _ _
  unfold removeForSector
  dsimp only
  split
  · exact jointWithdrawn_keeps ht _ _
  · exact ht

theorem completeHead_keeps (h : Keeps s0 s) (e : MoveEntry) : Keeps s0 (completeHead s e) := by
  have ht : Keeps s0 (s.withAxis (popHead s.axis)) := h.withAxis popHead_ok
  unfold completeHead
  dsimp only
  split
  · exact arrivalNotice_keeps ht _ _ _
  · exact ht

theorem tryStartN_keeps (n : Nat) (h : Keeps s0 s) : Keeps s0 (tryStartN n s) := by
  induction n generalizing s with
  | zero => exact h
  | succ n ih =>
    unfold tryStartN
    split
    · rename_i hl
      have hr := legMayStart_resting hl
      split
      · split
        · exact toIdle_keeps h hr.noRecords
        · exact h
      · split
        · split
          · exact h
          · split
            · exact startStow_keeps h hr _
            · exact ih (h.withAxis popHead_ok)
        · split
          · exact h
          · dsimp only
            split
            · exact ih (completeHead_keeps h _)
            · split
              · exact h
              · split
                · exact ih (removeForSector_keeps h _ _)
                · exact flyLeg_keeps h hr _ _ _
    · exact h

theorem tryStart_keeps (h : Keeps s0 s) : Keeps s0 (tryStart s) := tryStartN_keeps _ h

/-- Where the STOW entry waits and nothing blocks it, the dish goes on after a stop with its leg
(R15). -/
theorem goOn_stow {s : State} {e : MoveEntry} {rest : List MoveEntry}
    (hq : s.axis.queue = e :: rest) (he : e.origin = .stow) (hm : legMayStart s = true)
    (hb : stowBlocked s = false) :
    goOn s = startStow s e := by
  unfold goOn
  rw [hq]
  simp [he, hm, hb]

/-- A STOW entry that nothing blocks, its mark cleared, leaves the queue at a try (R24, R45). -/
theorem tryStartN_calmed {s : State} {e : MoveEntry} {rest : List MoveEntry} (n : Nat)
    (hq : s.axis.queue = e :: rest) (he : e.origin = .stow) (hm : legMayStart s = true)
    (hb : stowBlocked s = false) (hc : s.axis.stowMark = false) :
    tryStartN (n + 1) s = tryStartN n (s.withAxis (popHead s.axis)) := by
  conv_lhs => unfold tryStartN
  rw [if_pos hm, hq]
  simp [he, hb, hc]

theorem goOn_keeps (h : Keeps s0 s) : Keeps s0 (goOn s) := by
  unfold goOn
  split
  · split
    · rename_i hc
      simp only [Bool.and_eq_true] at hc
      exact startStow_keeps h (legMayStart_resting hc.1.2) _
    · exact tryStart_keeps h
  · exact tryStart_keeps h

theorem enterHalted_keeps (h : Keeps s0 s) : Keeps s0 (enterHalted s) := by
  unfold enterHalted
  split
  · exact h
  · have hh : Keeps s0 (s.withAxis { s.axis with
        leg := none, stop := none, motion := .halted, releasedAz := false, releasedEl := false }) :=
      h.withAxis fun ok => AxisOk.rest ok.1 rfl rfl (.inr (.inr rfl)) rfl rfl
    exact judgeBlocked_keeps (flush_keeps (shareLegEnd_keeps (hh.withHalted [])) _)

theorem haltWith_keeps (h : Keeps s0 s) (flag detail : Nat) : Keeps s0 (haltWith s flag detail) :=
  setFlag_keeps (enterHalted_keeps h) _ _ _

theorem setFaults_keeps (h : Keeps s0 s) (l : List (Nat × Nat)) : Keeps s0 (setFaults s l) :=
  h.foldl (fun _ _ ht => setFlag_keeps ht _ _ _) l

theorem markPair_keeps (h : Keeps s0 s) : Keeps s0 (markPair s) := by
  unfold markPair
  split
  · exact h.withAxis fun ok => ok.still ok.1 rfl rfl rfl rfl rfl
  · exact h

theorem readInputsAfresh_keeps (h : Keeps s0 s) : Keeps s0 (readInputsAfresh s) := by
  unfold readInputsAfresh
  split
  · exact h
  · exact setFaults_keeps (enterHalted_keeps (markPair_keeps h)) _

/-! ### Notices from other blocks -/

theorem axisStowOrder_keeps (h : Keeps s0 s) : Keeps s0 (axisStowOrder s) := by
  unfold axisStowOrder
  split
  · exact h.withAxis fun ok => ok.still ok.1 rfl rfl rfl rfl rfl
  · have hr : Recs (s.withAxis { s.axis with
        stowMark := true, queue := [stowEntry s], jointHeld := false, withdrawPending := false })
        (noticeRemoved (s.withAxis { s.axis with
          stowMark := true, queue := [stowEntry s], jointHeld := false
          withdrawPending := false }) s.axis.queue reasonStow) := noticeRemoved_recs (.refl _) _ _
    have ht : Keeps s0 (noticeRemoved (s.withAxis { s.axis with
          stowMark := true, queue := [stowEntry s], jointHeld := false
          withdrawPending := false }) s.axis.queue reasonStow) :=
      Keeps.trans (h.withAxis fun ok => by exact ok.still (by simp) rfl rfl rfl rfl rfl) hr.keeps
    dsimp only
    split
    · exact tryStart_keeps ht
    · rename_i hm
      have rest : Resting (noticeRemoved (s.withAxis { s.axis with
          stowMark := true, queue := [stowEntry s], jointHeld := false
          withdrawPending := false }) s.axis.queue reasonStow) := by
        rcases hr.axis.motion with ⟨k, _⟩ | ⟨_, k, _⟩
        · exact .inr (k.trans hm)
        · exact .inl k
      split
      · exact toIdle_keeps ht rest.noRecords
      · split
        · exact startStow_keeps ht rest _
        · exact ht
    · exact beginStop_keeps ht _
    · exact addReason_keeps ht _
    · exact ht

theorem axisCalmNotice_keeps (h : Keeps s0 s) : Keeps s0 (axisCalmNotice s) := by
  have ht : Keeps s0 (s.withAxis { s.axis with stowMark := false }) :=
    h.withAxis fun ok => ok.still ok.1 rfl rfl rfl rfl rfl
  unfold axisCalmNotice
  dsimp only
  split
  · rename_i hm
    refine tryStart_keeps (toIdle_keeps ht fun ok => ok.noRecords ?_)
    show s.axis.motion ≠ _ ∧ s.axis.motion ≠ _ ∧ s.axis.motion ≠ _
    simp [hm]
  · exact tryStart_keeps (ht.withAxis dropStow_ok)
  · exact ht.withAxis dropStow_ok
  · exact addReason_keeps (ht.withAxis dropStow_ok) _
  · exact ht

theorem axisMaskNotice_keeps (h : Keeps s0 s) (old new : Scope) :
    Keeps s0 (axisMaskNotice s old new) := by
  unfold axisMaskNotice
  dsimp only
  split
  · split
    · exact flush_keeps (beginStop_keeps h _) _
    · exact flush_keeps (beginStop_keeps h _) _
    · exact flush_keeps (addReason_keeps h _) _
    · exact flush_keeps h _
    · split
      · exact beginStop_keeps h _
      · exact h
    · exact h
  · exact tryStart_keeps h

theorem axisTableChange_keeps (h : Keeps s0 s) : Keeps s0 (axisTableChange s) := by
  unfold axisTableChange
  split
  · split
    · exact setFlag_keeps (flush_keeps (beginStop_keeps h _) _) _ _ _
    · exact h
  · exact h

theorem axisClash_keeps (h : Keeps s0 s) : Keeps s0 (axisClash s) := by
  unfold axisClash
  split
  · exact flush_keeps (beginStop_keeps h _) _
  · exact flush_keeps (beginStop_keeps h _) _
  · exact flush_keeps (beginStop_keeps h _) _
  · exact flush_keeps (addReason_keeps h _) _
  · exact flush_keeps h _

/-- HALTED left or entered again; the queue holds STOW entries alone, as after a flush. -/
theorem leaveHalted_keeps (h : Keeps s0 s) (hm : s.axis.motion = .halted)
    (hq : ∀ e ∈ s.axis.queue, e.origin = .stow) : Keeps s0 (leaveHalted s) := by
  unfold leaveHalted
  split
  · refine tryStart_keeps (judgeBlocked_keeps (h.withAxis fun ok => ?_))
    have hn := ok.noRecords (by simp [hm])
    have hb := ok.2.2.2.2.2 (.inr (.inr hm))
    refine AxisOk.rest ?_ hn.1 hn.2 (.inl rfl) hb.1 hb.2
    show List.length _ ≤ 8
    split
    · rename_i hc
      cases hl : s.axis.queue with
      | nil => simp
      | cons e l =>
        have := hq e (by simp [hl])
        simp [hl, this] at hc
    · exact ok.1
  · exact setFaults_keeps (markPair_keeps (h.withHalted _)) _

theorem flush_queue (s : State) (cause : Nat) :
    ∀ e ∈ (flush s cause).axis.queue, e.origin = .stow := by
  intro e he
  have hs : Recs _ (flush s cause) := noticeRemoved_recs (.refl _) _ _
  have := hs.axis.queue.subset he
  exact beq_iff_eq.1 (List.mem_filter.1 this).2

theorem flush_motion (s : State) (cause : Nat) (hm : s.axis.motion ≠ .gap) :
    (flush s cause).axis.motion = s.axis.motion := by
  have hs : Recs _ (flush s cause) := noticeRemoved_recs (.refl _) _ _
  rcases hs.axis.motion with ⟨k, _⟩ | ⟨k, _⟩
  · exact k
  · exact absurd k hm

theorem axisMotionReset_keeps (h : Keeps s0 s) : Keeps s0 (axisMotionReset s) := by
  unfold axisMotionReset
  split
  · exact flush_keeps (beginStop_keeps h _) _
  · exact flush_keeps (beginStop_keeps h _) _
  · exact flush_keeps (beginStop_keeps h _) _
  · exact flush_keeps (addReason_keeps h _) _
  · exact tryStart_keeps (flush_keeps h _)
  · rename_i hm
    exact leaveHalted_keeps (flush_keeps h _) ((flush_motion s _ (by simp [hm])).trans hm)
      (flush_queue s _)
  · exact h

theorem axisHold_keeps (h : Keeps s0 s) (id : Nat) : Keeps s0 (axisHold s id) := by
  unfold axisHold
  split
  · exact h.withAxis fun ok => ok.still ok.1 rfl rfl rfl rfl rfl
  · exact h

theorem axisRelease_keeps (h : Keeps s0 s) (id : Nat) : Keeps s0 (axisRelease s id) := by
  unfold axisRelease
  split
  · exact tryStart_keeps (h.withAxis fun ok => ok.still ok.1 rfl rfl rfl rfl rfl)
  · exact h

end Sys2Proof.Machine
end

