-- ==== Sys2Proof/Laws/Compact.lean ====
section
/-! SUPPORT. What the Compact Unit's operations can change, and that the Compact List keeps its
order and its records their shape (R91, R93). -/

namespace Sys2Proof.Machine

variable {s0 s : State}

theorem leaveAll_keeps (h : Keeps s0 s) (reason : Nat) : Keeps s0 (leaveAll s reason) :=
  h.trans (leaveAll_recs (.refl s) reason).keeps

theorem completionTest_keeps (h : Keeps s0 s) (id : Nat) : Keeps s0 (completionTest s id) :=
  h.trans (completionTest_recs (.refl s) id).keeps

theorem afterLeft_keeps (h : Keeps s0 s) (id : Nat) : Keeps s0 (afterLeft s id) :=
  h.trans (afterLeft_recs (.refl s) id).keeps

theorem ownLeave_keeps (h : Keeps s0 s) (r : CompactRecord) (reason : Nat) :
    Keeps s0 (ownLeave s r reason) :=
  h.trans (ownLeave_recs (.refl s) r reason).keeps

theorem setMember_keeps (h : Keeps s0 s) (id n : Nat) (m : MemberState) :
    Keeps s0 (changeRecord s id fun x => setMember x n m) :=
  h.trans (setMember_recs (.refl s) id n m).keeps

theorem compactFailed_keeps (h : Keeps s0 s) (d id : Nat) : Keeps s0 (compactFailed s d id) :=
  setFlag_keeps h _ _ _

theorem makeTerminal_keeps (h : Keeps s0 s) (r : CompactRecord) {st : CompactState}
    (hs : st ≠ .forming ∧ st ≠ .moving ∧ st ≠ .held) : Keeps s0 (makeTerminal s r st) :=
  h.trans (makeTerminal_recs (.refl s) r hs).keeps

theorem withdrawFrames_keeps (h : Keeps s0 s) (p : TxEntry → Bool) :
    Keeps s0 (withdrawFrames s p) :=
  h.trans (withdrawFrames_quiet (.refl s) p).keeps

/-! ### The Compact List -/

/-- A found record stands in the list under its compact id. -/
theorem findRecord_some {id : Nat} {r : CompactRecord} (h : findRecord s id = some r) :
    r ∈ s.compact.list ∧ r.id = id :=
  ⟨List.mem_of_find?_eq_some h, by simpa using List.find?_some h⟩

/-- No two records carry one compact id. -/
theorem CompactOk.unique {u : CompactUnit} (ok : CompactOk u) {a b : CompactRecord}
    (ha : a ∈ u.list) (hb : b ∈ u.list) (h : a.id = b.id) : a = b :=
  List.inj_on_of_nodup_map (List.pairwise_map.2 (ok.2.1.imp fun k => k.2)) ha hb h

/-- The changed record is the one found. -/
theorem findRecord_changeRecord (s : State) (id : Nat) {f : CompactRecord → CompactRecord}
    (hf : ∀ r, (f r).id = r.id) :
    findRecord (changeRecord s id f) id = (findRecord s id).map f := by
  show List.find? _ (List.map _ _) = _
  unfold findRecord
  induction s.compact.list with
  | nil => rfl
  | cons x l ih =>
    by_cases hx : x.id = id
    · simp [hx, hf]
    · simpa [hx] using ih

/-- A change of one record that keeps its compact id, its start time and `RecordOk`, the record
being the one found. -/
theorem changeRecord_keeps (h : Keeps s0 s) {id : Nat} {r : CompactRecord}
    (hr : findRecord s id = some r) {f : CompactRecord → CompactRecord}
    (hi : ∀ r, (f r).id = r.id ∧ (f r).start = r.start) (hf : RecordOk r → RecordOk (f r)) :
    Keeps s0 (changeRecord s id f) := by
  refine h.withCompact fun ok => ok.map _ (fun x => ?_) fun x hx hok => ?_
  · split
    · exact hi x
    · exact ⟨rfl, rfl⟩
  · split
    · rename_i e
      have hs := findRecord_some hr
      cases ok.unique hx hs.1 ((by simpa using e : x.id = id).trans hs.2.symm)
      exact hf hok
    · exact hok

theorem recordBefore_trans {a b c : CompactRecord} (h : recordBefore a b = true)
    (k : recordBefore b c = true) : recordBefore a c = true := by
  simp only [recordBefore, Bool.or_eq_true, Bool.and_eq_true, decide_eq_true_eq, beq_iff_eq] at *
  omega

theorem recordBefore_total {a b : CompactRecord} (h : a.id ≠ b.id)
    (k : recordBefore a b = false) : recordBefore b a = true := by
  simp only [recordBefore, Bool.or_eq_true, Bool.and_eq_true, decide_eq_true_eq, beq_iff_eq,
    Bool.or_eq_false_iff, Bool.and_eq_false_iff, decide_eq_false_iff_not] at *
  simp only [beq_eq_false_iff_ne] at k
  omega

theorem mem_insertRecord (r x : CompactRecord) (l : List CompactRecord) :
    x ∈ insertRecord r l ↔ x = r ∨ x ∈ l := by
  induction l with
  | nil => simp [insertRecord]
  | cons y l ih =>
    unfold insertRecord
    split
    · simp
    · simp only [List.mem_cons, ih]; tauto

/-- A new record takes its place in the order (R91). -/
theorem insertRecord_pairwise (r : CompactRecord) (l : List CompactRecord)
    (h : l.Pairwise fun a b => recordBefore a b = true ∧ a.id ≠ b.id)
    (hn : ∀ x ∈ l, x.id ≠ r.id) :
    (insertRecord r l).Pairwise fun a b => recordBefore a b = true ∧ a.id ≠ b.id := by
  induction l with
  | nil => simp [insertRecord]
  | cons y l ih =>
    have hp := List.pairwise_cons.1 h
    have hy := hn y (by simp)
    unfold insertRecord
    split
    · rename_i hb
      refine List.pairwise_cons.2 ⟨fun x hx => ?_, h⟩
      rcases List.mem_cons.1 hx with rfl | hx
      · exact ⟨hb, hy.symm⟩
      · exact ⟨recordBefore_trans hb (hp.1 x hx).1, (hn x (by simp [hx])).symm⟩
    · rename_i hb
      refine List.pairwise_cons.2 ⟨fun x hx => ?_, ih hp.2 fun x hx => hn x (by simp [hx])⟩
      rcases (mem_insertRecord r x l).1 hx with rfl | hx
      · exact ⟨recordBefore_total hy.symm (by simpa using hb), hy⟩
      · exact hp.1 x hx

theorem insertRecord_length (r : CompactRecord) (l : List CompactRecord) :
    (insertRecord r l).length = l.length + 1 := by
  induction l with
  | nil => rfl
  | cons y l ih =>
    unfold insertRecord
    split
    · rfl
    · simp [ih]

/-- A record of an unused compact id joins a list with room for it. -/
theorem CompactOk.insert {u : CompactUnit} (ok : CompactOk u) {r : CompactRecord}
    (hl : u.list.length < 4) (hn : ∀ x ∈ u.list, x.id ≠ r.id) (hr : RecordOk r) :
    CompactOk { u with list := insertRecord r u.list } := by
  refine ⟨?_, insertRecord_pairwise r _ ok.2.1 hn, fun x hx => ?_, ok.2.2.2⟩
  · show (insertRecord r u.list).length ≤ 4
    rw [insertRecord_length]; omega
  · rcases (mem_insertRecord r x u.list).1 hx with rfl | hx
    · exact hr
    · exact ok.2.2.1 x hx

/-- Fewer records. -/
theorem CompactOk.filter {u : CompactUnit} (ok : CompactOk u) (p : CompactRecord → Bool) :
    CompactOk { u with list := u.list.filter p } :=
  ⟨(List.length_filter_le _ _).trans ok.1, ok.2.1.filter _,
    fun r hr => ok.2.2.1 r (List.mem_filter.1 hr).1, ok.2.2.2⟩

/-- No record is kept. -/
theorem CompactOk.cleared {u : CompactUnit} (hl : u.list = []) (hp : u.pending.length ≤ 4) :
    CompactOk u := by
  refine ⟨by simp [hl], by simp [hl], by simp [hl], hp⟩

/-! ### The warning condition (R102) -/

theorem warningRaised_keeps (h : Keeps s0 s) : Keeps s0 (warningRaised s) :=
  h.foldl (fun _ _ ht => queueFrame_keeps ht _) _

theorem warningCleared_keeps (h : Keeps s0 s) : Keeps s0 (warningCleared s) :=
  (withdrawFrames_keeps h _).foldl (fun _ _ ht => queueFrame_keeps ht _) _

/-! ### Frames -/

theorem callVerdict_room {p : CallPayload} {az : Int} (h : callVerdict s p = .ok az) :
    s.compact.list.length < 4 := by
  unfold callVerdict at h
  split at h
  · cases h
  · omega

theorem newRecord_ok (s : State) (sender : Nat) (p : CallPayload) (az : Int) :
    RecordOk (newRecord s sender p az) := by
  simp [RecordOk, newRecord, isLive]

theorem evaluateCall_keeps (h : Keeps s0 s) (sender : Nat) (p : CallPayload) :
    Keeps s0 (evaluateCall s sender p) := by
  unfold evaluateCall
  split
  · split <;> exact queueFrame_keeps h _
  · rename_i hn
    split
    · exact queueFrame_keeps h _
    · rename_i az hv
      have ht : Keeps s0 (queueFrame (s.withCompact { s.compact with
          list := insertRecord (newRecord s sender p az) s.compact.list }) (.reply p.id 0 0)) :=
        queueFrame_keeps (h.withCompact fun ok => ok.insert (callVerdict_room hv)
          (fun x hx => by
            show x.id ≠ p.id
            simpa using List.find?_eq_none.1 hn x hx) (newRecord_ok ..)) _
      dsimp only
      split
      · exact queueFrame_keeps ht _
      · exact ht

theorem takeCall_keeps (h : Keeps s0 s) (sender : Nat) (p : CallPayload) :
    Keeps s0 (takeCall s sender p) := by
  unfold takeCall
  split
  · split
    · exact evaluateCall_keeps h _ _
    · split
      · rename_i hl
        exact h.withCompact fun ok => ⟨ok.1, ok.2.1, ok.2.2.1, by simp; omega⟩
      · exact h
    · exact queueFrame_keeps h _
    · exact h
  · exact h

theorem takeReply_keeps (h : Keeps s0 s) (sender id verdict reason : Nat) :
    Keeps s0 (takeReply s sender id verdict reason) := by
  unfold takeReply
  repeat' split
  all_goals first | exact h | exact setMember_keeps h _ _ _

theorem addHold_keeps (h : Keeps s0 s) (id n : Nat) : Keeps s0 (addHold s id n) := by
  unfold addHold
  split
  · rename_i r hr
    split
    · have ht : Keeps s0 (changeRecord s id fun x =>
          { x with
            holds := if x.holds.contains n then x.holds else x.holds ++ [n]
            state := if x.state == .moving then .held else x.state }) := by
        refine changeRecord_keeps h hr (fun _ => ⟨rfl, rfl⟩) fun ok => ?_
        obtain ⟨a, b, c⟩ := ok
        unfold RecordOk isLive at *
        have hne : (if r.holds.contains n then r.holds else r.holds ++ [n]) ≠ [] := by
          split
          · rename_i hc; intro e; simp [e] at hc
          · simp
        cases hs : r.state <;> simp_all
      dsimp only
      split
      · exact axisHold_keeps ht _
      · exact ht
    · exact h
  · exact h

theorem removeHold_keeps (h : Keeps s0 s) (id n : Nat) : Keeps s0 (removeHold s id n) := by
  unfold removeHold
  split
  · rename_i r hr
    split
    · have ht : Keeps s0 (changeRecord s id fun x =>
          { x with
            holds := x.holds.filter (· != n)
            state := if x.state == .held && (x.holds.filter (· != n)).isEmpty then .moving
              else x.state }) := by
        refine changeRecord_keeps h hr (fun _ => ⟨rfl, rfl⟩) fun ok => ?_
        obtain ⟨a, b, c⟩ := ok
        unfold RecordOk isLive at *
        cases hs : r.state <;> cases hf : (r.holds.filter (· != n)) <;> simp_all
      dsimp only
      split
      · exact axisRelease_keeps ht _
      · exact ht
    · exact h
  · exact h

theorem takeHold_keeps (h : Keeps s0 s) (sender id : Nat) : Keeps s0 (takeHold s sender id) := by
  unfold takeHold
  split
  · exact addHold_keeps h _ _
  · exact h

theorem takeResume_keeps (h : Keeps s0 s) (sender id : Nat) :
    Keeps s0 (takeResume s sender id) := by
  unfold takeResume
  split
  · exact removeHold_keeps h _ _
  · exact h

theorem takeCancel_keeps (h : Keeps s0 s) (sender id : Nat) :
    Keeps s0 (takeCancel s sender id) := by
  unfold takeCancel
  repeat' split
  all_goals first | exact h | exact makeTerminal_keeps h _ (by simp)

theorem takeArrive_keeps (h : Keeps s0 s) (sender id : Nat) (az el : Int) :
    Keeps s0 (takeArrive s sender id az el) := by
  unfold takeArrive
  dsimp only
  repeat' split
  all_goals first
    | exact h
    | exact completionTest_keeps (setMember_keeps h _ _ _) _
    | exact setFlag_keeps (setMember_keeps h _ _ _) _ _ _

theorem memberLeaves_keeps (h : Keeps s0 s) (id n reason : Nat) :
    Keeps s0 (memberLeaves s id n reason) := by
  unfold memberLeaves
  repeat' split
  all_goals first | exact h | exact afterLeft_keeps (setMember_keeps h _ _ _) _

theorem takeLeave_keeps (h : Keeps s0 s) (sender id reason : Nat) :
    Keeps s0 (takeLeave s sender id reason) := by
  unfold takeLeave
  split
  · exact memberLeaves_keeps h _ _ _
  · exact h

theorem compactPeerLost_keeps (h : Keeps s0 s) (n : Nat) : Keeps s0 (compactPeerLost s n) := by
  unfold compactPeerLost
  split
  · exact h.foldl (fun _ _ ht => memberLeaves_keeps ht _ _ _) _
  · exact h

/-! ### Notices -/

theorem withStowMark_keeps (h : Keeps s0 s) (b : Bool) :
    Keeps s0 (s.withCompact { s.compact with stowMark := b }) :=
  h.withCompact (by exact id)

theorem compactStowOrder_keeps (h : Keeps s0 s) : Keeps s0 (compactStowOrder s) :=
  leaveAll_keeps (withStowMark_keeps h true) _

theorem compactCalmNotice_keeps (h : Keeps s0 s) : Keeps s0 (compactCalmNotice s) :=
  withStowMark_keeps h false

theorem compactMaskNotice_keeps (h : Keeps s0 s) (old new : Scope) :
    Keeps s0 (compactMaskNotice s old new) := by
  unfold compactMaskNotice
  split
  · exact leaveAll_keeps h _
  · exact h

/-! ### The start time and the deadline -/

theorem insertJoint_keeps (h : Keeps s0 s) (r : CompactRecord) : Keeps s0 (insertJoint s r) := by
  unfold insertJoint
  exact tryStart_keeps (h.withAxis fun ok => by exact ok.still (by simp) rfl rfl rfl rfl rfl)

theorem motionStart_keeps (h : Keeps s0 s) (id : Nat) : Keeps s0 (motionStart s id) := by
  unfold motionStart
  split
  · rename_i r hr
    split
    · split
      · exact ownLeave_keeps h _ _
      · exact h
    · refine insertJoint_keeps ?_ _
      exact changeRecord_keeps h hr (fun _ => ⟨rfl, rfl⟩) fun ok => ok
  · exact h

/-- A record in FORMING goes on to MOVING or HELD and starts its motion. -/
theorem proceed_keeps (h : Keeps s0 s) {id : Nat} {r : CompactRecord}
    (hr : findRecord s id = some r) (hf : r.state = .forming) :
    Keeps s0 (motionStart (changeRecord s id fun x =>
      { x with state := if x.holds.isEmpty then .moving else .held }) id) := by
  refine motionStart_keeps ?_ id
  refine changeRecord_keeps h hr (fun _ => ⟨rfl, rfl⟩) fun ok => ?_
  obtain ⟨a, b, c⟩ := ok
  unfold RecordOk isLive at *
  cases hh : r.holds <;> simp_all

theorem decideStart_keeps (h : Keeps s0 s) {r : CompactRecord}
    (hr : findRecord s r.id = some r) (hf : r.state = .forming) :
    Keeps s0 (decideStart s r) := by
  unfold decideStart
  dsimp only
  split
  · have ht : Keeps s0 (changeRecord s r.id fun x =>
        { x with members := x.members.map fun m => { m with state := leftAtStart m.state } }) :=
      changeRecord_keeps h hr (fun _ => ⟨rfl, rfl⟩) fun ok => ok
    split
    · refine proceed_keeps (r := { r with
          members := r.members.map fun m => { m with state := leftAtStart m.state } }) ht ?_ ?_
      · rw [findRecord_changeRecord, hr]
        · rfl
        · exact fun _ => rfl
      · exact hf
    · exact makeTerminal_keeps ht _ (by simp)
  · split
    · exact proceed_keeps h hr hf
    · exact makeTerminal_keeps h _ (by simp)

theorem startTime_keeps (h : Keeps s0 s) (id : Nat) : Keeps s0 (startTime s id) := by
  unfold startTime
  split
  · rename_i r hr
    split
    · rename_i hc
      refine decideStart_keeps h ?_ (by simp only [Bool.and_eq_true, beq_iff_eq] at hc; exact hc.1)
      rw [(findRecord_some hr).2, hr]
    · exact h
  · exact h

theorem deadline_keeps (h : Keeps s0 s) (id : Nat) : Keeps s0 (deadline s id) := by
  unfold deadline
  dsimp only
  split
  · split
    · split
      · split
        · exact makeTerminal_keeps (startTime_keeps h _) _ (by simp)
        · exact startTime_keeps h _
      · exact startTime_keeps h _
    · exact h
  · exact h

theorem removeRecord_keeps (h : Keeps s0 s) (id : Nat) : Keeps s0 (removeRecord s id) := by
  unfold removeRecord
  split
  · split
    · have hq := (withdrawFrames_quiet (.refl s) (isLeaveOf id)).compact
      refine (withdrawFrames_keeps h _).withCompact fun ok => ?_
      rw [← hq]
      exact ok.filter _
    · exact h
  · exact h

/-! ### Resets, clash and own frames -/

theorem compactMotionReset_keeps (h : Keeps s0 s) : Keeps s0 (compactMotionReset s) := by
  unfold compactMotionReset
  refine Keeps.withCompact (withdrawFrames_keeps (h.foldl (fun _ _ ht => ?_) _) _) fun _ => ?_
  · exact compactFailed_keeps (ht.trans (queueLeave_recs (.refl _) _ _).keeps) _ _
  · exact CompactOk.cleared rfl (by simp)

theorem takeFree_keeps (h : Keeps s0 s) : Keeps s0 (takeFree s).2 :=
  h.trans { Keeps.refl s with }

theorem compactClash_keeps (h : Keeps s0 s) : Keeps s0 (compactClash s) := by
  have ht : Keeps s0 (s.withCompact { s.compact with list := [] }) :=
    h.withCompact fun ok => CompactOk.cleared rfl ok.2.2.2
  unfold compactClash
  dsimp only
  split
  · exact ht
  · exact compactFailed_keeps (takeFree_keeps ht) _ _
  · exact compactFailed_keeps (takeFree_keeps (takeFree_keeps ht)) _ _

theorem ownHoldDone_keeps (h : Keeps s0 s) (id : Nat) : Keeps s0 (ownHoldDone s id) := by
  unfold ownHoldDone
  dsimp only
  split
  · split
    · exact addHold_keeps h _ _
    · exact queueFrame_keeps (addHold_keeps h _ _) _
  · exact addHold_keeps h _ _

theorem ownResumeDone_keeps (h : Keeps s0 s) (id : Nat) : Keeps s0 (ownResumeDone s id) :=
  removeHold_keeps h _ _

end Sys2Proof.Machine
end

