-- ==== Sys2Proof/Laws/Queue.lean ====
section
/-! SUPPORT. What queueing leaves of the frames held: a settlement of the power account keeps every
frame that has started, a frame queued where a slot is free is held, and what the loss of a frame
leads to. -/

namespace Sys2Proof.Machine

/-- Frames that have started stay in the queue as they were (R69). -/
structure Stays (s t : State) : Prop where
  line : LineOk s.line → LineOk t.line
  started : LineOk s.line → ∀ x ∈ s.line.queue, x.started = true → x ∈ t.line.queue

theorem Stays.refl (s : State) : Stays s s := ⟨id, fun _ _ h _ => h⟩

theorem Stays.trans {s t u : State} (h : Stays s t) (k : Stays t u) : Stays s u :=
  ⟨k.line ∘ h.line, fun ok x hx hs => k.started (h.line ok) x (h.started ok x hx hs) hs⟩

variable {s0 s : State}

theorem Stays.withShare (h : Stays s0 s) (u : ShareUnit) : Stays s0 (s.withShare u) :=
  h.trans ⟨id, fun _ _ h _ => h⟩

theorem Stays.withHeater (h : Stays s0 s) (u : HeaterUnit) : Stays s0 (s.withHeater u) :=
  h.trans ⟨id, fun _ _ h _ => h⟩

theorem Stays.place (h : Stays s0 s) {e : TxEntry} {l : LineUnit} (hp : s.line.place e = some l)
    (hg : ∀ x, sameGroup x e.frame = false) : Stays s0 (s.withLine l) :=
  h.trans ⟨fun ok => ok.place (fun x _ _ => hg x.frame) hp,
    fun ok _ hx hs => LineUnit.place_started ok hp hx hs⟩

theorem withdrawFrames_stays (h : Stays s0 s) (p : TxEntry → Bool) :
    Stays s0 (withdrawFrames s p) :=
  h.trans ⟨fun ok => ok.withdraw p,
    fun _ x hx hs => List.mem_filter.2 ⟨hx, by simp [hs]⟩⟩

theorem reviseFrames_stays (h : Stays s0 s) {f : TxEntry → TxEntry}
    (hc : ∀ e, frameClass (f e).frame = frameClass e.frame)
    (hg : ∀ e x, sameGroup (f e).frame x = sameGroup e.frame x ∧
      sameGroup x (f e).frame = sameGroup x e.frame) : Stays s0 (reviseFrames s f) :=
  h.trans ⟨fun ok => ok.revise f hc hg,
    fun _ x hx hs => List.mem_map.2 ⟨x, hx, by simp [hs]⟩⟩

theorem reviseInrush_stays (h : Stays s0 s) : Stays s0 (reviseInrush s) := by
  refine reviseFrames_stays h (fun e => ?_) fun e x => ?_
  · split
    · rename_i he; rw [he]; rfl
    · rfl
  · split
    · rename_i he; rw [he]; cases x <;> exact ⟨rfl, rfl⟩
    · exact ⟨rfl, rfl⟩

theorem claimFromNone_stays (h : Stays s0 s) : Stays s0 (claimFromNone s) := by
  unfold claimFromNone
  dsimp only
  split
  · split
    · rename_i l hl
      exact Stays.place (s := s.withShare _) (h.withShare _) hl fun x => by cases x <;> rfl
    · exact h.withShare _
  · exact h.withShare _

theorem updateClaim_stays (h : Stays s0 s) : Stays s0 (updateClaim s) := by
  unfold updateClaim
  split
  · split
    · exact claimFromNone_stays h
    · exact h
  · split
    · exact (withdrawFrames_stays h _).withShare _
    · exact reviseInrush_stays h
  · exact h

theorem heaterNotice_stays (h : Stays s0 s) : Stays s0 (heaterNotice s) := by
  unfold heaterNotice
  dsimp only
  split
  · exact h
  · exact updateClaim_stays (h.withShare _)

theorem topUp_stays (h : Stays s0 s) : Stays s0 (topUp s) := by
  unfold topUp
  split
  · exact heaterNotice_stays (h.withHeater _)
  · exact h

theorem enqueueAsk_stays (h : Stays s0 s) (n : Nat) : Stays s0 (enqueue s (.shareAsk n)) := by
  unfold enqueue enqueueEntry
  split
  · split
    · rename_i old ho
      have := List.find?_some ho
      simp only [Bool.and_eq_true] at this
      have hn : ∀ f, sameGroup f (.shareAsk n) = false := fun f => by cases f <;> rfl
      have hf := this.2
      rw [show (TxEntry.fresh (.shareAsk n)).frame = .shareAsk n by rfl, hn] at hf
      cases hf
    · unfold enqueueNew
      split
      · rename_i hc; cases hc
      · split
        · rename_i l hl
          exact h.place hl fun x => by cases x <;> rfl
        · exact h
  · exact h

theorem queueAsk_stays (h : Stays s0 s) : Stays s0 (queueAsk s) := by
  unfold queueAsk
  exact (enqueueAsk_stays h _).withShare _

theorem updateAsk_stays (h : Stays s0 s) : Stays s0 (updateAsk s) := by
  unfold updateAsk
  split
  · split
    · exact withdrawFrames_stays h _
    · have hr := reviseFrames_stays h
        (f := fun e => if isAsk e then { e with frame := .shareAsk (askAmount s) } else e)
        (fun e => by
          unfold isAsk
          cases he : e.frame <;> simp [he, frameClass])
        (fun e x => by
          unfold isAsk
          cases he : e.frame <;> cases x <;> simp [he, sameGroup])
      dsimp only
      split
      · split
        · exact hr
        · exact queueAsk_stays hr
      · exact queueAsk_stays hr
  · exact h

/-- The settlement of the account keeps every frame that has started. -/
theorem settlePower_stays (h : Stays s0 s) (before : State) : Stays s0 (settlePower before s) := by
  unfold settlePower
  split
  · exact updateAsk_stays (topUp_stays h)
  · exact updateAsk_stays h

/-- A COORD or ROUTINE frame of no waiting group takes the lowest free general slot (R71). -/
theorem enqueueEntry_general {e : TxEntry} {k : Nat} (ht : transmits s = true)
    (hm : s.line.groupMate e.frame = none) (hc : frameClass e.frame ≠ .safety)
    (hk : freeSlot s.line.queue 0 8 = some k) :
    enqueueEntry s e = s.withLine (s.line.append k e) := by
  unfold enqueueEntry enqueueNew LineUnit.place
  rw [if_pos ht, hm, hk]
  cases hcl : frameClass e.frame with
  | safety => exact absurd hcl hc
  | coord => rfl
  | routine => rfl

/-- A SAFETY frame of no waiting group takes the lowest free reserved slot, or, with none free, the
lowest free general slot (R72). -/
theorem enqueueEntry_safety {e : TxEntry} {k : Nat} (ht : transmits s = true)
    (hm : s.line.groupMate e.frame = none) (hc : frameClass e.frame = .safety)
    (hk : (freeSlot s.line.queue 8 4 <|> freeSlot s.line.queue 0 8) = some k) :
    enqueueEntry s e = s.withLine (s.line.append k e) := by
  unfold enqueueEntry enqueueNew LineUnit.placeSafety
  rw [if_pos ht, hm]
  simp only [hc, hk]

/-- `MakesRoom` names the frame that `LineUnit.victim` gives (R72). -/
theorem makesRoom_iff (l : LineUnit) (v : TxEntry) : MakesRoom l v ↔ l.victim = some v := by
  unfold MakesRoom LineUnit.victim
  cases l.queue.find? isDisplaceable <;> cases l.queue.find? waitingAnswer <;>
    cases l.queue.reverse.find? waitingCoord <;> cases l.queue.find? (startedOf l .routine) <;>
    simp

/-- A frame placed where a general slot is free (R71). -/
theorem place_free {l : LineUnit} {k : Nat} (h : freeSlot l.queue 0 8 = some k) (e : TxEntry) :
    l.place e = some (l.append k e) := by
  unfold LineUnit.place; rw [h]

/-- What the owner makes of a dropped frame is what `FollowUp` says. -/
theorem onLost_of_followUp {s v w : State} {e : TxEntry} (hc : v.compact = s.compact)
    (hh : v.share = s.share) (hs : v.seq = s.seq) (ht : v.time = s.time)
    (h : FollowUp s e v w) : onLost v e = w := by
  have hr : ∀ id reason, leaveStands v id reason = true ↔
      reason = 16 ∨ (findRecord s id).isSome = true := by
    intro id reason
    simp [leaveStands, findRecord, hc, reasonReset, List.any_eq_true, List.find?_isSome]
  rcases h with ⟨ha, hi, rfl⟩ | ⟨id, reason, hf, hn, hnone, rfl⟩ | ⟨k, ha, hm, hl, hk, rfl⟩ |
    ⟨x, z, hf, hi⟩
  · unfold onLost
    rcases ha with ha | ha <;> split <;> simp_all [mayRepeat]
  · have : leaveStands w id reason = false := by
      rw [Bool.eq_false_iff, Ne, hr]; simp [hn, hnone]
    simp [onLost, hf, this]
  · unfold onLost
    split <;> simp_all [mayRepeat, queueAgain, place_free hk]
  · have hi' : inrushStart v = inrushStart s := by
      unfold inrushStart nowMs now; rw [hh, ht]
    simp only [onLost, hf, claimFromNone, isReady, hs, hh]
    rcases hi with ⟨h1, rfl⟩ | ⟨k, h1, h2, h3, hk, rfl⟩
    · rcases h1 with h1 | h1
      · simp [h1]
      · simp [h1]
    · have hp := place_free hk (TxEntry.fresh (.inrush (inrushStart v) s.share.claimCount))
      rw [hi'] at hp
      simp [h1, h2, h3, hp, hi']

/-- A SAFETY frame of no waiting group, where all 12 slots are occupied, takes the slot of the frame
that makes room, whose owner is told (R72). -/
theorem enqueueEntry_displaces {e v : TxEntry} (ht : transmits s = true)
    (hm : s.line.groupMate e.frame = none) (hc : frameClass e.frame = .safety)
    (hr : freeSlot s.line.queue 8 4 = none) (hg : freeSlot s.line.queue 0 8 = none)
    (hv : MakesRoom s.line v) :
    enqueueEntry s e = onLost (s.withLine ((s.line.remove v.age).append v.slot e)) v := by
  unfold enqueueEntry enqueueNew LineUnit.placeSafety
  rw [if_pos ht, hm]
  simp [hc, hr, hg, (makesRoom_iff _ _).1 hv]

end Sys2Proof.Machine
end

