-- ==== Sys2Proof/Laws/Motion.lean ====
section
/-! SUPPORT. What the Axis Engine's commands can change: MOVE, leg ends, gaps, stops and stalls. -/

namespace Sys2Proof.Machine

variable {s0 s : State}

theorem answerMove_keeps (h : Keeps s0 s) (sender purpose outcome : Nat) :
    Keeps s0 (answerMove s sender purpose outcome) := queueFrame_keeps h _

/-- A move is admitted where the queue has room. -/
theorem admit_keeps (h : Keeps s0 s) (e : MoveEntry) (hq : s.axis.queue.length < 8) :
    Keeps s0 (admitMove s e) := by
  have ht : Keeps s0 (s.withAxis { s.axis with queue := s.axis.queue ++ [e] }) :=
    h.withAxis fun ok => ok.still (by simp; omega) rfl rfl rfl rfl rfl
  unfold admitMove
  dsimp only
  split
  · exact tryStart_keeps ht
  · exact ht

/-- An admitted move finds room in the queue (step 9 of R7). -/
theorem moveOutcome_room {sender el rate : Nat} {p : Purpose} {az : Int}
    (h : moveOutcome s sender p az el rate = outcomeOk) : s.axis.queue.length < 8 := by
  unfold moveOutcome at h
  by_contra hq
  have hq' : 8 ≤ s.axis.queue.length := by omega
  simp only [hq', if_true] at h
  repeat' split at h
  all_goals exact absurd h (by decide)

theorem takeMove_keeps (h : Keeps s0 s) (sender target code : Nat) (p : Purpose) (az : Int)
    (el rate : Nat) : Keeps s0 (takeMove s sender target code p az el rate) := by
  unfold takeMove
  split
  · split
    · dsimp only
      split
      · rename_i ho
        refine admit_keeps (answerMove_keeps h _ _ _) _ ?_
        have ha : (answerMove s sender code (moveOutcome s sender p az el rate)).axis = s.axis :=
          (queueFrame_quiet (.refl s) _).axis
        rw [ha]
        exact moveOutcome_room (by simpa using ho)
      · exact answerMove_keeps h _ _ _
    · exact h.withAxis fun ok => ok.still ok.1 rfl rfl rfl rfl rfl
    · exact answerMove_keeps h _ _ _
    · exact h
  · exact h

/-! ### Leg ends and gaps -/

theorem readEncoders_keeps (h : Keeps s0 s) (p : Encoders) : Keeps s0 (readEncoders s p) :=
  h.withAxis fun ok => ok.still ok.1 rfl rfl rfl rfl rfl

/-- Work on the records from a state with the engine rewritten, after which the engine is rewritten
again. -/
theorem Recs.rewritten {t : State} {a b : AxisUnit} (r : Recs (s.withAxis a) t)
    (hb : AxisOk s.axis → Withdrawn a t.axis → AxisOk b) : Keeps s (t.withAxis b) where
  pending := r.pending
  pins := r.pins
  seq := r.seq
  time := r.time
  peers := r.peers
  lock := r.lock
  keepOut := r.keepOut
  sensor := r.sensor
  kept := r.kept
  flags := r.flags
  axis := fun ok => hb ok r.axis
  compact := r.compact
  cells := r.cells
  named := r.named
  ordered := r.ordered
  line := r.line
  share := r.share

/-- The engine with its leg record cleared. -/
abbrev legless (s : State) : State := s.withAxis { s.axis with leg := none }

/-- GAP follows a leg once the record has been cleared. -/
theorem enterGap_keeps (h : Keeps s0 s) (hl : s.axis.leg.isSome = true) {t : State}
    (r : Recs (legless s) t) : Keeps s0 (enterGap t) := by
  refine judgeBlocked_keeps (h.trans (r.rewritten fun ok w => ?_))
  have hm := ok.2.1.1 hl
  have hs : s.axis.stop = none := by
    cases hs : s.axis.stop with
    | none => rfl
    | some _ => have := ok.2.2.1.1 (by simp [hs]); rcases hm with hm | hm <;> simp [hm] at this
  have wl : t.axis.leg = none := w.leg
  have ws : t.axis.stop = none := w.stop.trans hs
  refine ⟨(w.queue.length_le.trans ok.1 : _), ?_, ?_, ?_, ?_, ?_⟩
  · simp [wl]
  · simp [ws]
  · simp [brakesFollow, wl]
  · simp
  · simp

theorem closeLeg_recs (s : State) : Recs (legless s) (closeLeg s) :=
  (shareLegEnd_quiet (.refl _)).recs

theorem popHead_withdrawn (a : AxisUnit) : Withdrawn a (popHead a) :=
  { Withdrawn.refl a with queue := List.tail_sublist _, motion := .inl ⟨rfl, rfl, rfl⟩ }

theorem endMoveLeg_keeps (h : Keeps s0 s) (hl : s.axis.leg.isSome = true) :
    Keeps s0 (endMoveLeg s) := by
  have hc := closeLeg_recs s
  have hp := withAxis_recs hc (popHead_withdrawn _)
  unfold endMoveLeg
  dsimp only
  split
  · exact enterGap_keeps h hl hc
  · split
    · refine enterGap_keeps h hl ?_
      split
      · exact arrivalNotice_recs hp _ _ _
      · exact hp
    · split
      · exact enterGap_keeps h hl (withAxis_recs hc (dropJoint_withdrawn _))
      · exact enterGap_keeps h hl hc

theorem endStow_axisOk {a b : AxisUnit} (ok : AxisOk a) (hl : a.leg.isSome = true)
    (w : Withdrawn { a with leg := none } b) :
    AxisOk { dropStow b with
      motion := if b.stowMark then .stowed else .idle, releasedAz := false, releasedEl := false } := by
  have hm := ok.2.1.1 hl
  have hs : a.stop = none := by
    cases hs : a.stop with
    | none => rfl
    | some _ => have := ok.2.2.1.1 (by simp [hs]); rcases hm with hm | hm <;> simp [hm] at this
  refine AxisOk.rest ?_ w.leg (w.stop.trans hs) ?_ rfl rfl
  · exact (List.length_filter_le _ _).trans (w.queue.length_le.trans ok.1)
  · dsimp only
    split
    · exact .inr (.inl rfl)
    · exact .inl rfl

theorem endStow_keeps (h : Keeps s0 s) (hl : s.axis.leg.isSome = true) : Keeps s0 (endStow s) := by
  have r := closeLeg_recs s
  unfold endStow
  dsimp only
  generalize closeLeg s = t at r ⊢
  exact judgeBlocked_keeps (h.trans (r.rewritten fun ok w => endStow_axisOk ok hl w))

theorem legEnded_keeps (h : Keeps s0 s) (p : Encoders) : Keeps s0 (legEnded s p) := by
  unfold legEnded
  split
  · rename_i l hl
    have hs : (readEncoders s p).axis.leg.isSome = true := by
      show s.axis.leg.isSome = true
      rw [hl]; rfl
    split
    · split
      · exact endMoveLeg_keeps (readEncoders_keeps h _) hs
      · exact endStow_keeps (readEncoders_keeps h _) hs
      · exact h
    · exact h
  · exact h

theorem gapMinimum_keeps (h : Keeps s0 s) : Keeps s0 (gapMinimum s) := by
  unfold gapMinimum
  split
  · exact tryStart_keeps h
  · exact h

theorem gapBrakes_keeps (h : Keeps s0 s) : Keeps s0 (gapBrakes s) := by
  unfold gapBrakes
  split
  · rename_i hg
    refine h.withAxis fun ok => ?_
    have hm : s.axis.motion = .gap := by
      simp only [Bool.and_eq_true, beq_iff_eq] at hg; exact hg.1
    have hn := ok.noRecords (by simp [hm])
    refine ⟨ok.1, ok.2.1, ok.2.2.1, ?_, fun _ => rfl, fun _ => ⟨rfl, rfl⟩⟩
    simp [brakesFollow, hn.1]
  · exact h

/-! ### Stops and stalls -/

theorem endStop_keeps (h : Keeps s0 s) (hs : s.axis.motion = .stopping) :
    Keeps s0 (endStop s) := by
  refine shareLegEnd_keeps (h.withAxis fun ok => ?_)
  refine AxisOk.rest ok.1 ?_ rfl (.inl rfl) rfl rfl
  show s.axis.leg = none
  cases hl : s.axis.leg with
  | none => rfl
  | some _ => have := ok.2.1.1 (by simp [hl]); simp [hs] at this

theorem stopEnded_keeps (h : Keeps s0 s) (p : Encoders) (az el : Nat) :
    Keeps s0 (stopEnded s p az el) := by
  unfold stopEnded
  split
  · rename_i hm _
    split
    · dsimp only
      split
      · exact haltWith_keeps (readEncoders_keeps h _) _ _
      · split
        · exact judgeBlocked_keeps (endStop_keeps (readEncoders_keeps h _) hm)
        · exact goOn_keeps (judgeBlocked_keeps (endStop_keeps (readEncoders_keeps h _) hm))
    · exact h
  · exact h

theorem legStalled_keeps (h : Keeps s0 s) (p : Encoders) : Keeps s0 (legStalled s p) := by
  unfold legStalled
  split
  · split
    · dsimp only
      exact flush_keeps (judgeBlocked_keeps ((readEncoders_keeps h p).withAxis fun ok => by
        exact ⟨ok.1, by simp, by simp, by simp [brakesFollow], by simp, by simp⟩)) _
    · exact h
  · exact h

theorem stopStalled_keeps (h : Keeps s0 s) (p : Encoders) (az el : Nat) :
    Keeps s0 (stopStalled s p az el) := by
  unfold stopStalled
  split
  · split
    · exact haltWith_keeps (readEncoders_keeps h _) _ _
    · exact h
  · exact h

/-! ### Inputs and searches -/

theorem limitActive_keeps (h : Keeps s0 s) (a : Axis) (e : LimitEnd) :
    Keeps s0 (limitActive s a e) := by
  have hm := markPair_keeps h
  unfold limitActive
  dsimp only
  split
  · exact haltWith_keeps hm _ _
  · split
    · exact haltWith_keeps hm _ _
    · split
      · rename_i hu
        refine endStow_keeps hm ?_
        simp only [Bool.and_eq_true, unreferencedStow] at hu
        have := hu.1.1
        split at this
        · rename_i l hl; rw [hl]; rfl
        · cases this
      · exact haltWith_keeps hm _ _

theorem descentOver_keeps (h : Keeps s0 s) : Keeps s0 (descentOver s) := by
  unfold descentOver
  split
  · rename_i l hl
    split
    · refine h.withAxis fun ok => ⟨ok.1, ?_, ok.2.2.1, ?_, ok.2.2.2.2⟩
      · simpa [hl] using ok.2.1
      · have := ok.2.2.2.1
        unfold brakesFollow at this ⊢
        rw [hl] at this
        exact this
    · exact h
  · exact h

theorem indexSeen_keeps (h : Keeps s0 s) (a : Axis) : Keeps s0 (indexSeen s a) := by
  unfold indexSeen
  split
  · rename_i l hl
    have hs : s.axis.leg.isSome = true := by rw [hl]; rfl
    split
    · dsimp only
      split
      · exact endMoveLeg_keeps (h.withAxis fun ok => ok.still ok.1 rfl rfl rfl rfl rfl) hs
      · exact endMoveLeg_keeps (h.withAxis fun ok => ok.still ok.1 rfl rfl rfl rfl rfl) hs
    · exact h
  · exact h

theorem travelLimit_keeps (h : Keeps s0 s) (p : Encoders) : Keeps s0 (travelLimit s p) := by
  unfold travelLimit
  split
  · split
    · exact haltWith_keeps (readEncoders_keeps h _) _ _
    · exact h
  · exact h

theorem descentLimit_keeps (h : Keeps s0 s) (p : Encoders) : Keeps s0 (descentLimit s p) := by
  unfold descentLimit
  split
  · split
    · exact haltWith_keeps (readEncoders_keeps h _) _ _
    · exact h
  · exact h

end Sys2Proof.Machine
end

