-- ==== Sys2Proof/Laws/Wind.lean ====
section
/-! SUPPORT. What the Wind Unit's operations can change, and that its cells keep their shape (R135,
R136). -/

namespace Sys2Proof.Machine

/-- What `Keeps` gives but for the Wind Unit, whose cells keep their shape. -/
structure Sways (s t : State) : Prop where
  pending : t.pending = s.pending
  pins : t.pins = s.pins
  seq : t.seq = s.seq
  time : t.time = s.time
  peers : t.peers = s.peers
  lock : t.lock = s.lock
  keepOut : t.keepOut = s.keepOut
  sensor : t.sensor = s.sensor
  kept : t.report.pending = s.report.pending
  flags : t.report.flags.length = s.report.flags.length
  axis : AxisOk s.axis → AxisOk t.axis
  compact : CompactOk s.compact → CompactOk t.compact
  wind : WindOk s.wind → WindOk t.wind
  line : LineOk s.line → LineOk t.line
  share : LoansOk s.share → LoansOk t.share

theorem Keeps.sways {s t : State} (h : Keeps s t) : Sways s t where
  pending := h.pending
  pins := h.pins
  seq := h.seq
  time := h.time
  peers := h.peers
  lock := h.lock
  keepOut := h.keepOut
  sensor := h.sensor
  kept := h.kept
  flags := h.flags
  axis := h.axis
  compact := h.compact
  wind := by unfold WindOk; rw [h.cells]; exact id
  line := h.line
  share := h.share

theorem Sways.refl (s : State) : Sways s s := (Keeps.refl s).sways

theorem Sways.trans {s t u : State} (h : Sways s t) (k : Sways t u) : Sways s u where
  pending := k.pending.trans h.pending
  pins := k.pins.trans h.pins
  seq := k.seq.trans h.seq
  time := k.time.trans h.time
  peers := k.peers.trans h.peers
  lock := k.lock.trans h.lock
  keepOut := k.keepOut.trans h.keepOut
  sensor := k.sensor.trans h.sensor
  kept := k.kept.trans h.kept
  flags := k.flags.trans h.flags
  axis := k.axis ∘ h.axis
  compact := k.compact ∘ h.compact
  wind := k.wind ∘ h.wind
  line := k.line ∘ h.line
  share := k.share ∘ h.share

theorem Sways.keeps {s t u : State} (h : Sways s t) (k : Keeps t u) : Sways s u := h.trans k.sways

variable {s0 s : State}

theorem Sways.foldl {α : Type} {f : State → α → State}
    (hf : ∀ (t : State) (a : α), Sways s0 t → Sways s0 (f t a)) (h : Sways s0 s) (l : List α) :
    Sways s0 (l.foldl f s) := by
  induction l generalizing s with
  | nil => exact h
  | cons a l ih => exact ih (hf s a h)

theorem Sways.withWind (h : Sways s0 s) {u : WindUnit} (hu : WindOk s.wind → WindOk u) :
    Sways s0 (s.withWind u) :=
  h.trans { Sways.refl s with wind := hu }

/-! ### Orders -/

theorem stowOrder_sways (h : Sways s0 s) : Sways s0 (stowOrder s) := by
  unfold stowOrder
  exact (h.withWind (by exact id)).keeps (judgeBlocked_keeps (compactStowOrder_keeps
    (axisStowOrder_keeps (.refl _))))

theorem calmNotice_sways (h : Sways s0 s) : Sways s0 (calmNotice s) := by
  unfold calmNotice
  exact (h.withWind (by exact id)).keeps (judgeBlocked_keeps (compactCalmNotice_keeps
    (axisCalmNotice_keeps (.refl _))))

theorem orderFor_sways (h : Sways s0 s) (c : Nat) : Sways s0 (orderFor s c) := by
  unfold orderFor
  split
  · exact stowOrder_sways h
  · exact h

theorem calmFor_sways (h : Sways s0 s) (c : Nat) : Sways s0 (calmFor s c) := by
  unfold calmFor
  split
  · exact calmNotice_sways h
  · exact h

/-! ### Cells -/

/-- A cell's record changed by a function that keeps its shape, given the record as it stands. -/
theorem changeCell_sways (h : Sways s0 s) (c : Nat) {f : Cell → Cell}
    (hf : CellOk (cellAt s c) → CellOk (f (cellAt s c))) : Sways s0 (changeCell s c f) := by
  refine h.withWind fun ok => ⟨by simpa using ok.1, fun x hx => ?_⟩
  obtain ⟨i, hi, rfl⟩ := List.mem_iff_getElem.1 hx
  simp only [List.length_modify] at hi
  have hok := ok.2 _ (List.getElem_mem hi)
  simp only [List.getElem_modify]
  split
  · rename_i e
    subst e
    have hc : cellAt s c = s.wind.cells[c] := by simp [cellAt, hi]
    rw [← hc] at hok ⊢
    exact hf hok
  · exact hok

/-- Every cell's record changed by functions that keep its shape. -/
theorem changeCells_sways (h : Sways s0 s) {f : Nat → Cell → Cell}
    (hf : ∀ i x, CellOk x → CellOk (f i x)) : Sways s0 (changeCells s f) := by
  refine h.withWind fun ok => ⟨by simpa using ok.1, fun x hx => ?_⟩
  obtain ⟨i, hi, rfl⟩ := List.mem_mapIdx.1 hx
  exact hf _ _ (ok.2 _ (List.getElem_mem hi))

theorem cellStow_ok (cause : WindCause) {x : Cell} (h : CellOk x) : CellOk (cellStow cause x) := by
  simp [CellOk, cellStow, h.2.2.1, h.2.2.2]

theorem cellRelease_ok {st : CellState} (hs : st = .calm ∨ st = .watch) {x : Cell} (h : CellOk x) :
    CellOk (cellRelease st x) := by
  rcases hs with rfl | rfl <;> simp [CellOk, cellRelease, h.2.2.1, h.2.2.2]

theorem changeEntry_ok (n : Nat) {f : RosterEntry → RosterEntry}
    (hf : ∀ e, (f e).station = e.station) {x : Cell} (h : CellOk x) :
    CellOk (changeEntry n f x) := by
  refine ⟨h.1, h.2.1, by simpa [changeEntry] using h.2.2.1, ?_⟩
  simp only [changeEntry, List.pairwise_map]
  refine h.2.2.2.imp fun {a b} hab => ?_
  have : ∀ e : RosterEntry, (if (e.station == n) = true then f e else e).station = e.station :=
    fun e => by split <;> simp [hf]
  rw [this, this]
  exact hab

theorem joinRoster_ok (n : Nat) {x : Cell} (h : CellOk x) : CellOk (joinRoster n x) := by
  unfold joinRoster
  split
  · exact h
  · rename_i hc
    simp only [Bool.or_eq_true, decide_eq_true_eq, not_or, List.any_eq_true, not_exists,
      not_and, beq_iff_eq] at hc
    refine ⟨h.1, h.2.1, by simp; omega, ?_⟩
    rw [List.pairwise_append]
    refine ⟨h.2.2.2, by simp, fun a ha b hb => ?_⟩
    simp only [List.mem_singleton] at hb
    subst hb
    exact hc.1 a ha

/-! ### Judgements -/

theorem holdRun_sways (h : Sways s0 s) (c : Nat) :
    Sways s0 (changeCell s c fun x => { x with holdRun := 0 }) :=
  changeCell_sways h c fun ok => ok

theorem judgeNoSensor_sways (h : Sways s0 s) (orders : Bool) (c : Nat) :
    Sways s0 (judgeNoSensor orders s c) := by
  unfold judgeNoSensor
  dsimp only
  have ht := holdRun_sways h c
  have hu := changeCell_sways ht c (f := cellStow .noSensor) (cellStow_ok _)
  split
  · split
    · split
      · exact hu
      · split
        · exact orderFor_sways hu _
        · exact hu
    · exact ht
  · exact h

theorem judgeLevels_sways (h : Sways s0 s) (c : Nat) : Sways s0 (judgeLevels s c) := by
  have hc : Sways s0 (changeCell s c (cellRelease .calm)) :=
    changeCell_sways h c (cellRelease_ok (.inl rfl))
  have hw : Sways s0 (changeCell s c (cellRelease .watch)) :=
    changeCell_sways h c (cellRelease_ok (.inr rfl))
  unfold judgeLevels
  dsimp only
  split
  · rename_i hs
    split
    · refine changeCell_sways h c fun ok => ?_
      refine ⟨?_, by simp, ok.2.2.1, ok.2.2.2⟩
      have := ok.1
      rw [hs] at this
      simpa using this
    · exact h
  · split
    · exact calmFor_sways hc c
    · split
      · exact hw
      · exact h
  · split
    · exact calmFor_sways hc c
    · exact h
  · exact h

theorem judgeCells_sways (h : Sways s0 s) (orders : Bool) : Sways s0 (judgeCells s orders) :=
  h.foldl (fun _ _ ht => judgeLevels_sways (judgeNoSensor_sways ht _ _) _) _

/-! ### Roster changes -/

theorem changeEntry_sways (h : Sways s0 s) (c n : Nat) {f : RosterEntry → RosterEntry}
    (hf : ∀ e, (f e).station = e.station) : Sways s0 (changeCell s c (changeEntry n f)) :=
  changeCell_sways h c (changeEntry_ok n hf)

/-- Only the own number has an entry that no frame moves (R138). -/
@[simp] theorem keptOwn_other {s : State} {n : Nat} (h : n ≠ s.seq.number) (c : Nat) :
    keptOwn s n c = false := by
  simp [keptOwn, h]

/-- No entry is so kept but in FAULTED for a clash. -/
@[simp] theorem keptOwn_noClash {s : State} (h : isClash s = false) (n c : Nat) :
    keptOwn s n c = false := by
  simp [keptOwn, h]

/-- The own entry is not moved by a frame (R138). -/
theorem reportEntry_kept {s : State} {n c : Nat} (h : keptOwn s n c = true)
    (f : RosterEntry → RosterEntry) : reportEntry s n c f = s := by
  simp [reportEntry, h]

/-- Any other entry is changed as the frame says. -/
theorem reportEntry_moved {s : State} {n c : Nat} (h : keptOwn s n c = false)
    (f : RosterEntry → RosterEntry) : reportEntry s n c f = changeCell s c (changeEntry n f) := by
  simp [reportEntry, h]

theorem reportEntry_sways (h : Sways s0 s) (n c : Nat) {f : RosterEntry → RosterEntry}
    (hf : ∀ e, (f e).station = e.station) : Sways s0 (reportEntry s n c f) := by
  unfold reportEntry
  split
  · exact h
  · exact changeEntry_sways h c n hf

theorem namedCell_ok (s : State) (n c d : Nat) {x : Cell} (h : CellOk x) :
    CellOk (namedCell s n c d x) := by
  unfold namedCell
  split
  · exact joinRoster_ok n h
  · split
    · exact h
    · exact changeEntry_ok n (by exact fun _ => rfl) h

theorem nameCell_sways (h : Sways s0 s) (n c : Nat) : Sways s0 (nameCell s n c) :=
  (changeCells_sways h fun d _ => namedCell_ok s n c d).withWind (by exact id)

theorem levelReport_sways (h : Sways s0 s) (n c : Nat) (level : Level)
    (cause : Option WindCause) : Sways s0 (levelReport s n c level cause) := by
  have ht : Sways s0 (reportEntry s n c fun e => { e with level := some level }) :=
    reportEntry_sways h n c fun _ => rfl
  unfold levelReport
  dsimp only
  split
  · have hv : ∀ g : Cell → WindCause, Sways s0 (changeCell
        (reportEntry s n c fun e => { e with level := some .stow }) c fun x =>
          { cellStow (g x) x with lastStow := some (now s), holdRun := 0 }) := fun g =>
      changeCell_sways ht c fun ok => by exact (cellStow_ok (g _) ok : CellOk (cellStow _ _))
    split
    · exact hv _
    · exact orderFor_sways (hv _) _
  · refine changeCell_sways ht c fun ok => ?_
    generalize cellAt _ c = x at ok ⊢
    obtain ⟨a, b, l, p⟩ := ok
    cases hx : x.state <;> simp_all [CellOk]
  · exact ht

theorem windFaulted_station (s : State) (e : RosterEntry) :
    (windFaulted s e).station = e.station := by
  unfold windFaulted; split <;> rfl

theorem takeWind_sways (h : Sways s0 s) (sender cell level cause : Nat) :
    Sways s0 (takeWind s sender cell level cause) := by
  have ht := nameCell_sways h sender cell
  unfold takeWind
  dsimp only
  split
  · exact h
  · split
    · exact h
    · split
      · exact judgeCells_sways ht _
      · split
        · exact judgeCells_sways
            (reportEntry_sways ht _ _ (by exact fun e => windFaulted_station s e)) _
        · exact judgeCells_sways (levelReport_sways
            (reportEntry_sways ht _ _ (by exact fun _ => rfl)) _ _ _ _) _

theorem beaconSensorReport_sways (h : Sways s0 s) (n : Nat) (role : Bool) (cell : Nat)
    (status : Status) (level : Level) :
    Sways s0 (beaconSensorReport s n role cell status level) := by
  have ht := nameCell_sways h n cell
  unfold beaconSensorReport
  dsimp only
  split
  · have hu : Sways s0 (reportEntry (nameCell s n cell) n cell fun e =>
        { e with status := status, working := status != .faulted }) :=
      reportEntry_sways ht _ _ fun _ => rfl
    split
    · exact judgeCells_sways ht _
    · split
      · exact judgeCells_sways (levelReport_sways hu _ _ _ _) _
      · exact judgeCells_sways hu _
  · refine judgeCells_sways (changeCells_sways h ?_) _
    exact fun _ _ ok => changeEntry_ok n (by exact fun _ => rfl) ok

theorem windPeerAbsent_sways (h : Sways s0 s) (n : Nat) : Sways s0 (windPeerAbsent s n) := by
  unfold windPeerAbsent
  refine judgeCells_sways (changeCells_sways h ?_) _
  exact fun _ _ ok => changeEntry_ok n (by exact fun _ => rfl) ok

theorem windPeerPresent_sways (h : Sways s0 s) (n : Nat) (back : Bool) :
    Sways s0 (windPeerPresent s n back) := by
  unfold windPeerPresent
  split
  · have ht := changeEntry_sways h ‹Nat› n
      (f := fun e => { e with working := e.working || e.status != .faulted }) fun _ => rfl
    dsimp only
    split
    · exact ht
    · exact judgeCells_sways ht _
  · exact h

theorem windPeerRestarted_sways (h : Sways s0 s) (n : Nat) :
    Sways s0 (windPeerRestarted s n) := by
  unfold windPeerRestarted
  refine judgeCells_sways (changeCells_sways h ?_) _
  exact fun _ _ ok => changeEntry_ok n (by exact fun _ => rfl) ok

theorem ownSensorNotice_sways (h : Sways s0 s) : Sways s0 (ownSensorNotice s) := by
  unfold ownSensorNotice
  split
  · refine judgeCells_sways (changeEntry_sways h _ _ ?_) _
    exact fun _ => rfl
  · exact h

theorem joinOwn_ok (s : State) {x : Cell} (h : CellOk x) : CellOk (joinOwn s x) :=
  changeEntry_ok _ (by exact fun _ => rfl) (joinRoster_ok _ h)

theorem addOwnEntry_sways (h : Sways s0 s) : Sways s0 (addOwnEntry s) := by
  unfold addOwnEntry
  split
  · have ht : Sways s0 (changeCell s (cfg s).ownCell (joinOwn s)) :=
      changeCell_sways h _ (joinOwn_ok s)
    exact ht.withWind (by exact id)
  · exact h

theorem orderIfStowed_sways (h : Sways s0 s) : Sways s0 (orderIfStowed s) := by
  unfold orderIfStowed
  dsimp only
  split
  · exact stowOrder_sways (judgeCells_sways h _)
  · exact judgeCells_sways h _

theorem windReady_sways (h : Sways s0 s) : Sways s0 (windReady s) :=
  orderIfStowed_sways (addOwnEntry_sways h)

theorem holdExpiry_sways (h : Sways s0 s) (c : Nat) : Sways s0 (holdExpiry s c) := by
  unfold holdExpiry
  split
  · exact judgeLevels_sways h c
  · exact h

theorem settleExpired_sways (h : Sways s0 s) (c : Nat) : Sways s0 (settleExpired s c) := by
  unfold settleExpired
  split
  · exact judgeLevels_sways h c
  · exact h

end Sys2Proof.Machine
end

