-- ==== Sys2Proof/Laws/Sound.lean ====
section
/-! SUPPORT. The relation every command's effect satisfies: the queue of commands is left alone,
what holds of every state still holds, and array time does not go back; and the Lockout Unit's
operations under it. -/

namespace Sys2Proof.Machine

/-- The queue of commands is unchanged, `Inv` is kept, and, but for a restart, array time does not
decrease (R79). -/
structure Sound (restart : Bool) (s t : State) : Prop where
  pending : t.pending = s.pending
  inv : Inv s → Inv t
  later : restart = false → Inv s → nowMs s ≤ nowMs t

theorem Sways.sound {r : Bool} {s t : State} (h : Sways s t) : Sound r s t where
  pending := h.pending
  inv k :=
    { time := h.time ▸ k.time
      line := h.line k.line
      peers := h.peers ▸ k.peers
      axis := h.axis k.axis
      lock := h.lock ▸ k.lock
      compact := h.compact k.compact
      sensor := h.sensor ▸ k.sensor
      wind := h.wind k.wind
      loans := h.share k.loans
      report := ⟨h.flags.trans k.report.1, h.kept ▸ k.report.2⟩ }
  later _ _ := by
    have ht : now t = now s := by unfold now; rw [h.time]
    unfold nowMs
    rw [ht]

theorem Keeps.sound {r : Bool} {s t : State} (h : Keeps s t) : Sound r s t := h.sways.sound

theorem Sound.refl (r : Bool) (s : State) : Sound r s s := (Keeps.refl s).sound

theorem Sound.trans {r : Bool} {s t u : State} (h : Sound r s t) (k : Sound r t u) :
    Sound r s u where
  pending := k.pending.trans h.pending
  inv := k.inv ∘ h.inv
  later e i := (h.later e i).trans (k.later e (h.inv i))

variable {r : Bool} {s0 s t : State}

theorem Sound.keeps (h : Sound r s0 s) (k : Keeps s t) : Sound r s0 t := h.trans k.sound

theorem Sound.sways (h : Sound r s0 s) (k : Sways s t) : Sound r s0 t := h.trans k.sound

theorem Sound.quiet (h : Sound r s0 s) (k : Quiet s t) : Sound r s0 t := h.keeps k.keeps

theorem Sound.foldl {α : Type} {f : State → α → State}
    (hf : ∀ (t : State) (a : α), Sound r s0 t → Sound r s0 (f t a)) (h : Sound r s0 s)
    (l : List α) : Sound r s0 (l.foldl f s) := by
  induction l generalizing s with
  | nil => exact h
  | cons a l ih => exact ih (hf s a h)

/-! ### Updates of one block -/

theorem Sound.withPins (h : Sound r s0 s) (x : Pins) : Sound r s0 (s.withPins x) :=
  h.trans ⟨rfl, fun k => { k with }, fun _ _ => Nat.le_refl _⟩

theorem Sound.withSeq (h : Sound r s0 s) (x : SeqUnit) : Sound r s0 (s.withSeq x) :=
  h.trans ⟨rfl, fun k => { k with }, fun _ _ => Nat.le_refl _⟩

theorem Sound.withKeepOut (h : Sound r s0 s) (x : List KeepEntry) :
    Sound r s0 (s.withKeepOut x) :=
  h.trans ⟨rfl, fun k => { k with }, fun _ _ => Nat.le_refl _⟩

theorem Sound.withHeater (h : Sound r s0 s) (x : HeaterUnit) : Sound r s0 (s.withHeater x) :=
  h.trans ⟨rfl, fun k => { k with }, fun _ _ => Nat.le_refl _⟩

theorem Sound.withTime (h : Sound r s0 s) {x : TimeUnit} (hx : TimeOk s.time → TimeOk x)
    (hl : r = false → TimeOk s.time → toMs (now s) ≤ toMs ⟨x.sec, x.ms⟩) :
    Sound r s0 (s.withTime x) :=
  h.trans ⟨rfl, fun k => { k with time := hx k.time }, fun e k => hl e k.time⟩

theorem Sound.withLine (h : Sound r s0 s) {x : LineUnit} (hx : LineOk s.line → LineOk x) :
    Sound r s0 (s.withLine x) :=
  h.trans ⟨rfl, fun k => { k with line := hx k.line }, fun _ _ => Nat.le_refl _⟩

theorem Sound.withPeers (h : Sound r s0 s) {x : PeerUnit} (hx : PeersOk s.peers → PeersOk x) :
    Sound r s0 (s.withPeers x) :=
  h.trans ⟨rfl, fun k => { k with peers := hx k.peers }, fun _ _ => Nat.le_refl _⟩

theorem Sound.withLock (h : Sound r s0 s) {x : LockUnit} (hx : LockOk s.lock → LockOk x) :
    Sound r s0 (s.withLock x) :=
  h.trans ⟨rfl, fun k => { k with lock := hx k.lock }, fun _ _ => Nat.le_refl _⟩

theorem Sound.withSensor (h : Sound r s0 s) {x : SensorUnit}
    (hx : SensorOk s.sensor → SensorOk x) : Sound r s0 (s.withSensor x) :=
  h.trans ⟨rfl, fun k => { k with sensor := hx k.sensor }, fun _ _ => Nat.le_refl _⟩

theorem Sound.withShare (h : Sound r s0 s) {x : ShareUnit} (hx : LoansOk s.share → LoansOk x) :
    Sound r s0 (s.withShare x) :=
  h.trans ⟨rfl, fun k => { k with loans := hx k.loans }, fun _ _ => Nat.le_refl _⟩

theorem Sound.withCompact (h : Sound r s0 s) {x : CompactUnit}
    (hx : CompactOk s.compact → CompactOk x) : Sound r s0 (s.withCompact x) :=
  h.trans ⟨rfl, fun k => { k with compact := hx k.compact }, fun _ _ => Nat.le_refl _⟩

theorem Sound.withAxis (h : Sound r s0 s) {x : AxisUnit}
    (hx : AxisOk s.axis → AxisOk x) : Sound r s0 (s.withAxis x) :=
  h.trans ⟨rfl, fun k => { k with axis := hx k.axis }, fun _ _ => Nat.le_refl _⟩

theorem Sound.withReport (h : Sound r s0 s) {x : ReportUnit}
    (hx : ReportOk s.report → ReportOk x) : Sound r s0 (s.withReport x) :=
  h.trans ⟨rfl, fun k => { k with report := hx k.report }, fun _ _ => Nat.le_refl _⟩

theorem setFlag_sound (h : Sound r s0 s) (n detail extra : Nat) :
    Sound r s0 (setFlag s n detail extra) := h.quiet (setFlag_quiet (.refl s) n detail extra)

theorem queueFrame_sound (h : Sound r s0 s) (f : Frame) : Sound r s0 (queueFrame s f) :=
  h.quiet (queueFrame_quiet (.refl s) f)

theorem judgeBlocked_sound (h : Sound r s0 s) : Sound r s0 (judgeBlocked s) :=
  h.keeps (judgeBlocked_keeps (.refl s))

/-! ### The Lockout List -/

theorem reviseBeaconMask_keeps (h : Keeps s0 s) : Keeps s0 (reviseBeaconMask s) := by
  refine h.trans (Quiet.keeps (reviseFrames_quiet (.refl s) (fun e => ?_) fun e x => ?_))
  · split
    · rename_i he; rw [he]; rfl
    · rfl
  · split
    · rename_i he; rw [he]; cases x <;> exact ⟨rfl, rfl⟩
    · exact ⟨rfl, rfl⟩

theorem maskChanged_keeps (h : Keeps s0 s) (old new : Scope) : Keeps s0 (maskChanged s old new) := by
  have ha := axisMaskNotice_keeps h old new
  have hh := ha.trans (Quiet.keeps (heaterMaskNotice_quiet (.refl _) old new))
  exact queueFrame_keeps (reviseBeaconMask_keeps (judgeBlocked_keeps
    (compactMaskNotice_keeps hh old new))) _

/-- The list is replaced in a unit that may have been changed first. -/
theorem setLockList_sound (h : Sound r s0 s) (u : LockUnit) (l : List LockEntry)
    (hl : LockOk s.lock → LockOk { u with list := l }) :
    Sound r s0 (setLockList (s.withLock u) l) := by
  have ht : Sound r s0 ((s.withLock u).withLock { u with list := l }) :=
    Sound.trans h ⟨rfl, fun k => { k with lock := hl k.lock }, fun _ _ => Nat.le_refl _⟩
  unfold setLockList
  dsimp only
  split
  · exact ht
  · exact ht.keeps (maskChanged_keeps (.refl _) _ _)

theorem setLockList_same_sound (h : Sound r s0 s) (l : List LockEntry)
    (hl : LockOk s.lock → LockOk { s.lock with list := l }) : Sound r s0 (setLockList s l) :=
  setLockList_sound h s.lock l hl

/-- Fewer entries. -/
theorem LockOk.filter {u : LockUnit} (h : LockOk u) (p : LockEntry → Bool) :
    LockOk { u with list := u.list.filter p } := by
  refine ⟨h.1, h.2.1.filter _, ?_, fun e he => h.2.2.2.1 e (List.mem_filter.1 he).1, h.2.2.2.2⟩
  exact ((List.filter_sublist (p := p)).filter isRemote).length_le.trans h.2.2.1

theorem answerLock_sound (h : Sound r s0 s) (console subject token outcome : Nat) :
    Sound r s0 (answerLock s console subject token outcome) := by
  unfold answerLock
  split
  · split
    · exact h.withLock fun ok => ⟨ok.1, ok.2.1, ok.2.2.1, ok.2.2.2.1, by simp; omega⟩
    · exact h
  · exact queueFrame_sound h _

theorem lockSetOutcome_ok {sender token : Nat} {scope : Scope}
    (h : lockSetOutcome s sender token scope = outcomeOk) :
    s.lock.list.any (hasToken token) = false ∧ (s.lock.list.filter isRemote).length < 4 := by
  unfold lockSetOutcome at h
  repeat' split at h
  all_goals first
    | exact absurd h (by decide)
    | skip
  exact ⟨by simpa using ‹¬s.lock.list.any (hasToken token) = true›, by omega⟩

theorem takeLockSet_sound (h : Sound r s0 s) (sender target token : Nat) (scope : Scope) :
    Sound r s0 (takeLockSet s sender target token scope) := by
  unfold takeLockSet
  split
  · refine answerLock_sound ?_ _ _ _ _
    split
    · rename_i ho
      have hk := lockSetOutcome_ok (by simpa using ho)
      refine setLockList_same_sound h _ fun ok => ?_
      refine ⟨ok.1, ?_, ?_, ?_, ok.2.2.2.2⟩
      · rw [List.pairwise_append]
        refine ⟨ok.2.1, by simp, fun a ha b hb => ?_⟩
        rw [List.mem_singleton.1 hb]
        have := List.any_eq_false.1 hk.1 a ha
        unfold hasToken at this
        split at this
        · rename_i he; rw [he]; simpa [holderId] using this
        · rename_i he; rw [he]; simp [holderId]
      · rw [List.filter_append, List.length_append]
        have : ([⟨.remote token sender, scope, now s⟩] : List LockEntry).filter isRemote =
          [⟨.remote token sender, scope, now s⟩] := rfl
        rw [this]
        simp only [List.length_singleton]
        omega
      · intro e he
        rcases List.mem_append.1 he with he | he
        · exact ok.2.2.2.1 e he
        · rw [List.mem_singleton.1 he]; rfl
    · exact h
  · exact h

theorem takeLockClear_sound (h : Sound r s0 s) (sender target token : Nat) :
    Sound r s0 (takeLockClear s sender target token) := by
  unfold takeLockClear
  split
  · refine answerLock_sound ?_ _ _ _ _
    split
    · exact setLockList_same_sound h _ fun ok => ok.filter _
    · exact h
  · exact h

/-! ### Keys -/

/-- The keys with one machine in a state, its count at 0. -/
abbrev keysWith (keys : List KeyMachine) (k : Nat) (st : KeyState) : List KeyMachine :=
  keys.modify (k - 1) fun m => { m with state := st, run := 0 }

/-- The state of a key's machine among others. -/
theorem keysWith_state (keys : List KeyMachine) (k i : Nat) (st : KeyState)
    (hk : k - 1 < keys.length) :
    ((keysWith keys k st).getD (i - 1) ⟨.opened, 0, Scope.none⟩).state =
      if k - 1 = i - 1 then st else (keys.getD (i - 1) ⟨.opened, 0, Scope.none⟩).state := by
  unfold keysWith
  by_cases h : k - 1 = i - 1
  · rw [← h]; simp [hk]
  · simp [h, List.getD]

/-- A key between 1 and 4 has its machine. -/
theorem isKey_lt {k : Nat} (h : isKey k = true) : 1 ≤ k ∧ k - 1 < 4 := by
  unfold isKey at h
  have := of_decide_eq_true h
  omega

/-- A key's machine moves to a state where an entry may stand, or moves while its key has none. -/
theorem LockOk.setKey {u : LockUnit} (ok : LockOk u) {k : Nat} (hk : 1 ≤ k ∧ k - 1 < 4)
    {st : KeyState} {l : List LockEntry} (hl : l.Sublist u.list)
    (h : (st ≠ .opened ∧ st ≠ .closing) ∨ ∀ e ∈ l, e.holder ≠ .key k) :
    LockOk { u with keys := keysWith u.keys k st, list := l } := by
  refine ⟨by simpa [keysWith] using ok.1, ok.2.1.sublist hl,
    (hl.filter isRemote).length_le.trans ok.2.2.1, fun e he => ?_, ok.2.2.2.2⟩
  have ho := ok.2.2.2.1 e (hl.subset he)
  unfold keyEntryOk at ho ⊢
  split
  · rename_i i hi
    rw [hi] at ho
    simp only [Bool.and_eq_true] at ho ⊢
    refine ⟨ho.1, ?_⟩
    have hr := of_decide_eq_true ho.1
    rw [keysWith_state u.keys k i st (by have := ok.1; omega)]
    by_cases hki : k - 1 = i - 1
    · rw [if_pos hki]
      rcases h with h | h
      · revert h; cases st <;> simp
      · exact absurd hi (by have : k = i := by omega
                            rw [← this]; exact h e he)
    · rw [if_neg hki]
      exact ho.2
  · rfl

/-- No entry stands for a key whose machine is in OPEN or CLOSING. -/
theorem LockOk.noEntry {u : LockUnit} (ok : LockOk u) {k : Nat}
    (h : (u.keys.getD (k - 1) ⟨.opened, 0, Scope.none⟩).state = .opened ∨
      (u.keys.getD (k - 1) ⟨.opened, 0, Scope.none⟩).state = .closing) :
    ∀ e ∈ u.list, e.holder ≠ .key k := by
  intro e he hk
  have ho := ok.2.2.2.1 e he
  unfold keyEntryOk at ho
  rw [hk] at ho
  simp only [Bool.and_eq_true] at ho
  rcases h with h | h <;> rw [h] at ho <;> exact absurd ho.2 (by simp)

theorem setKey_sound (h : Sound r s0 s) {k : Nat} (hk : 1 ≤ k ∧ k - 1 < 4) {st : KeyState}
    (hs : LockOk s.lock → (st ≠ .opened ∧ st ≠ .closing) ∨
      ∀ e ∈ s.lock.list, e.holder ≠ .key k) : Sound r s0 (setKey s k st) :=
  h.withLock fun ok => ok.setKey hk (List.Sublist.refl _) (hs ok)

theorem keyChange_sound (h : Sound r s0 s) (k : Nat) (closed : Bool) :
    Sound r s0 (keyChange s k closed) := by
  unfold keyChange
  split
  · rename_i hc
    simp only [Bool.and_eq_true] at hc
    have hk := isKey_lt hc.1
    have ht := h.withPins { s.pins with keys := s.pins.keys.set (k - 1) closed }
    dsimp only
    split
    · exact ht
    · split
      · rename_i hs
        split
        · exact setKey_sound ht hk fun ok => .inr (ok.noEntry (.inl hs))
        · exact ht
      · rename_i hs
        split
        · exact ht
        · exact setKey_sound ht hk fun ok => .inr (ok.noEntry (.inr hs))
      · split
        · exact ht
        · exact setKey_sound ht hk fun _ => .inl (by simp)
      · split
        · exact setKey_sound ht hk fun _ => .inl (by simp)
        · exact ht
      · exact ht
  · exact h

/-- The key's entry joins the list as its machine enters CLOSED. -/
theorem addKeyEntry_sound (h : Sound r s0 s) {k : Nat} (hk : 1 ≤ k ∧ k - 1 < 4)
    (hs : (keyMachine s k).state = .closing) :
    Sound r s0 (addKeyEntry (setKey s k .closed) k) := by
  unfold addKeyEntry
  split
  · exact setKey_sound h hk fun _ => .inl (by simp)
  · refine setLockList_sound h _ _ fun ok => ?_
    have hn := ok.noEntry (.inr hs)
    have hw : LockOk { s.lock with keys := keysWith s.lock.keys k .closed } :=
      ok.setKey hk (List.Sublist.refl _) (.inl (by simp))
    refine ⟨hw.1, ?_, ?_, ?_, hw.2.2.2.2⟩
    · rw [List.pairwise_append]
      refine ⟨hw.2.1, by simp, fun a ha b hb => ?_⟩
      rw [List.mem_singleton.1 hb]
      have := hn a ha
      cases hh : a.holder with
      | key i =>
        intro e
        simp only [holderId, Prod.mk.injEq, true_and] at e
        exact this (by rw [hh, e])
      | remote t c => simp [holderId]
    · rw [List.filter_append, List.length_append]
      exact hw.2.2.1
    · intro e he
      rcases List.mem_append.1 he with he | he
      · exact hw.2.2.2.1 e he
      · rw [List.mem_singleton.1 he]
        unfold keyEntryOk
        simp only [Bool.and_eq_true]
        refine ⟨decide_eq_true (by omega), ?_⟩
        have := keysWith_state s.lock.keys k k .closed (by have := ok.1; omega)
        rw [if_pos rfl] at this
        show (match ((keysWith s.lock.keys k .closed).getD (k - 1)
          ⟨.opened, 0, Scope.none⟩).state with
          | .opened => false | .closing => false | _ => true) = true
        rw [this]

/-- The key's entry leaves the list as its machine enters OPEN. -/
theorem removeKeyEntry_sound (h : Sound r s0 s) {k : Nat} (hk : 1 ≤ k ∧ k - 1 < 4) :
    Sound r s0 (removeKeyEntry (setKey s k .opened) k) := by
  refine setLockList_sound h _ _ fun ok => ?_
  refine ok.setKey hk List.filter_sublist (.inr fun e he hh => ?_)
  have := (List.mem_filter.1 he).2
  simp [isKeyEntry, hh] at this

theorem keyClosed_sound (h : Sound r s0 s) (k : Nat) : Sound r s0 (keyClosed s k) := by
  unfold keyClosed
  split
  · rename_i hc
    simp only [Bool.and_eq_true, beq_iff_eq] at hc
    exact addKeyEntry_sound h (isKey_lt hc.1.1) hc.1.2
  · exact h

theorem keyOpened_sound (h : Sound r s0 s) (k : Nat) : Sound r s0 (keyOpened s k) := by
  unfold keyOpened
  split
  · rename_i hc
    simp only [Bool.and_eq_true, beq_iff_eq] at hc
    exact removeKeyEntry_sound h (isKey_lt hc.1.1)
  · exact h

theorem checkKey_sound (h : Sound r s0 s) {k : Nat} (hk : 1 ≤ k ∧ k - 1 < 4) :
    Sound r s0 (checkKey s k) := by
  unfold checkKey
  split
  · split
    · exact setKey_sound h hk fun _ => .inl (by simp)
    · exact removeKeyEntry_sound h hk
  · exact h

theorem keyCheckingOver_sound (h : Sound r s0 s) : Sound r s0 (keyCheckingOver s) := by
  unfold keyCheckingOver
  split
  · split
    · have ht : Sound r s0 (s.withLock { s.lock with checkRun := none }) := h.withLock fun ok => ok
      simp only [List.foldl_cons, List.foldl_nil]
      refine checkKey_sound ?_ (by decide)
      refine checkKey_sound ?_ (by decide)
      refine checkKey_sound ?_ (by decide)
      exact checkKey_sound ht (by decide)
    · exact h
  · exact h

theorem beginChecking_sound (h : Sound r s0 s) : Sound r s0 (beginChecking s) :=
  h.withLock fun ok => ok

theorem rescope_holder (scopes : List Scope) (e : LockEntry) :
    (rescope scopes e).holder = e.holder := by
  unfold rescope; split <;> rfl

theorem takeKeyScopes_sound (h : Sound r s0 s) (scopes : List Scope) :
    Sound r s0 (takeKeyScopes s scopes) := by
  refine setLockList_sound h _ _ fun ok => LockOk.filter (u := { s.lock with
    keys := s.lock.keys.mapIdx fun i m => { m with scope := scopes.getD i Scope.none }
    list := s.lock.list.map (rescope scopes) }) ?_ _
  refine ⟨by simpa using ok.1, ?_, ?_, ?_, ok.2.2.2.2⟩
  · rw [List.pairwise_map]
    refine ok.2.1.imp fun {a b} hab => ?_
    rw [rescope_holder, rescope_holder]
    exact hab
  · refine Nat.le_trans (Nat.le_of_eq ?_) ok.2.2.1
    rw [List.filter_map, List.length_map]
    congr 1
    refine List.filter_congr fun e _ => ?_
    show isRemote (rescope scopes e) = isRemote e
    unfold isRemote
    rw [rescope_holder]
  · intro e he
    obtain ⟨x, hx, rfl⟩ := List.mem_map.1 he
    have := ok.2.2.2.1 x hx
    unfold keyEntryOk at this ⊢
    rw [rescope_holder]
    split
    · rename_i k hk
      rw [hk] at this
      simp only [List.getD, List.getElem?_mapIdx] at this ⊢
      cases hg : s.lock.keys[k - 1]? with
      | none => simp [hg] at this
      | some m => simpa [hg] using this
    · rfl

theorem lockReady_sound (h : Sound r s0 s) : Sound r s0 (lockReady s) := by
  unfold lockReady
  refine queueFrame_sound (Sound.foldl (fun _ _ ht => queueFrame_sound ht _) ?_ _) _
  exact h.withLock fun ok => ⟨ok.1, ok.2.1, ok.2.2.1, ok.2.2.2.1, by simp⟩

end Sys2Proof.Machine
end

