-- ==== Sys2Proof/Laws/Units.lean ====
section
/-! SUPPORT. The Share, Heater and Sensor Units' operations under `Sound`. -/

namespace Sys2Proof.Machine

variable {r : Bool} {s0 s : State}

/-! ### Heater Unit -/

theorem settlePower_sound (h : Sound r s0 s) (before : State) : Sound r s0 (settlePower before s) :=
  h.quiet (settlePower_quiet (.refl s) before)

theorem heaterNotice_sound (h : Sound r s0 s) : Sound r s0 (heaterNotice s) :=
  h.quiet (heaterNotice_quiet (.refl s))

theorem allOff_sound (h : Sound r s0 s) (c : OffCause) : Sound r s0 (allOff s c) :=
  h.quiet (allOff_quiet (.refl s) c)

theorem withdrawFrames_sound (h : Sound r s0 s) (p : TxEntry → Bool) :
    Sound r s0 (withdrawFrames s p) := h.quiet (withdrawFrames_quiet (.refl s) p)

theorem enqueueEntry_sound (h : Sound r s0 s) (e : TxEntry) : Sound r s0 (enqueueEntry s e) :=
  h.quiet (enqueueEntry_quiet (.refl s) e)

theorem switchOne_sound (h : Sound r s0 s) : Sound r s0 (switchOne s) := by
  unfold switchOne
  split
  · exact h.withHeater _
  · exact heaterNotice_sound (h.withHeater _)

theorem windowOpen_sound (h : Sound r s0 s) (zones : Nat) : Sound r s0 (windowOpen s zones) := by
  unfold windowOpen
  split
  · exact switchOne_sound (h.withHeater _)
  · exact h

theorem switchStep_sound (h : Sound r s0 s) : Sound r s0 (switchStep s) := by
  unfold switchStep
  split
  · exact switchOne_sound h
  · exact h

theorem selection_sound (h : Sound r s0 s) : Sound r s0 (selection s) := by
  unfold selection
  exact settlePower_sound (heaterNotice_sound (h.withHeater _)) _

theorem boundaryReached_sound (h : Sound r s0 s) : Sound r s0 (boundaryReached s) := by
  unfold boundaryReached
  split
  · split
    · exact selection_sound h
    · exact h
  · exact h

theorem dutyEnded_sound (h : Sound r s0 s) (i : Nat) : Sound r s0 (dutyEnded s i) := by
  unfold dutyEnded
  split
  · split
    · exact settlePower_sound (heaterNotice_sound (h.withHeater _)) _
    · exact h
  · exact h

/-! ### Loans -/

/-- A change of entries that keeps their peers. -/
theorem LoansOk.map {u : ShareUnit} (ok : LoansOk u) (f : Loan → Loan)
    (hf : ∀ e, (f e).peer = e.peer) : LoansOk { u with loans := u.loans.map f } := by
  refine ⟨by simpa using ok.1, ?_⟩
  rw [List.pairwise_map]
  refine ok.2.imp fun {a b} hab => ?_
  rw [hf, hf]
  exact hab

theorem findLoan_none {peer : Nat} {lent : Bool} (h : findLoan s peer lent = none) :
    ∀ e ∈ s.share.loans, e.peer = peer → e.lent ≠ lent := by
  intro e he hp hl
  have := List.find?_eq_none.1 h e he
  simp [hp, hl] at this

theorem findLoan_some {peer : Nat} {lent : Bool} {e : Loan} (h : findLoan s peer lent = some e) :
    e ∈ s.share.loans ∧ e.peer = peer ∧ e.lent = lent := by
  have := List.find?_some h
  simp only [Bool.and_eq_true, beq_iff_eq] at this
  exact ⟨List.mem_of_find?_eq_some h, this⟩

/-- An amount joins the entry toward a peer, or a new entry of a peer without one where there is
room (R170, R173). -/
theorem addLoan_ok {u : ShareUnit} (ok : LoansOk u) (peer : Nat) (lent : Bool)
    (amount expiry : Nat)
    (h : (∃ e ∈ u.loans, e.peer = peer ∧ e.lent = lent) ∨
      (∀ e ∈ u.loans, e.peer ≠ peer) ∧ u.loans.length < 8) :
    LoansOk { u with loans := addLoan u.loans peer lent amount expiry } := by
  unfold addLoan
  split
  · exact ok.map _ fun e => by split <;> rfl
  · rename_i hn
    rcases h with ⟨e, he, hp, hl⟩ | ⟨hp, hl⟩
    · exact absurd (List.any_eq_true.2 ⟨e, he, by simp [hp, hl]⟩) hn
    · refine ⟨by simp; omega, ?_⟩
      show List.Pairwise _ (_ ++ _)
      rw [List.pairwise_append]
      refine ⟨ok.2, by simp, fun a ha b hb => ?_⟩
      rw [List.mem_singleton.1 hb]
      exact hp a ha

theorem reviseGrant_quiet (h : Quiet s0 s) {f : TxEntry → TxEntry}
    (hf : ∀ e, (f e).frame = e.frame ∨ ∃ b a x b' a' x',
      e.frame = .shareGrant b a x ∧ (f e).frame = .shareGrant b' a' x') :
    Quiet s0 (reviseFrames s f) := by
  refine reviseFrames_quiet h (fun e => ?_) fun e x => ?_
  · rcases hf e with k | ⟨_, _, _, _, _, _, k, k'⟩
    · rw [k]
    · rw [k, k']; rfl
  · rcases hf e with k | ⟨_, _, _, _, _, _, k, k'⟩
    · rw [k]; exact ⟨rfl, rfl⟩
    · rw [k, k']; cases x <;> exact ⟨rfl, rfl⟩

theorem isGrantTo_frame {n : Nat} {e : TxEntry} (h : isGrantTo n e = true) :
    ∃ a x, e.frame = .shareGrant n a x := by
  unfold isGrantTo at h
  split at h
  · rename_i b a x hf
    exact ⟨a, x, by rw [hf, beq_iff_eq.1 h]⟩
  · cases h

theorem takeShareAsk_sound (h : Sound r s0 s) (asker wanted : Nat) :
    Sound r s0 (takeShareAsk s asker wanted) := by
  unfold takeShareAsk
  split
  · exact h
  · split
    · split
      · refine h.quiet (reviseGrant_quiet (.refl s) fun e => ?_)
        unfold regrant
        split
        · rename_i hg
          obtain ⟨a, x, hf⟩ := isGrantTo_frame hg
          exact .inr ⟨_, _, _, _, _, _, hf, rfl⟩
        · exact .inl rfl
      · exact withdrawFrames_sound h _
    · split
      · exact enqueueEntry_sound h _
      · exact h

theorem cutGrants_sound (h : Sound r s0 s) (borrower amount : Nat) :
    Sound r s0 (reviseFrames s (cutGrant borrower amount)) := by
  refine h.quiet (reviseGrant_quiet (.refl s) fun e => ?_)
  unfold cutGrant
  split
  · rename_i hf
    split
    · exact .inr ⟨_, _, _, _, _, _, hf, rfl⟩
    · exact .inl rfl
  · exact .inl rfl

/-- What a borrower keeps finds room (R170, R173). -/
theorem keptAmount_room {lender amount : Nat} (h : keptAmount s lender amount ≠ 0) :
    (∃ e ∈ s.share.loans, e.peer = lender ∧ e.lent = false) ∨
      (∀ e ∈ s.share.loans, e.peer ≠ lender) ∧ s.share.loans.length < 8 := by
  unfold keptAmount at h
  split at h
  · exact absurd rfl h
  · rename_i hc
    simp only [Bool.or_eq_true, Bool.and_eq_true, decide_eq_true_eq, not_or, not_and] at hc
    obtain ⟨⟨_, hl⟩, hb⟩ := hc
    cases hf : findLoan s lender false with
    | some e =>
      have := findLoan_some hf
      exact .inl ⟨e, this.1, this.2⟩
    | none =>
      refine .inr ⟨fun e he hp => ?_, by simpa [hf] using hb⟩
      have h1 := findLoan_none hf e he hp
      have h2 := findLoan_none (lent := true) (by simpa using hl) e he hp
      cases hx : e.lent <;> simp_all

theorem borrow_sound (h : Sound r s0 s) (lender amount expiry : Nat) :
    Sound r s0 (borrow s lender amount expiry) := by
  have ht : Sound r s0
      (if keptAmount s lender amount == 0 then s
       else settlePower s (s.withShare { s.share with
         loans := addLoan s.share.loans lender false (keptAmount s lender amount) expiry })) := by
    split
    · exact h
    · rename_i hk
      exact settlePower_sound (h.withShare fun ok =>
        addLoan_ok ok _ _ _ _ (keptAmount_room (by simpa using hk))) _
  unfold borrow
  dsimp only
  split
  · exact queueFrame_sound ht _
  · exact ht

theorem takeShareGrant_sound (h : Sound r s0 s) (lender borrower amount expiry : Nat) :
    Sound r s0 (takeShareGrant s lender borrower amount expiry) := by
  unfold takeShareGrant
  split
  · exact h
  · split
    · exact borrow_sound h _ _ _
    · exact withdrawFrames_sound (cutGrants_sound h _ _) _

/-- The LENT entry of a completed grant finds room where it fits (R170). -/
theorem lentFits_room {borrower : Nat} (h : lentFits s borrower = true) :
    (∃ e ∈ s.share.loans, e.peer = borrower ∧ e.lent = true) ∨
      (∀ e ∈ s.share.loans, e.peer ≠ borrower) ∧ s.share.loans.length < 8 := by
  unfold lentFits at h
  simp only [Bool.or_eq_true, Bool.and_eq_true, decide_eq_true_eq] at h
  cases hf : findLoan s borrower true with
  | some e =>
    have := findLoan_some hf
    exact .inl ⟨e, this.1, this.2⟩
  | none =>
    rw [hf] at h
    have hb := h.resolve_left (by simp)
    refine .inr ⟨fun e he hp => ?_, hb.2⟩
    have h1 := findLoan_none hf e he hp
    have h2 := findLoan_none (lent := false) (by simpa using hb.1) e he hp
    cases hx : e.lent <;> simp_all

theorem grantDone_sound {t : State} (h : Sound r s0 t) (s : State) (borrower amount expiry : Nat) :
    Sound r s0 (grantDone s t borrower amount expiry) := by
  unfold grantDone
  split
  · split
    · rename_i hf
      exact settlePower_sound (h.withShare fun ok => addLoan_ok ok _ _ _ _ (lentFits_room hf)) _
    · exact settlePower_sound h _
  · exact setFlag_sound (settlePower_sound h _) _ _ _

theorem removeLent_sound (h : Sound r s0 s) (peer : Nat) : Sound r s0 (removeLent s peer) :=
  h.quiet (removeLent_quiet (.refl s) peer)

theorem removeBorrowed_sound (h : Sound r s0 s) (peer : Nat) : Sound r s0 (removeBorrowed s peer) :=
  h.quiet (removeBorrowed_quiet (.refl s) peer)

theorem takeShareBack_sound (h : Sound r s0 s) (borrower lender amount : Nat) :
    Sound r s0 (takeShareBack s borrower lender amount) := by
  unfold takeShareBack
  split
  · split
    · split
      · exact removeLent_sound h _
      · refine settlePower_sound (h.withShare fun ok => LoansOk.map ok _ fun e => ?_) _
        split <;> rfl
    · exact h
  · exact h

theorem borrowedExpired_sound (h : Sound r s0 s) (peer : Nat) :
    Sound r s0 (borrowedExpired s peer) := by
  unfold borrowedExpired
  split
  · split
    · exact enqueueEntry_sound (removeBorrowed_sound h _) _
    · exact h
  · exact h

theorem lentExpired_sound (h : Sound r s0 s) (peer : Nat) : Sound r s0 (lentExpired s peer) := by
  unfold lentExpired
  split
  · split
    · refine h.withShare fun ok => LoansOk.map ok _ fun e => ?_
      split <;> rfl
    · exact h
  · exact h

theorem graceEnded_sound (h : Sound r s0 s) (peer : Nat) : Sound r s0 (graceEnded s peer) := by
  unfold graceEnded
  split
  · split
    · exact removeLent_sound h _
    · exact h
  · exact h

theorem dropLoanWith_sound (h : Sound r s0 s) (peer : Nat) : Sound r s0 (dropLoanWith s peer) := by
  unfold dropLoanWith
  split
  · exact setFlag_sound (removeBorrowed_sound h _) _ _ _
  · split
    · exact setFlag_sound (removeLent_sound h _) _ _ _
    · exact h

theorem sharePeerLost_sound (h : Sound r s0 s) (peer : Nat) : Sound r s0 (sharePeerLost s peer) := by
  unfold sharePeerLost
  split
  · exact withdrawFrames_sound (dropLoanWith_sound h _) _
  · exact h

theorem withClaim_sound (h : Sound r s0 s) (c : Claim) :
    Sound r s0 (s.withShare { s.share with claim := c }) :=
  h.withShare (by exact id)

theorem shareClash_sound (h : Sound r s0 s) : Sound r s0 (shareClash s) :=
  (withClaim_sound h .none).foldl (fun _ _ ht => dropLoanWith_sound ht _) _

theorem returnLoan_sound (h : Sound r s0 s) (peer : Nat) : Sound r s0 (returnLoan s peer) := by
  unfold returnLoan
  split
  · exact queueFrame_sound (removeBorrowed_sound h _) _
  · exact h

theorem heatReset_sound (h : Sound r s0 s) : Sound r s0 (heatReset s) :=
  (allOff_sound h _).foldl (fun _ _ ht => returnLoan_sound ht _) _

/-! ### Inrush windows -/

theorem takeWindow_sound (h : Sound r s0 s) (start : ATime) : Sound r s0 (takeWindow s start) := by
  unfold takeWindow
  exact h.withShare (by exact id)

theorem takeInrush_sound (h : Sound r s0 s) (start : ATime) (zones : Nat) :
    Sound r s0 (takeInrush s start zones) := by
  unfold takeInrush
  split
  · exact h
  · dsimp only
    split
    · exact (takeWindow_sound h _).quiet (reviseInrush_quiet (.refl _))
    · exact takeWindow_sound h _

theorem claimFromNone_sound (h : Sound r s0 s) : Sound r s0 (claimFromNone s) :=
  h.quiet (claimFromNone_quiet (.refl s))

theorem inrushDone_sound (h : Sound r s0 s) (start : ATime) (zones : Nat) :
    Sound r s0 (inrushDone s start zones) := by
  have ht := takeWindow_sound h start
  unfold inrushDone
  dsimp only
  split
  · split
    · exact windowOpen_sound (withClaim_sound ht _) _
    · exact withClaim_sound ht _
  · exact claimFromNone_sound ht

theorem windowReached_sound (h : Sound r s0 s) : Sound r s0 (windowReached s) := by
  unfold windowReached
  split
  · split
    · exact windowOpen_sound (withClaim_sound h _) _
    · exact h
  · exact h

theorem windowEnded_sound (h : Sound r s0 s) : Sound r s0 (windowEnded s) := by
  unfold windowEnded
  split
  · split
    · exact claimFromNone_sound h
    · exact h
  · exact h

theorem askDue_sound (h : Sound r s0 s) : Sound r s0 (askDue s) := by
  unfold askDue
  split
  · split
    · exact h.quiet (updateAsk_quiet (.refl s))
    · exact h
  · exact h

/-! ### Sensor Unit -/

/-- What `SensorOk` reads of the unit is unchanged but for the channels' speeds and the combined
speed, which lie in their range. -/
theorem SensorOk.speeds {a b : SensorUnit} (ok : SensorOk a)
    (hd : b.discarded = a.discarded) (hg : b.good = a.good)
    (hA : b.channelA.speed ≤ 1000) (hB : b.channelB.speed ≤ 1000) (hc : b.combined ≤ 1000)
    (hm : b.melt = a.melt) (hw : b.watchCount = a.watchCount) (hs : b.stowCount = a.stowCount)
    (hcause : b.stowCause = a.stowCause) (hl : b.level = a.level) : SensorOk b := by
  obtain ⟨o1, o2, o3, o4, o5, o6, o7, o8, o9⟩ := ok
  exact ⟨by omega, by omega, hA, hB, hc, by omega, by omega, by omega, by rw [hcause, hl]; exact o9⟩

theorem anemoSpeed_le (s : State) (count window : Nat) : anemoSpeed s count window ≤ 1000 :=
  Nat.min_le_left _ _

theorem judgeAnemo_speed (a : AnemoRecord) (count speed window : Nat) (w : Bool) (p : Nat) :
    (judgeAnemo a count speed window w p).speed = speed := by
  unfold judgeAnemo
  repeat' split
  all_goals rfl

theorem combinedSpeed_le {a b : AnemoRecord} (ha : a.speed ≤ 1000) (hb : b.speed ≤ 1000) :
    combinedSpeed s a b ≤ 1000 := by
  unfold combinedSpeed
  repeat' split
  all_goals omega

theorem goodAnemos_ok {u : SensorUnit} (ok : SensorOk u) (c : Scan) :
    SensorOk (goodAnemos s u c) := by
  unfold goodAnemos
  split
  · exact ok.speeds rfl rfl (by simp [anemoChannels]) (by simp [anemoChannels]) ok.2.2.2.2.1 rfl rfl
      rfl rfl rfl
  · have hA := fun x y w v p => Nat.le_trans (Nat.le_of_eq (judgeAnemo_speed u.channelA x
      (anemoSpeed s y w) w v p)) (anemoSpeed_le s y w)
    have hB := fun x y w v p => Nat.le_trans (Nat.le_of_eq (judgeAnemo_speed u.channelB x
      (anemoSpeed s y w) w v p)) (anemoSpeed_le s y w)
    exact ok.speeds rfl rfl (hA ..) (hB ..) (combinedSpeed_le (hA ..) (hB ..)) rfl rfl rfl rfl rfl

theorem meltCode_le (x : Int) : meltCode x ≤ 6 := by
  unfold meltCode
  repeat' split
  all_goals omega

theorem goodChannels_ok {u : SensorUnit} (ok : SensorOk u) (x : ScanReadings) :
    SensorOk (goodChannels s u x) := by
  obtain ⟨o1, o2, o3, o4, o5, o6, o7⟩ := ok
  exact ⟨Nat.zero_le _, Nat.min_le_left _ _, o3, o4, o5, meltCode_le _, o7⟩

theorem discardedScan_ok {u : SensorUnit} (ok : SensorOk u) (x : Int) :
    SensorOk (discardedScan s u x) := by
  obtain ⟨o1, o2, o3, o4, o5, o6, o7⟩ := ok
  refine ⟨Nat.min_le_left _ _, Nat.zero_le _, o3, o4, o5, ?_, o7⟩
  show (if _ then 0 else u.melt) ≤ 6
  split
  · omega
  · exact o6

theorem levelStep_ok {u : SensorUnit} (ok : SensorOk u) : SensorOk (levelStep s u) := by
  obtain ⟨o1, o2, o3, o4, o5, o6, o7, o8, o9⟩ := ok
  unfold levelStep
  split
  · exact ⟨o1, o2, o3, o4, o5, o6, o7, o8, by simp⟩
  · split
    · exact ⟨o1, o2, o3, o4, o5, o6, o7, o8, by simp⟩
    · split
      · rename_i hc
        simp only [Bool.and_eq_true, beq_iff_eq] at hc
        refine ⟨o1, o2, o3, o4, o5, o6, o7, o8, ?_⟩
        rw [hc.1] at o9
        simpa using o9
      · split
        · exact ⟨o1, o2, o3, o4, o5, o6, o7, o8, by simp⟩
        · exact ⟨o1, o2, o3, o4, o5, o6, o7, o8, o9⟩

theorem judgeLevel_ok {u : SensorUnit} (ok : SensorOk u) : SensorOk (judgeLevel s u) := by
  refine levelStep_ok ?_
  obtain ⟨o1, o2, o3, o4, o5, o6, o7, o8, o9⟩ := ok
  refine ⟨o1, o2, o3, o4, o5, o6, ?_, ?_, o9⟩
  · show (if _ then _ else 0) ≤ 8
    split
    · exact Nat.min_le_left _ _
    · omega
  · show (if _ then _ else 0) ≤ 8
    split
    · exact Nat.min_le_left _ _
    · omega

theorem finishScan_ok {u : SensorUnit} (ok : SensorOk u) (judged : Bool) :
    SensorOk (finishScan s u judged) := by
  have hv : SensorOk { u with status := statusNow u, scan := none } := ok
  unfold finishScan
  dsimp only
  split
  · split
    · exact hv
    · obtain ⟨o1, o2, o3, o4, o5, o6, o7, o8, o9⟩ := ok
      exact ⟨o1, o2, o3, o4, o5, o6, Nat.zero_le _, Nat.zero_le _, o9⟩
  · split
    · exact judgeLevel_ok hv
    · exact hv

theorem scanResult_ok (ok : SensorOk s.sensor) (c : Scan) (x : ScanReadings) :
    SensorOk (scanResult s c x) := by
  unfold scanResult
  dsimp only
  split
  · split
    · exact finishScan_ok (goodAnemos_ok (goodChannels_ok ok _) _) _
    · exact finishScan_ok (goodChannels_ok ok _) _
  · exact finishScan_ok (discardedScan_ok ok _) _

theorem queueWind_sound (h : Sound r s0 s) (cause : Nat) : Sound r s0 (queueWind s cause) := by
  unfold queueWind
  exact (queueFrame_sound h _).withSensor (by exact id)

theorem windAfterScan_sound (h : Sound r s0 s) (before : State) :
    Sound r s0 (windAfterScan before s) := by
  unfold windAfterScan
  repeat' split
  all_goals first | exact h | exact queueWind_sound h _

theorem scanFaultFlags_sound (h : Sound r s0 s) (before : State) :
    Sound r s0 (scanFaultFlags before s) := by
  have flag : ∀ {t : State} (b : Bool) (d : Nat), Sound r s0 t →
      Sound r s0 (if b then setFlag t flagSensorFault d 0 else t) := fun b d ht => by
    split
    · exact setFlag_sound ht _ _ _
    · exact ht
  unfold scanFaultFlags
  exact flag _ 3 (flag _ 2 (flag _ 1 h))

theorem scanDisagreeFlag_sound (h : Sound r s0 s) (judged : Bool) :
    Sound r s0 (scanDisagreeFlag s judged) := by
  unfold scanDisagreeFlag
  repeat' split
  all_goals first | exact h | exact setFlag_sound h _ _ _

theorem scanHeatFlags_sound (h : Sound r s0 s) (before : State) :
    Sound r s0 (scanHeatFlags before s) := by
  unfold scanHeatFlags
  repeat' split
  all_goals first | exact h | exact setFlag_sound h _ _ _

theorem scanInstant_sound (h : Sound r s0 s) : Sound r s0 (scanInstant s) := by
  unfold scanInstant
  split
  · split
    · exact h.withSensor (by exact id)
    · unfold beginScan
      exact h.withSensor (by exact id)
  · exact h

theorem beginScan_sound (h : Sound r s0 s) : Sound r s0 (beginScan s) := by
  unfold beginScan
  exact h.withSensor (by exact id)

theorem endSelfcheck_sound (h : Sound r s0 s) : Sound r s0 (endSelfcheck s) := by
  unfold endSelfcheck
  split
  · exact h.withSeq _
  · exact h

theorem scanNotices_sound (h : Sound r s0 s) (before : State) (judged : Bool) :
    Sound r s0 (scanNotices before s judged) := by
  have ht := scanHeatFlags_sound (scanDisagreeFlag_sound (scanFaultFlags_sound h before) judged)
    before
  unfold scanNotices
  dsimp only
  refine windAfterScan_sound ?_ _
  split
  · exact (ht.sways (ownSensorNotice_sways (.refl _))).quiet (heaterConditions_quiet (.refl _) _)
  · exact ht.quiet (heaterConditions_quiet (.refl _) _)

theorem scanDone_sound (h : Sound r s0 s) (x : ScanReadings) : Sound r s0 (scanDone s x) := by
  unfold scanDone
  split
  · split
    · exact endSelfcheck_sound (scanNotices_sound
        (h.withSensor fun ok => scanResult_ok ok _ _) _ _)
    · exact h
  · exact h

theorem pulse_sound (h : Sound r s0 s) (input : Anemometer) (width : Nat) :
    Sound r s0 (pulse s input width) := by
  unfold pulse
  split
  · split
    · exact h.withSensor (by exact id)
    · exact h.withSensor (by exact id)
  · exact h

theorem resend_sound (h : Sound r s0 s) : Sound r s0 (resend s) := by
  unfold resend
  split
  · exact queueWind_sound h _
  · exact h

theorem sensorReady_sound (h : Sound r s0 s) : Sound r s0 (sensorReady s) := by
  unfold sensorReady
  repeat' split
  all_goals first | exact h | exact queueWind_sound h _

/-! ### The instants that a step of the seconds reaches (R82) -/

theorem takeInstant_sound (h : Sound r s0 s) (i : Instr) : Sound r s0 (takeInstant s i) := by
  unfold takeInstant
  split
  · exact h.keeps (startTime_keeps (.refl s) _)
  · exact h.keeps (deadline_keeps (.refl s) _)
  · exact scanInstant_sound h
  · exact boundaryReached_sound h
  · exact borrowedExpired_sound h _
  · exact lentExpired_sound h _
  · exact windowReached_sound h
  · exact windowEnded_sound h
  · exact h

theorem takeInstants_sound (h : Sound r s0 s) : Sound r s0 (takeInstants s) :=
  h.foldl (fun _ _ ht => takeInstant_sound ht _) _

end Sys2Proof.Machine
end

