-- ==== Sys2Proof/Laws/Frames.lean ====
section
/-! SUPPORT. The Peer, Time, Line and Report Units' operations under `Sound`, and the taking of a
frame. -/

namespace Sys2Proof.Machine

variable {r : Bool} {s0 s : State}

/-! ### The Peer Table -/

/-- An entry of the Peer Table as R83 gives it. -/
abbrev PeerOk (e : PeerEntry) : Prop := 1 ≤ e.station ∧ e.station ≤ 63 ∧ e.silence ≤ 1500

theorem mem_putPeer {x y : PeerEntry} {l : List PeerEntry} (h : y ∈ putPeer x l) :
    y = x ∨ y ∈ l := by
  induction l with
  | nil => exact .inl (List.mem_singleton.1 h)
  | cons e l ih =>
    unfold putPeer at h
    split at h
    · rcases List.mem_cons.1 h with h | h
      · exact .inl h
      · exact .inr (List.mem_cons_of_mem _ h)
    · split at h
      · rcases List.mem_cons.1 h with h | h
        · exact .inl h
        · exact .inr h
      · rcases List.mem_cons.1 h with h | h
        · exact .inr (h ▸ List.mem_cons_self)
        · exact (ih h).imp id (List.mem_cons_of_mem _)

theorem putPeer_pairwise (x : PeerEntry) (l : List PeerEntry)
    (h : l.Pairwise fun a b => a.station < b.station) :
    (putPeer x l).Pairwise fun a b => a.station < b.station := by
  induction l with
  | nil => simp [putPeer]
  | cons e l ih =>
    have hp := List.pairwise_cons.1 h
    unfold putPeer
    split
    · rename_i hs
      have hs' : e.station = x.station := by simpa using hs
      exact List.pairwise_cons.2 ⟨fun y hy => hs' ▸ hp.1 y hy, hp.2⟩
    · split
      · rename_i hlt
        refine List.pairwise_cons.2 ⟨fun y hy => ?_, h⟩
        rcases List.mem_cons.1 hy with rfl | hy
        · exact hlt
        · exact Nat.lt_trans hlt (hp.1 y hy)
      · rename_i hne hlt
        refine List.pairwise_cons.2 ⟨fun y hy => ?_, ih hp.2⟩
        rcases mem_putPeer hy with rfl | hy
        · have : e.station ≠ y.station := by simpa using hne
          omega
        · exact hp.1 y hy

theorem setPeer_sound (h : Sound r s0 s) {x : PeerEntry} (hx : PeersOk s.peers → PeerOk x) :
    Sound r s0 (setPeer s x) := by
  refine h.withPeers fun ok => ⟨putPeer_pairwise x _ ok.1, fun e he => ?_, ok.2.2⟩
  rcases mem_putPeer he with rfl | he
  · exact hx ok
  · exact ok.2.1 e he

/-- The entry of a station in range is as R83 gives it. -/
theorem peerEntry_ok (ok : PeersOk s.peers) {n : Nat} (hn : 1 ≤ n ∧ n ≤ 63) :
    PeerOk (peerEntry s n) := by
  unfold peerEntry
  cases hf : s.peers.table.find? fun e => e.station == n with
  | none => exact ⟨hn.1, hn.2, Nat.zero_le _⟩
  | some e => exact ok.2.1 e (List.mem_of_find?_eq_some hf)

/-- An entry that is PRESENT stands in the table. -/
theorem peerEntry_present (ok : PeersOk s.peers) {n : Nat} (hp : (peerEntry s n).present = true) :
    PeerOk (peerEntry s n) := by
  unfold peerEntry at hp ⊢
  cases hf : s.peers.table.find? fun e => e.station == n with
  | none => rw [hf] at hp; simp at hp
  | some e => exact ok.2.1 e (List.mem_of_find?_eq_some hf)

theorem peerRestarted_sound (h : Sound r s0 s) (n : Nat) : Sound r s0 (peerRestarted s n) :=
  ((sharePeerLost_sound h n).keeps (compactPeerLost_keeps (.refl _) n)).sways
    (windPeerRestarted_sways (.refl _) n)

theorem peerAbsentNotice_sound (h : Sound r s0 s) (n : Nat) :
    Sound r s0 (peerAbsentNotice s n) :=
  ((sharePeerLost_sound h n).keeps (compactPeerLost_keeps (.refl _) n)).sways
    (windPeerAbsent_sways (.refl _) n)

theorem heard_sound (h : Sound r s0 s) {n : Nat} (hn : 1 ≤ n ∧ n ≤ 63) : Sound r s0 (heard s n) := by
  unfold heard
  dsimp only
  split
  · exact h
  · have ht : Sound r s0 (setPeer s { peerEntry s n with
        present := true, lastHeard := some (now s), silence := 0
        restartSeen := (peerEntry s n).restartSeen ||
          (!(peerEntry s n).present && (peerEntry s n).lastHeard.isSome) }) :=
      setPeer_sound h fun ok =>
        ⟨(peerEntry_ok ok hn).1, (peerEntry_ok ok hn).2.1, Nat.zero_le _⟩
    split
    · exact ht
    · have hu := ht.sways (windPeerPresent_sways (.refl _) n
        (!(peerEntry s n).present && (peerEntry s n).lastHeard.isSome))
      split
      · exact peerRestarted_sound hu n
      · exact hu

theorem peerSilent_sound (h : Sound r s0 s) (n : Nat) : Sound r s0 (peerSilent s n) := by
  unfold peerSilent
  dsimp only
  split
  · rename_i hc
    simp only [Bool.and_eq_true] at hc
    refine peerAbsentNotice_sound (setPeer_sound h fun ok => ?_) n
    exact peerEntry_present ok hc.1
  · exact h

theorem neighbourMask_sound (h : Sound r s0 s) (n : Nat) (mask : Scope) :
    Sound r s0 (neighbourMask s n mask) := by
  unfold neighbourMask
  dsimp only
  split
  · exact h
  · exact (h.withKeepOut _).keeps (axisTableChange_keeps (.refl _))

theorem recordMask_sound (h : Sound r s0 s) {n : Nat} (hn : 1 ≤ n ∧ n ≤ 63) (mask : Scope) :
    Sound r s0 (recordMask s n mask) := by
  unfold recordMask
  split
  · exact h
  · refine neighbourMask_sound (setPeer_sound h fun ok => ?_) _ _
    exact peerEntry_ok ok hn

/-- Adoption keeps array time in its range and never takes it back (R81). -/
theorem adopt_sound (h : Sound r s0 s) {sec : Nat} (hs : sec ≤ lastSecond) :
    Sound r s0 (adopt s sec) := by
  unfold adopt
  split
  · rename_i hlt
    refine takeInstants_sound (h.withTime (fun ok => ⟨hs, ok.2⟩) fun _ _ => ?_)
    show s.time.sec * 1000 + s.time.ms ≤ sec * 1000 + s.time.ms
    omega
  · exact h

theorem takeStartFlag_sound (h : Sound r s0 s) {n : Nat} (hn : 1 ≤ n ∧ n ≤ 63) (flag : Bool) :
    Sound r s0 (takeStartFlag s n flag) := by
  have ht : Sound r s0 (setPeer s { peerEntry s n with restartSeen := flag }) :=
    setPeer_sound h fun ok => peerEntry_ok ok hn
  unfold takeStartFlag
  dsimp only
  split
  · exact peerRestarted_sound ht n
  · exact ht

theorem takeBeacon_sound (h : Sound r s0 s) {n : Nat} (hn : 1 ≤ n ∧ n ≤ 63) {p : BeaconPayload}
    (hp : p.sec ≤ lastSecond) : Sound r s0 (takeBeacon s n p) := by
  unfold takeBeacon
  split
  · have ha := adopt_sound h hp
    dsimp only
    split
    · exact ha
    · have ht := takeStartFlag_sound ha hn p.startFlag
      have hb : Sound r s0 (setPeer (takeStartFlag (adopt s p.sec) n p.startFlag)
          { peerEntry (takeStartFlag (adopt s p.sec) n p.startFlag) n with beacon := some p }) :=
        setPeer_sound ht fun ok => peerEntry_ok ok hn
      split
      · exact (recordMask_sound hb hn _).sways (beaconSensorReport_sways (.refl _) _ _ _ _ _)
      · exact hb
  · exact h

theorem takeLockNotice_sound (h : Sound r s0 s) {n : Nat} (hn : 1 ≤ n ∧ n ≤ 63) (mask : Scope)
    (entries keys remotes : Nat) : Sound r s0 (takeLockNotice s n mask entries keys remotes) := by
  unfold takeLockNotice
  split
  · exact recordMask_sound h hn mask
  · exact h

/-! ### The clash and the taking of a frame -/

theorem enterClash_sound (h : Sound r s0 s) : Sound r s0 (enterClash s) := by
  have h1 : Sound r s0 (s.withSeq { s.seq with station := .faulted .clash }) := h.withSeq _
  have h2 : Sound r s0 ((s.withSeq { s.seq with station := .faulted .clash }).withLine
      { (s.withSeq { s.seq with station := .faulted .clash }).line with
        queue := [], sending := none }) :=
    h1.withLine fun ok => ⟨List.Pairwise.nil, by simp, ok.2.2⟩
  have h3 := setFlag_sound h2 flagIdClash 0 0
  unfold enterClash
  dsimp only
  have h4 : Sound r s0 (State.withPeers (setFlag ((s.withSeq
      { s.seq with station := .faulted .clash }).withLine
      { (s.withSeq { s.seq with station := .faulted .clash }).line with
        queue := [], sending := none }) flagIdClash 0 0)
      { (setFlag ((s.withSeq { s.seq with station := .faulted .clash }).withLine
      { (s.withSeq { s.seq with station := .faulted .clash }).line with
        queue := [], sending := none }) flagIdClash 0 0).peers with beaconRun := none }) :=
    h3.withPeers fun ok => ok
  have h5 := (h4.keeps (axisClash_keeps (.refl _))).keeps (compactClash_keeps (.refl _))
  have h6 := shareClash_sound (allOff_sound h5 .reset)
  split
  · exact h6.sways (orderIfStowed_sways (.refl _))
  · exact h6

theorem cleanRead_sound (h : Sound r s0 s) : Sound r s0 (cleanRead s) :=
  h.withLine fun ok => ⟨ok.1, ok.2.1, ok.2.2.1, Nat.zero_le _, fun _ => by simp⟩

/-- What the receiving blocks make of a frame decides what its taking keeps. -/
theorem takeFrame_sound (h : Sound r s0 s) {sender : Nat} {deliver : State → State}
    (hd : 1 ≤ sender ∧ sender ≤ 63 → ∀ t, Sound r s0 t → Sound r s0 (deliver t)) :
    Sound r s0 (takeFrame s sender deliver) := by
  unfold takeFrame
  split
  · rename_i hc
    simp only [Bool.and_eq_true, decide_eq_true_eq] at hc
    refine hd hc.2 _ (heard_sound ?_ hc.2)
    split
    · exact enterClash_sound (cleanRead_sound h)
    · exact cleanRead_sound h
  · exact h

/-- A Peer Table entry replaced by one of its station is a change of that entry in place. -/
theorem putPeer_map (x : PeerEntry) (l : List PeerEntry)
    (h : l.Pairwise fun a b => a.station < b.station) (hx : ∃ e ∈ l, e.station = x.station) :
    putPeer x l = l.map fun e => if e.station == x.station then x else e := by
  induction l with
  | nil => obtain ⟨e, he, _⟩ := hx; cases he
  | cons e l ih =>
    have hp := List.pairwise_cons.1 h
    unfold putPeer
    split
    · rename_i hs
      have hs' : e.station = x.station := by simpa using hs
      simp only [List.map_cons, hs, if_true]
      congr 1
      refine ((List.map_congr_left fun y hy => ?_).trans (List.map_id l)).symm
      have := hp.1 y hy
      have hne : (y.station == x.station) = false := by
        simp only [beq_eq_false_iff_ne]; omega
      simp [hne]
    · rename_i hs
      have hs' : e.station ≠ x.station := by simpa using hs
      obtain ⟨y, hy, hyx⟩ := hx
      rcases List.mem_cons.1 hy with rfl | hy
      · exact absurd hyx hs'
      · have := hp.1 y hy
        rw [if_neg (by omega)]
        simp only [List.map_cons, if_neg hs]
        rw [ih hp.2 ⟨y, hy, hyx⟩]

/-- The frame of a PRESENT station of another number is read, then delivered (R74, R84). -/
theorem takeFrame_known {n : Nat} (h : Known s n) (deliver : State → State) :
    takeFrame s n deliver = deliver (frameRead s n) := by
  obtain ⟨hr, h1, h63, hne, hp, ok⟩ := h
  obtain ⟨e, he, hep⟩ := List.any_eq_true.1 hp
  simp only [Bool.and_eq_true, beq_iff_eq] at hep
  have hf : peerEntry s n = e := by
    unfold peerEntry
    cases hq : s.peers.table.find? fun x => x.station == n with
    | none => exact absurd hep.1 (by simpa using List.find?_eq_none.1 hq e he)
    | some y =>
      have hy := List.find?_some hq
      have hm := List.mem_of_find?_eq_some hq
      have hys : y.station = e.station := (beq_iff_eq.1 hy).trans hep.1.symm
      exact List.inj_on_of_nodup_map (List.pairwise_map.2 (ok.1.imp fun k => Nat.ne_of_lt k))
        hm he hys
  have hput : putPeer { e with
        present := true, lastHeard := some (now s), silence := 0
        restartSeen := e.restartSeen || (!e.present && e.lastHeard.isSome) } s.peers.table =
      s.peers.table.map fun x =>
        if x.station == n then { x with lastHeard := some (now s), silence := 0 } else x := by
    rw [putPeer_map { e with
        present := true, lastHeard := some (now s), silence := 0
        restartSeen := e.restartSeen || (!e.present && e.lastHeard.isSome) } _ ok.1 ⟨e, he, rfl⟩]
    refine List.map_congr_left fun x hx => ?_
    simp only [hep.1]
    split
    · rename_i hxn
      have : x = e := List.inj_on_of_nodup_map
        (List.pairwise_map.2 (ok.1.imp fun k => Nat.ne_of_lt k)) hx he
        ((beq_iff_eq.1 hxn).trans hep.1.symm)
      subst this
      cases x
      simp_all
    · rfl
  unfold takeFrame
  rw [if_pos (by simp [hr, h1, h63])]
  dsimp only
  rw [if_neg (by simp [hne])]
  congr 1
  unfold heard
  rw [if_neg (by simp [cleanRead, State.withLine, hne])]
  have hc : peerEntry (cleanRead s) n = e := hf
  dsimp only
  rw [hc, if_pos hep.2]
  unfold setPeer
  have hn : now (cleanRead s) = now s := rfl
  rw [hn]
  show (cleanRead s).withPeers { s.peers with table := putPeer _ s.peers.table } = _
  rw [hput]
  rfl

theorem takeConsoleFrame_known {n : Nat} (h : KnownConsole s n) (deliver : State → State) :
    takeConsoleFrame s n deliver = deliver (frameRead s n) := by
  unfold takeConsoleFrame
  rw [takeFrame_known h.1, if_pos h.2]

theorem takeDishFrame_known {n : Nat} (h : KnownDish s n) (deliver : State → State) :
    takeDishFrame s n deliver = deliver (frameRead s n) := by
  unfold takeDishFrame
  rw [takeFrame_known h.1, if_neg (by simp [h.2])]

theorem takeDishFrame_sound (h : Sound r s0 s) {sender : Nat} {deliver : State → State}
    (hd : 1 ≤ sender ∧ sender ≤ 63 → ∀ t, Sound r s0 t → Sound r s0 (deliver t)) :
    Sound r s0 (takeDishFrame s sender deliver) :=
  takeFrame_sound h fun hs t ht => by
    split
    · exact ht
    · exact hd hs t ht

theorem takeConsoleFrame_sound (h : Sound r s0 s) {sender : Nat} {deliver : State → State}
    (hd : ∀ t, Sound r s0 t → Sound r s0 (deliver t)) :
    Sound r s0 (takeConsoleFrame s sender deliver) :=
  takeFrame_sound h fun _ t ht => by
    split
    · exact hd t ht
    · exact ht

theorem queueBeacon_sound (h : Sound r s0 s) : Sound r s0 (queueBeacon s) := by
  unfold queueBeacon
  exact (queueFrame_sound h _).withPeers fun ok => ok

theorem beaconDue_sound (h : Sound r s0 s) (p : Encoders) : Sound r s0 (beaconDue s p) := by
  unfold beaconDue
  split
  · split
    · exact queueBeacon_sound (h.keeps (readEncoders_keeps (.refl _) p))
    · exact h
  · exact h

/-! ### Time -/

theorem advance_ok {t : TimeUnit} (ok : TimeOk t) (h0 : t.hold = 0) :
    TimeOk (advance t) ∧ t.sec * 1000 + t.ms ≤ (advance t).sec * 1000 + (advance t).ms := by
  obtain ⟨a, b, c, d, e⟩ := ok
  unfold advance
  split
  · exact ⟨⟨a, by dsimp only; omega, by dsimp only; omega, d, e⟩, by dsimp only; omega⟩
  · split
    · exact ⟨⟨by dsimp only; omega, by dsimp only; omega, by dsimp only; omega, d, e⟩,
        by dsimp only; omega⟩
    · exact ⟨⟨a, b, c, d, e⟩, Nat.le_refl _⟩

theorem countMs_ok {t : TimeUnit} (ok : TimeOk t) :
    TimeOk (countMs t) ∧ t.sec * 1000 + t.ms ≤ (countMs t).sec * 1000 + (countMs t).ms := by
  unfold countMs
  dsimp only
  split
  · obtain ⟨a, b, c, d, e⟩ := ok
    exact ⟨⟨a, b, by dsimp only; omega, by dsimp only; omega, Nat.min_le_left _ _⟩, Nat.le_refl _⟩
  · have h := advance_ok ok (by omega)
    exact ⟨⟨h.1.1, h.1.2.1, h.1.2.2.1, h.1.2.2.2.1, Nat.min_le_left _ _⟩, h.2⟩

theorem alignPulse_ok {t : TimeUnit} (ok : TimeOk t) (v : Nat) :
    TimeOk (alignPulse t v) ∧
      t.sec * 1000 + t.ms ≤ (alignPulse t v).sec * 1000 + (alignPulse t v).ms := by
  obtain ⟨a, b, c, d, e⟩ := ok
  unfold alignPulse
  dsimp only
  split
  · split
    · exact ⟨⟨by dsimp only; omega, by dsimp only; omega, by dsimp only; omega,
        by dsimp only; omega, by dsimp only; omega⟩, by dsimp only; omega⟩
    · have := Nat.mod_lt v (show 1000 - t.ms > 0 by omega)
      exact ⟨⟨a, by dsimp only; omega, by dsimp only; omega,
        by dsimp only; omega, by dsimp only; omega⟩, by dsimp only; omega⟩
  · exact ⟨⟨a, b, by dsimp only; omega, by dsimp only; omega, by dsimp only; omega⟩,
      Nat.le_refl _⟩

theorem pulsed_sound (h : Sound r s0 s) : Sound r s0 (pulsed s) := by
  have go : ∀ {t : State}, Sound r s0 t → t.time = s.time → ∀ v,
      Sound r s0 (t.withTime (alignPulse s.time v)) := fun ht he v =>
    ht.withTime (fun ok => (alignPulse_ok (he ▸ ok) v).1) fun _ ok => by
      have := (alignPulse_ok (he ▸ ok) v).2
      unfold now
      rw [he]
      exact this
  unfold pulsed
  split
  · exact go (t := (takeFree s).2) (h.keeps (takeFree_keeps (.refl s))) rfl _
  · exact go h rfl 0

theorem secondPulse_sound (h : Sound r s0 s) : Sound r s0 (secondPulse s) := by
  unfold secondPulse
  split
  · exact h
  · split
    · exact takeInstants_sound (pulsed_sound h)
    · exact pulsed_sound h

theorem holdOver_sound (h : Sound r s0 s) : Sound r s0 (holdOver s) := by
  unfold holdOver
  split
  · exact h.withTime (fun ok => ok) fun _ _ => Nat.le_refl _
  · exact h

theorem watchOver_sound (h : Sound r s0 s) : Sound r s0 (watchOver s) := by
  unfold watchOver
  split
  · refine setFlag_sound (h.withTime (fun ok => ?_) fun _ _ => ?_) _ _ _
    · exact ok
    · exact Nat.le_refl _
  · exact h

theorem clockStops_sound (h : Sound r s0 s) : Sound r s0 (clockStops s) := by
  unfold clockStops
  dsimp only
  split
  · split
    · exact h.withPins _
    · exact setFlag_sound (h.withPins _) _ _ _
  · exact h

theorem clockResumes_sound (h : Sound r s0 s) : Sound r s0 (clockResumes s) := h.withPins _

/-! ### Own frames -/

theorem dropTx_sound (h : Sound r s0 s) (age : Nat) : Sound r s0 (dropTx s age) :=
  h.withLine fun ok => ok.remove age

/-- A queued frame changed in a way that keeps its place, its class and its group. -/
theorem changeTx_sound (h : Sound r s0 s) (age : Nat) {f : TxEntry → TxEntry}
    (hs : ∀ e, (f e).slot = e.slot ∧ (f e).age = e.age)
    (hst : ∀ e ∈ s.line.queue, e.age = age → (f e).started = false → e.started = false)
    (hf : ∀ e ∈ s.line.queue, e.age = age → frameClass (f e).frame = frameClass e.frame ∧
      ∀ x, sameGroup (f e).frame x = sameGroup e.frame x ∧
        sameGroup x (f e).frame = sameGroup x e.frame) :
    Sound r s0 (changeTx s age f) := by
  refine h.withLine fun ok => ok.map _ ?_ ?_ ?_ ?_ ?_
  · intro e _; split
    · exact (hs e).1
    · rfl
  · intro e _; split
    · exact (hs e).2
    · rfl
  · intro e he; split
    · rename_i ha; exact hst e he (by simpa using ha)
    · exact id
  · intro e he; split
    · rename_i ha; exact (hf e he (by simpa using ha)).1
    · rfl
  · intro e he x; split
    · rename_i ha; exact (hf e he (by simpa using ha)).2 x
    · exact ⟨rfl, rfl⟩

theorem beginAttempt_sound (h : Sound r s0 s) (age : Nat) : Sound r s0 (beginAttempt s age) := by
  have ht : Sound r s0 (changeTx s age fun e =>
      match e.frame with
      | .beacon p => { e with frame := .beacon { p with mask := lockMask s } }
      | _ => e) := by
    refine changeTx_sound h age (fun e => ?_) (fun e _ _ => ?_) fun e _ _ => ?_
    · split <;> exact ⟨rfl, rfl⟩
    · split <;> exact id
    · split
      · rename_i he
        rw [he]
        exact ⟨rfl, fun x => by cases x <;> exact ⟨rfl, rfl⟩⟩
      · exact ⟨rfl, fun _ => ⟨rfl, rfl⟩⟩
  unfold beginAttempt
  exact ht.withLine fun ok => ok

/-- The owner leaves a frame's class and group at its start notice. -/
theorem atStartNotice_class {e : TxEntry} {f : Frame} (h : atStartNotice s e = some f) :
    frameClass f = frameClass e.frame ∧
      ∀ x, sameGroup f x = sameGroup e.frame x ∧ sameGroup x f = sameGroup x e.frame := by
  unfold atStartNotice at h
  split at h
  · rename_i he
    rw [he, ← Option.some.inj h]
    exact ⟨rfl, fun x => by cases x <;> exact ⟨rfl, rfl⟩⟩
  · rename_i he
    obtain ⟨a, _, rfl⟩ := Option.map_eq_some_iff.1 h
    rw [he]
    exact ⟨rfl, fun x => by cases x <;> exact ⟨rfl, rfl⟩⟩
  · rename_i he
    split at h
    · cases h
    · cases h; rw [he]
      exact ⟨rfl, fun x => by cases x <;> exact ⟨rfl, rfl⟩⟩
  · cases h
    exact ⟨rfl, fun _ => ⟨rfl, rfl⟩⟩

theorem claimAtStart_sound (h : Sound r s0 s) (f : Frame) (starts : Bool) :
    Sound r s0 (claimAtStart s f starts) := by
  unfold claimAtStart
  split
  · exact withClaim_sound h _
  · exact h

theorem firstInOrder_mem {q : List TxEntry} {e : TxEntry} (h : firstInOrder q = some e) :
    e ∈ q := by
  have hf : ∀ c, firstOf q c = some e → e ∈ q := fun c k => List.mem_of_find?_eq_some k
  unfold firstInOrder at h
  cases ha : firstOf q .safety with
  | some x => exact hf _ (ha.trans (by simpa [ha] using h))
  | none =>
    cases hb : firstOf q .coord with
    | some x => exact hf _ (hb.trans (by simpa [ha, hb] using h))
    | none => exact hf .routine (by simpa [ha, hb] using h)

/-- The frame of an age in a queue as R68 gives it is the one found there; `Inv` decides it, so the
hand-over is told over a state that satisfies it. -/
theorem startTx_sound (h : Sound r s0 s) {e : TxEntry} (he : e ∈ s.line.queue) {f : Frame}
    (hf : atStartNotice s e = some f) :
    Sound r s0 (changeTx s e.age fun x => { x with frame := f, started := true }) := by
  refine h.withLine fun ok => ?_
  have hc := atStartNotice_class hf
  refine ok.map _ ?_ ?_ ?_ ?_ ?_
  · intro x _; split <;> rfl
  · intro x _; split <;> rfl
  · intro x _; split
    · intro k; cases k
    · exact id
  · intro x hx; split
    · rename_i ha
      rw [ok.same hx he (.inr (by simpa using ha))]
      exact hc.1
    · rfl
  · intro x hx y; split
    · rename_i ha
      rw [ok.same hx he (.inr (by simpa using ha))]
      exact hc.2 y
    · exact ⟨rfl, rfl⟩

theorem handOverN_sound (n : Nat) (h : Sound r s0 s) : Sound r s0 (handOverN n s) := by
  induction n generalizing s with
  | zero => exact h
  | succ n ih =>
    unfold handOverN
    split
    · exact h
    · rename_i e he
      split
      · exact beginAttempt_sound h _
      · split
        · rename_i f hf
          exact settlePower_sound (beginAttempt_sound (claimAtStart_sound
            (startTx_sound h (firstInOrder_mem he) hf) _ _) _) _
        · exact ih (claimAtStart_sound (dropTx_sound h _) _ _)

theorem handOver_sound (h : Sound r s0 s) (p : Encoders) : Sound r s0 (handOver s p) := by
  unfold handOver
  split
  · exact handOverN_sound _ (h.keeps (readEncoders_keeps (.refl _) p))
  · exact h

theorem lost_sound (h : Sound r s0 s) : Sound r s0 (lost s) := h.withLine fun ok => ok

theorem completed_sound {t : State} (h : Sound r s0 t) (s : State) (e : TxEntry) :
    Sound r s0 (completed s t e) := by
  unfold completed
  split
  · split
    · exact h.withPeers fun ok => ⟨ok.1, ok.2.1, Nat.min_le_left _ _⟩
    · exact h
  · exact h.sways (takeWind_sways (.refl _) _ _ _ _)
  · exact h.keeps (ownHoldDone_keeps (.refl _) _)
  · exact h.keeps (ownResumeDone_keeps (.refl _) _)
  · exact grantDone_sound h _ _ _ _
  · exact inrushDone_sound h _ _
  · exact h

theorem succeeded_sound (h : Sound r s0 s) : Sound r s0 (succeeded s) := by
  unfold succeeded
  dsimp only
  split
  · refine completed_sound ((dropTx_sound h _).withLine fun ok => ?_) _ _
    exact ⟨ok.1, ok.2.1, (Nat.sub_le _ _).trans ok.2.2.1, ok.2.2.2⟩
  · exact h

theorem countFailure_sound (h : Sound r s0 s) (e : TxEntry) : Sound r s0 (countFailure s e) := by
  unfold countFailure
  split
  · exact settlePower_sound ((dropTx_sound h _).quiet (onLost_quiet (.refl _) _)) _
  · refine changeTx_sound h _ (fun _ => ?_) (fun _ _ _ => ?_) fun _ _ _ => ?_
    · exact ⟨rfl, rfl⟩
    · exact id
    · exact ⟨rfl, fun _ => ⟨rfl, rfl⟩⟩

theorem enterQuiet_sound (h : Sound r s0 s) : Sound r s0 (enterQuiet s) := by
  unfold enterQuiet
  split
  · refine setFlag_sound (h.withLine fun ok => ?_) _ _ _
    exact ok
  · exact h

theorem failed_sound (h : Sound r s0 s) : Sound r s0 (failed s) := by
  unfold failed
  split
  · refine enterQuiet_sound (countFailure_sound (h.withLine fun ok => ?_) _)
    exact ⟨ok.1, ok.2.1, Nat.min_le_left _ _, ok.2.2.2⟩
  · exact h

theorem quietOver_sound (h : Sound r s0 s) : Sound r s0 (quietOver s) := by
  unfold quietOver
  split
  · exact h.withLine fun ok => ⟨ok.1, ok.2.1, by dsimp only; omega, ok.2.2.2⟩
  · exact h

theorem vetoFrame_sound (h : Sound r s0 s) (raw : RawFrame) : Sound r s0 (vetoFrame s raw) := by
  unfold vetoFrame
  split
  · rename_i hc
    have hp : s.line.passive = false := by
      simp only [Bool.and_eq_true, Bool.not_eq_true'] at hc; exact hc.2
    dsimp only
    split
    · refine setFlag_sound (s := (s.withLine _).withLine _) ?_ _ _ _
      refine Sound.trans h ⟨rfl, fun k => { k with line := ?_ }, fun _ _ => Nat.le_refl _⟩
      obtain ⟨a, b, c, d, e⟩ := k.line
      have := e hp
      exact ⟨a, b, c, by show s.line.vetoCount + 1 ≤ 8; omega, by simp⟩
    · rename_i h8
      refine h.withLine fun ok => ?_
      obtain ⟨a, b, c, d, e⟩ := ok
      have := e hp
      have h8' : ¬ s.line.vetoCount + 1 = 8 := by simpa using h8
      exact ⟨a, b, c, by show s.line.vetoCount + 1 ≤ 8; omega,
        fun _ => by show s.line.vetoCount + 1 < 8; omega⟩
  · exact h

theorem vetoedElsewhere_sound (h : Sound r s0 s) : Sound r s0 (vetoedElsewhere s) := by
  unfold vetoedElsewhere
  split
  · exact cleanRead_sound h
  · exact h

/-! ### Reports -/

theorem resetFlag_sound (h : Sound r s0 s) (n : Nat) : Sound r s0 (resetFlag s n) := by
  unfold resetFlag
  split
  · exact setFlag_sound h _ _ _
  · exact h

theorem applyClear_sound (h : Sound r s0 s) (flags : BitVec 16) :
    Sound r s0 (applyClear s flags) := by
  unfold applyClear
  refine Sound.foldl (fun _ _ ht => resetFlag_sound ht _) ?_ _
  unfold clearFlags
  exact h.withReport fun ok => ⟨by simpa using ok.1, ok.2⟩

theorem keepQuery_sound (h : Sound r s0 s) (console subject key : Nat) :
    Sound r s0 (keepQuery s console subject key) := by
  unfold keepQuery
  split
  · exact h.withReport fun ok => ⟨ok.1, by simp; omega⟩
  · exact h

theorem takeClear_sound (h : Sound r s0 s) (sender target : Nat) (flags : BitVec 16) :
    Sound r s0 (takeClear s sender target flags) := by
  unfold takeClear
  repeat' split
  all_goals first
    | exact h
    | exact keepQuery_sound h _ _ _
    | exact applyClear_sound h _
    | exact queueFrame_sound (applyClear_sound h _) _

theorem takeQuery_sound (h : Sound r s0 s) (sender target item index : Nat)
    (value : Option AnswerValue) : Sound r s0 (takeQuery s sender target item index value) := by
  unfold takeQuery
  repeat' split
  all_goals first
    | exact h
    | exact keepQuery_sound h _ _ _
    | exact queueFrame_sound h _

theorem takeDishQuery_sound (h : Sound r s0 s) (sender target index : Nat) (p : Encoders) :
    Sound r s0 (takeDishQuery s sender target index p) := by
  unfold takeDishQuery
  dsimp only
  split
  · exact takeQuery_sound (h.keeps (readEncoders_keeps (.refl _) p)) _ _ _ _ _
  · exact takeQuery_sound h _ _ _ _ _

theorem takeMeltQuery_sound (h : Sound r s0 s) (sender target index : Nat) :
    Sound r s0 (takeMeltQuery s sender target index) := by
  have ht := takeQuery_sound h sender target 10 index (meltValue s index)
  unfold takeMeltQuery
  dsimp only
  split
  · unfold clearMeltMark
    exact ht.withSensor (by exact id)
  · exact ht

theorem queueEvents_sound (h : Sound r s0 s) : Sound r s0 (queueEvents s) := by
  unfold queueEvents
  refine Sound.foldl (fun t n ht => ?_) h _
  split
  · exact settlePower_sound (ht.quiet (queueEvent_quiet (.refl _) _)) _
  · exact ht

theorem reportReady_sound (h : Sound r s0 s) : Sound r s0 (reportReady s) := by
  unfold reportReady
  refine queueEvents_sound (Sound.foldl (fun _ _ ht => queueFrame_sound ht _) ?_ _)
  exact h.withReport fun ok => ⟨ok.1, by simp⟩

theorem lampFlash_sound (h : Sound r s0 s) : Sound r s0 (lampFlash s) := by
  unfold lampFlash
  split
  · exact h.withReport fun ok => ok
  · exact h

/-! ### The axis inputs -/

theorem limitEvent_sound (h : Sound r s0 s) (a : Axis) (e : LimitEnd) (p : Encoders) :
    Sound r s0 (limitEvent s a e p) := by
  unfold limitEvent
  dsimp only
  split
  · exact h
  · split
    · exact (h.withPins _).keeps (limitActive_keeps (readEncoders_keeps (.refl _) _) _ _)
    · exact h.withPins _

theorem limitReleased_sound (h : Sound r s0 s) (a : Axis) (e : LimitEnd) :
    Sound r s0 (limitReleased s a e) :=
  (h.withPins _).keeps (descentOver_keeps (.refl _))

theorem ampFaultEvent_sound (h : Sound r s0 s) (a : Axis) (p : Encoders) :
    Sound r s0 (ampFaultEvent s a p) := by
  unfold ampFaultEvent
  dsimp only
  repeat' split
  all_goals first
    | exact h
    | exact h.withPins _
    | exact (h.withPins _).keeps (haltWith_keeps (readEncoders_keeps (.refl _) _) _ _)

theorem encoderLossEvent_sound (h : Sound r s0 s) (a : Axis) (p : Encoders) :
    Sound r s0 (encoderLossEvent s a p) := by
  unfold encoderLossEvent
  dsimp only
  repeat' split
  all_goals first
    | exact h
    | exact h.withPins _
    | exact (h.withPins _).keeps (haltWith_keeps (readEncoders_keeps (.refl _) _) _ _)

theorem ampFaultReleased_sound (h : Sound r s0 s) (a : Axis) : Sound r s0 (ampFaultReleased s a) :=
  h.withPins _

theorem encoderReturned_sound (h : Sound r s0 s) (a : Axis) : Sound r s0 (encoderReturned s a) :=
  h.withPins _

theorem warningEvent_sound (h : Sound r s0 s) (a : Axis) (active : Bool) :
    Sound r s0 (warningEvent s a active) := by
  unfold warningEvent
  dsimp only
  split
  · split
    · exact (h.withPins _).keeps (warningRaised_keeps (.refl _))
    · split
      · exact (h.withPins _).keeps (warningCleared_keeps (.refl _))
      · exact h.withPins _
  · exact h.withPins _

theorem descentEnd_sound (h : Sound r s0 s) : Sound r s0 (descentEnd s) := by
  unfold descentEnd
  split
  · split
    · exact (h.withPins _).keeps (descentOver_keeps (.refl _))
    · exact h
  · exact h

end Sys2Proof.Machine
end

