-- ==== Sys2Proof/Laws/Startup.lean ====
section
/-! SUPPORT. Start-up, the restarts and the counted millisecond: what they keep of every state. -/

namespace Sys2Proof.Machine

variable {r : Bool} {s0 s : State}

/-! ### Restarts -/

theorem sample_sound (h : Sound r s0 s) (straps : Straps) : Sound r s0 (sample s straps) := by
  unfold sample
  dsimp only
  split
  · exact (h.withSeq _).withSeq _
  · exact beginChecking_sound ((h.withSeq _).withSeq _)

/-- A restart's Lockout List holds the key entries and the remote entries it keeps (R36, R50). -/
theorem LockUnit.initial_ok {u : LockUnit} (ok : LockOk u) :
    LockOk (LockUnit.initial (u.list.filter isRemote)) := by
  have remote : ∀ e ∈ u.list.filter isRemote, ∃ t c, e.holder = .remote t c := fun e he => by
    have hr := (List.mem_filter.1 he).2
    unfold isRemote at hr
    cases hh : e.holder with
    | key k => rw [hh] at hr; cases hr
    | remote t c => exact ⟨t, c, rfl⟩
  refine ⟨rfl, ?_, ?_, ?_, Nat.zero_le _⟩
  · show List.Pairwise _ (_ ++ _)
    rw [List.pairwise_append]
    refine ⟨ok.2.1.filter _, by decide, fun a ha b hb => ?_⟩
    obtain ⟨t, c, ht⟩ := remote a ha
    have : ∃ k, b.holder = .key k := by
      simp only [keyEntriesAtReset, List.mem_cons, List.not_mem_nil, or_false] at hb
      rcases hb with rfl | rfl | rfl | rfl <;> exact ⟨_, rfl⟩
    obtain ⟨k, hk⟩ := this
    rw [ht, hk]
    simp [holderId]
  · show (List.filter isRemote (_ ++ keyEntriesAtReset)).length ≤ 4
    rw [List.filter_append, List.filter_filter]
    simp only [Bool.and_self]
    have : List.filter isRemote keyEntriesAtReset = [] := by decide
    rw [this, List.append_nil]
    exact ok.2.2.1
  · intro e he
    rcases List.mem_append.1 he with he | he
    · obtain ⟨t, c, ht⟩ := remote e he
      unfold keyEntryOk
      rw [ht]
    · have : ∀ e ∈ keyEntriesAtReset,
          keyEntryOk (LockUnit.initial (u.list.filter isRemote)).keys e = true := by
        show ∀ e ∈ keyEntriesAtReset, keyEntryOk (LockUnit.initial []).keys e = true
        decide
      exact this e he

theorem LockOk.empty : LockOk { (LockUnit.initial []) with list := [] } := by
  refine ⟨rfl, by decide, by decide, by decide, by decide⟩

/-- The state of a restart holds what every state holds. -/
theorem restartWith_inv (s : State) (seq : SeqUnit) (az el : Int) {locks : List LockEntry}
    (idClash : FlagRecord) (hl : LockOk (LockUnit.initial locks)) :
    Inv (restartWith s seq az el locks idClash) where
  time := (by decide : TimeOk TimeUnit.initial)
  line := (by decide : LineOk LineUnit.initial)
  peers := (by decide : PeersOk PeerUnit.initial)
  axis := AxisOk.rest (Nat.zero_le _) rfl rfl (.inl rfl) rfl rfl
  lock := hl
  compact := (by decide : CompactOk CompactUnit.initial)
  sensor := (by decide : SensorOk SensorUnit.initial)
  wind := (by decide : WindOk WindUnit.initial)
  loans := (by decide : LoansOk ShareUnit.initial)
  report := ⟨by simp [restartWith, ReportUnit.initial], Nat.zero_le _⟩

theorem restartWith_sound (s : State) (seq : SeqUnit) (az el : Int) {locks : List LockEntry}
    (idClash : FlagRecord) (hl : LockOk s.lock → LockOk (LockUnit.initial locks)) :
    Sound true s (restartWith s seq az el locks idClash) :=
  ⟨rfl, fun k => restartWith_inv s seq az el idClash (hl k.lock), fun e => by cases e⟩

theorem freerunIfStopped_sound (h : Sound r s0 s) : Sound r s0 (freerunIfStopped s) := by
  unfold freerunIfStopped
  split
  · exact h
  · exact setFlag_sound h _ _ _

theorem powerOnReset_sound (h : Sound true s0 s) (straps : Straps) :
    Sound true s0 (powerOnReset s straps) := by
  unfold powerOnReset
  refine freerunIfStopped_sound (sample_sound (h.trans (restartWith_sound s _ _ _ _ ?_)) _)
  exact fun _ => LockUnit.initial_ok LockOk.empty

theorem pinResetAll_sound (h : Sound true s0 s) (straps : Straps) :
    Sound true s0 (pinResetAll s straps) := by
  unfold pinResetAll
  split
  · exact powerOnReset_sound h straps
  · exact freerunIfStopped_sound (sample_sound
      (h.trans (restartWith_sound s _ _ _ _ LockUnit.initial_ok)) _)

theorem remoteReset_sound (h : Sound true s0 s) (sender : Nat) (straps : Straps) :
    Sound true s0 (remoteReset s sender straps) := by
  unfold remoteReset
  exact freerunIfStopped_sound (sample_sound
    (h.trans (restartWith_sound s _ _ _ _ LockUnit.initial_ok)) _)

theorem holdReset_sound (h : Sound true s0 s) (low : Bool) : Sound true s0 (holdReset s low) :=
  h.trans (restartWith_sound s _ _ _ _ LockUnit.initial_ok)

/-! ### LOAD -/

theorem enterConfigFault_sound (h : Sound r s0 s) (cause : ConfigFault) :
    Sound r s0 (enterConfigFault s cause) := by
  unfold enterConfigFault
  exact queueEvents_sound (queueBeacon_sound (beginChecking_sound (h.withSeq _)))

theorem attemptFailed_sound (h : Sound r s0 s) (cause : ConfigFault) :
    Sound r s0 (attemptFailed s cause) := by
  unfold attemptFailed
  dsimp only
  split
  · exact enterConfigFault_sound (h.withSeq _) _
  · exact (h.withSeq _).withSeq _

theorem loadSucceeded_sound (h : Sound r s0 s) (c : ConfigRecord) :
    Sound r s0 (loadSucceeded s c) := by
  unfold loadSucceeded
  dsimp only
  refine beginScan_sound (Sound.keeps ?_ (readInputsAfresh_keeps (.refl _)))
  exact takeKeyScopes_sound (beginChecking_sound
    (((h.withSeq _).withKeepOut _).withHeater _)) _

theorem keepRaw_sound (h : Sound r s0 s) (bytes : List Byte) : Sound r s0 (keepRaw s bytes) :=
  h.withSeq _

theorem attemptEnded_sound (h : Sound r s0 s) (acked : Bool) (bytes : List Byte) :
    Sound r s0 (attemptEnded s acked bytes) := by
  have ht := keepRaw_sound h bytes
  unfold attemptEnded
  dsimp only
  split
  · split
    · exact attemptFailed_sound ht _
    · split
      · exact attemptFailed_sound ht _
      · split
        · exact enterConfigFault_sound ht _
        · exact loadSucceeded_sound ht _
  · exact h

theorem busTimeout_sound (h : Sound r s0 s) (bytes : List Byte) :
    Sound r s0 (busTimeout s bytes) := by
  unfold busTimeout
  split
  · exact attemptFailed_sound (keepRaw_sound h bytes) _
  · exact h

theorem pauseOver_sound (h : Sound r s0 s) : Sound r s0 (pauseOver s) := by
  unfold pauseOver
  split
  · split
    · exact h.withSeq _
    · exact h
  · exact h

/-! ### READY -/

theorem compactReady_sound (h : Sound r s0 s) : Sound r s0 (compactReady s) := by
  unfold compactReady
  refine Sound.foldl (fun _ _ ht => queueFrame_sound ht _) ?_ _
  exact h.withCompact fun ok => ⟨ok.1, ok.2.1, ok.2.2.1, by simp⟩

theorem axisReady_sound (h : Sound r s0 s) : Sound r s0 (axisReady s) := by
  unfold axisReady
  dsimp only
  have ha : Sound r s0 (s.axis.pendingAnswers.foldl
      (fun u a => answerMove u a.1 a.2 outcomeNotReady)
      (s.withAxis { s.axis with pendingAnswers := [] })) := by
    refine Sound.foldl (fun _ _ ht => ht.keeps (answerMove_keeps (.refl _) _ _ _)) ?_ _
    exact h.withAxis fun ok => ok.still ok.1 rfl rfl rfl rfl rfl
  have ht := ha.keeps (tryStart_keeps (.refl _))
  split
  · exact ht.keeps (warningRaised_keeps (.refl _))
  · exact ht

theorem becomeReady_sound (h : Sound r s0 s) : Sound r s0 (becomeReady s) := by
  unfold becomeReady
  dsimp only
  refine reportReady_sound (Sound.sways ?_ (windReady_sways (.refl _)))
  exact sensorReady_sound (axisReady_sound (compactReady_sound (lockReady_sound
    (queueBeacon_sound ((h.withSeq _).withHeater _)))))

theorem listenOver_sound (h : Sound r s0 s) : Sound r s0 (listenOver s) := by
  unfold listenOver
  split
  · exact becomeReady_sound h
  · exact h

theorem motionReset_keeps (h : Keeps s0 s) : Keeps s0 (motionReset s) :=
  axisMotionReset_keeps (compactMotionReset_keeps h)

/-! ### The counted millisecond -/

theorem tickAxis_ok {a : AxisUnit} (ok : AxisOk a) : AxisOk (tickAxis a) := by
  obtain ⟨q, l, st, b, h⟩ := ok
  refine ⟨q, by simpa [tickAxis] using l, by simpa [tickAxis] using st, ?_, h⟩
  unfold brakesFollow at b ⊢
  cases hl : a.leg <;> simp_all [tickAxis]

theorem tickLine_ok {u : LineUnit} (ok : LineOk u) : LineOk (tickLine u) :=
  ok.map _ (fun _ _ => rfl) (fun _ _ => rfl) (fun _ _ => id) (fun _ _ => rfl)
    fun _ _ _ => ⟨rfl, rfl⟩

theorem tickPeers_ok {u : PeerUnit} (ok : PeersOk u) : PeersOk (tickPeers u) := by
  refine ⟨?_, fun e he => ?_, ok.2.2⟩
  · simp only [tickPeers, List.pairwise_map]
    exact ok.1
  · obtain ⟨x, hx, rfl⟩ := List.mem_map.1 he
    have := ok.2.1 x hx
    refine ⟨this.1, this.2.1, ?_⟩
    dsimp only
    split
    · exact Nat.min_le_left _ _
    · exact this.2.2

theorem tickLock_ok {u : LockUnit} (ok : LockOk u) : LockOk (tickLock u) := by
  refine ⟨by simpa [tickLock] using ok.1, ok.2.1, ok.2.2.1, fun e he => ?_, ok.2.2.2.2⟩
  have := ok.2.2.2.1 e he
  unfold keyEntryOk at this ⊢
  split
  · rename_i k hk
    rw [hk] at this
    simp only [tickLock, List.getD, List.getElem?_map] at this ⊢
    cases hg : u.keys[k - 1]? with
    | none => rw [hg] at this; exact this
    | some m => rw [hg] at this; exact this
  · rfl

theorem tickCompact_ok {u : CompactUnit} (ok : CompactOk u) : CompactOk (tickCompact u) :=
  ok.map _ (fun _ => ⟨rfl, rfl⟩) fun _ _ h => h

theorem tickWind_ok {u : WindUnit} (ok : WindOk u) :
    WindOk { u with cells := u.cells.map tickCell } := by
  refine ⟨by simpa using ok.1, fun x hx => ?_⟩
  obtain ⟨y, hy, rfl⟩ := List.mem_map.1 hx
  exact ok.2 y hy

theorem tickShare_ok {u : ShareUnit} (ok : LoansOk u) : LoansOk (tickShare u) :=
  LoansOk.map ok _ fun _ => rfl

/-- A counted millisecond keeps what holds of every state. -/
theorem tick_inv (h : Inv s) : Inv (tick s) where
  time := (countMs_ok h.time).1
  line := tickLine_ok h.line
  peers := tickPeers_ok h.peers
  axis := tickAxis_ok h.axis
  lock := tickLock_ok h.lock
  compact := tickCompact_ok h.compact
  sensor := h.sensor
  wind := tickWind_ok h.wind
  loans := tickShare_ok h.loans
  report := h.report

/-- A counted millisecond never takes array time back (R78). -/
theorem tick_later (h : Inv s) : nowMs s ≤ nowMs (tick s) := (countMs_ok h.time).2

theorem withPending_inv (l : List Instr) : Inv (s.withPending l) ↔ Inv s :=
  ⟨fun h => { h with }, fun h => { h with }⟩

end Sys2Proof.Machine
end

