-- ==== Sys2Proof/Laws/Effects.lean ====
section
/-! SUPPORT. What the shared operations do, said once: a flag set, frames queued in a row, a lockout
list replaced, an entry of the Peer Table put, a restart. -/

namespace Sys2Proof.Machine

variable {s0 s : State}

/-- A flag set: its record, and the EVENT and the settlement that follow (R189, R190). -/
theorem setFlag_silent (s : State) (n d x : Nat) :
    Silent (recordFlag s n d x) (setFlag s n d x) := by
  unfold setFlag setFlagRaw
  refine settlePower_silent ?_ s
  split
  · exact .refl _
  · exact queueEvent_silent (.refl _) _

/-- A flag set holds its detail, extra and time, and every other flag stands (R189). -/
theorem setFlag_records {n : Nat} (h : s.report.flags.length = 16) (hn : n < 16) (d x : Nat) :
    flagRecord (setFlag s n d x) n = ⟨true, d, x, now s⟩ ∧
      ∀ m, m ≠ n → flagRecord (setFlag s n d x) m = flagRecord s m := by
  have hr := (setFlag_silent s n d x).report
  unfold flagRecord
  rw [hr]
  constructor
  · simp [recordFlag, State.withReport, h, hn]
  · intro m hm
    simp [recordFlag, State.withReport, List.getD, Ne.symm hm]

/-- COMPACT_FAILED set at a clash names a live record that held the own state ACCEPTED (R116, R118). -/
theorem compactClash_names (h : s.report.flags.length = 16) (hl : liveAccepted s ≠ []) :
    ∃ d, ∃ id ∈ liveAccepted s,
      flagRecord (compactClash s) flagCompactFailed = ⟨true, d, id, now s⟩ := by
  have set : ∀ (u : State) (d id : Nat), u.report = s.report → now u = now s →
      flagRecord (compactFailed u d id) flagCompactFailed = ⟨true, d, id, now s⟩ :=
    fun u d id hr hn => hn ▸ (setFlag_records (hr ▸ h) (by decide) d id).1
  unfold compactClash
  dsimp only
  split
  · contradiction
  · rename_i id hid
    exact ⟨_, id, by simp [hid], set _ _ _ rfl rfl⟩
  · rename_i id rest _ hid
    refine ⟨_, _, ?_, set _ _ _ rfl rfl⟩
    rw [hid, List.getD_eq_getElem _ _ (n := _ % (rest.length + 1)) (Nat.mod_lt _ (Nat.succ_pos _))]
    exact List.getElem_mem _

/-- A fold of operations that keep `Silent` keeps it. -/
theorem Silent.foldl {α : Type} {f : State → α → State}
    (hf : ∀ (t : State) (a : α), Silent s0 t → Silent s0 (f t a)) (h : Silent s0 s) (l : List α) :
    Silent s0 (l.foldl f s) := by
  induction l generalizing s with
  | nil => exact h
  | cons a l ih => exact ih (hf s a h)

/-- Frames queued one after the other. -/
theorem queueFrames_silent {α : Type} (s : State) (f : State → α → Frame) (l : List α) :
    Silent s (l.foldl (fun u a => queueFrame u (f u a)) s) :=
  Silent.foldl (fun _ _ h => h.trans (queueFrame_silent (.refl _) _)) (.refl s) l

theorem queueEvents_silent (s : State) : Silent s (queueEvents s) := by
  unfold queueEvents
  refine Silent.foldl (fun t n ht => ?_) (.refl s) _
  split
  · exact ht.trans (settlePower_silent (queueEvent_silent (.refl _) _) _)
  · exact ht

/-- The own BEACON queued begins its interval again (R89). -/
theorem queueBeacon_silent (s : State) :
    Silent (s.withPeers { s.peers with beaconRun := some 0 }) (queueBeacon s) := by
  have q := queueFrame_silent (.refl s) (.beacon (buildBeacon s))
  have hp : (queueBeacon s).peers = { s.peers with beaconRun := some 0 } := by
    show { (queueFrame s _).peers with beaconRun := some 0 } = _
    rw [q.peers]
  exact
    { pending := q.pending, pins := q.pins, seq := q.seq, time := q.time, peers := hp
      lock := q.lock, keepOut := q.keepOut, sensor := q.sensor, axis := q.axis
      compact := q.compact, wind := q.wind, report := q.report, motion := q.motion
      loans := q.loans, busy := q.busy, counters := q.counters, line := q.line }

/-- A WIND queued begins its run again (R132). -/
theorem queueWind_silent (s : State) (cause : Nat) :
    Silent (s.withSensor { s.sensor with windRun := some 0 }) (queueWind s cause) := by
  have q := queueFrame_silent (.refl s)
    (.wind (cfg s).ownCell (levelCode s.sensor.level) s.sensor.combined cause)
  have hs : (queueWind s cause).sensor = { s.sensor with windRun := some 0 } := by
    show { (queueFrame s _).sensor with windRun := some 0 } = _
    rw [q.sensor]
  exact
    { pending := q.pending, pins := q.pins, seq := q.seq, time := q.time, peers := q.peers
      lock := q.lock, keepOut := q.keepOut, sensor := hs, axis := q.axis
      compact := q.compact, wind := q.wind, report := q.report, motion := q.motion
      loans := q.loans, busy := q.busy, counters := q.counters, line := q.line }

/-- The Lockout List replaced, and what follows of a change of the mask (R33). -/
theorem setLockList_keeps (s : State) (l : List LockEntry) :
    Keeps (s.withLock { s.lock with list := l }) (setLockList s l) := by
  unfold setLockList
  dsimp only
  split
  · exact .refl _
  · exact maskChanged_keeps (.refl _) _ _

/-- The bytes of a whole read are kept as they are (R193). -/
theorem asRead_full {b : List Byte} (h : b.length = 143) : asRead b = b := by
  unfold asRead; rw [h]; simp [List.take_of_length_le (Nat.le_of_eq h)]

/-! ### The Peer Table -/

theorem find_putPeer (x : PeerEntry) (l : List PeerEntry) (m : Nat) :
    (putPeer x l).find? (fun e => e.station == m) =
      if m = x.station then some x else l.find? fun e => e.station == m := by
  induction l with
  | nil =>
    by_cases h : m = x.station
    · simp [putPeer, h]
    · have h1 : (x.station == m) = false := by simpa using fun k => h k.symm
      simp only [putPeer, List.find?_cons, h1, if_neg h, List.find?_nil]
  | cons e l ih =>
    unfold putPeer
    split
    · rename_i he
      rw [beq_iff_eq] at he
      by_cases h : m = x.station
      · simp [h]
      · have h1 : (x.station == m) = false := by simpa using fun k => h k.symm
        have h2 : (e.station == m) = false := by rw [he]; exact h1
        simp [h1, h2, h]
    · split
      · rename_i hne hlt
        by_cases h : m = x.station
        · simp [h]
        · have h1 : (x.station == m) = false := by simpa using fun k => h k.symm
          rw [List.find?_cons, h1, if_neg h]
      · rename_i hne hlt
        rw [List.find?_cons, ih]
        by_cases h : m = x.station
        · subst h
          simp [hne]
        · rw [if_neg h, if_neg h, List.find?_cons]

/-- The entry put is the station's, and every other stands (R83). -/
theorem peerEntry_setPeer (s : State) (x : PeerEntry) (m : Nat) :
    peerEntry (setPeer s x) m = if m = x.station then x else peerEntry s m := by
  unfold peerEntry
  rw [show (setPeer s x).peers.table = putPeer x s.peers.table from rfl, find_putPeer]
  split <;> rfl

/-- The entry of a station bears its number (R83). -/
theorem peerEntry_station (s : State) (n : Nat) : (peerEntry s n).station = n := by
  unfold peerEntry
  cases h : s.peers.table.find? fun e => e.station == n with
  | none => rfl
  | some e => simpa using List.find?_some h

/-- Two states with one Peer Table have one entry for each station. -/
theorem peerEntry_congr {s t : State} (h : t.peers.table = s.peers.table) (n : Nat) :
    peerEntry t n = peerEntry s n := by unfold peerEntry; rw [h]

theorem dropLoanWith_quiet (h : Quiet s0 s) (peer : Nat) : Quiet s0 (dropLoanWith s peer) := by
  unfold dropLoanWith
  split
  · exact setFlag_quiet (removeBorrowed_quiet h peer) _ _ _
  · split
    · exact setFlag_quiet (removeLent_quiet h peer) _ _ _
    · exact h

theorem sharePeerLost_quiet (h : Quiet s0 s) (peer : Nat) : Quiet s0 (sharePeerLost s peer) := by
  unfold sharePeerLost
  split
  · exact withdrawFrames_quiet (dropLoanWith_quiet h peer) _
  · exact h

/-- What the notice that a peer has restarted leaves as it was (R87). -/
theorem peerRestarted_sways (s : State) (n : Nat) : Sways s (peerRestarted s n) :=
  ((sharePeerLost_quiet (.refl s) n).keeps.trans (compactPeerLost_keeps (.refl _) n)).sways.trans
    (windPeerRestarted_sways (.refl _) n)

/-- What the notice that a peer is absent leaves as it was (R87). -/
theorem peerAbsentNotice_sways (s : State) (n : Nat) : Sways s (peerAbsentNotice s n) :=
  ((sharePeerLost_quiet (.refl s) n).keeps.trans (compactPeerLost_keeps (.refl _) n)).sways.trans
    (windPeerAbsent_sways (.refl _) n)

/-! ### Restarts -/

/-- SAMPLE after a restart (R181, R187). -/
theorem sample_restart (s : State) (x : Straps) (c : StartCause) (n : Nat) (az el : Int)
    (l : List LockEntry) (f : FlagRecord) :
    sample (restartWith s (SeqUnit.initial false false 0 false c n) az el l f) x =
      restarted s c n x az el l f := by
  unfold sample restarted
  dsimp only
  split
  · simp
    rfl
  · simp
    rfl

end Sys2Proof.Machine
end

