-- ==== Sys2Proof/Laws/Heater.lean ====
section
/-! SUPPORT. What leaves the Zone Table as it was: everything the blocks queue, flag and withdraw
while no top-up can follow, that is while demand does not hold or the station is not READY (R158);
and what a shed and a switching off do to it (R161 to R165). -/

namespace Sys2Proof.Machine

/-- No top-up can follow (R158). -/
def NoTopUp (s : State) : Prop := (demand s && isReady s) = false

/-- The Zone Table, and what demand and READY are read from, are as they were. -/
structure Still (s t : State) : Prop where
  heater : t.heater = s.heater
  sensor : t.sensor = s.sensor
  lock : t.lock = s.lock
  seq : t.seq = s.seq

variable {s0 s : State}

theorem Still.refl (s : State) : Still s s := ⟨rfl, rfl, rfl, rfl⟩

theorem Still.trans {s t u : State} (h : Still s t) (k : Still t u) : Still s u :=
  ⟨k.heater.trans h.heater, k.sensor.trans h.sensor, k.lock.trans h.lock, k.seq.trans h.seq⟩

theorem Still.demand {s t : State} (h : Still s t) : Machine.demand t = Machine.demand s := by
  unfold Machine.demand lockMask; rw [h.sensor, h.lock]

theorem Still.noTopUp {s t : State} (h : Still s t) (hn : NoTopUp s) : NoTopUp t := by
  unfold NoTopUp isReady; rw [h.demand, h.seq]; exact hn

theorem Still.withLine (h : Still s0 s) (x : LineUnit) : Still s0 (s.withLine x) :=
  ⟨h.heater, h.sensor, h.lock, h.seq⟩

theorem Still.withShare (h : Still s0 s) (x : ShareUnit) : Still s0 (s.withShare x) :=
  ⟨h.heater, h.sensor, h.lock, h.seq⟩

theorem Still.withAxis (h : Still s0 s) (x : AxisUnit) : Still s0 (s.withAxis x) :=
  ⟨h.heater, h.sensor, h.lock, h.seq⟩

theorem Still.withWind (h : Still s0 s) (x : WindUnit) : Still s0 (s.withWind x) :=
  ⟨h.heater, h.sensor, h.lock, h.seq⟩

theorem Still.withReport (h : Still s0 s) (x : ReportUnit) : Still s0 (s.withReport x) :=
  ⟨h.heater, h.sensor, h.lock, h.seq⟩

theorem Still.withCompact (h : Still s0 s) (x : CompactUnit) : Still s0 (s.withCompact x) :=
  ⟨h.heater, h.sensor, h.lock, h.seq⟩

/-! ### The transmit queue -/

theorem claimFromNone_still (h : Still s0 s) : Still s0 (claimFromNone s) := by
  unfold claimFromNone
  dsimp only
  split
  · split
    · exact (h.withShare _).withLine _
    · exact h.withShare _
  · exact h.withShare _

theorem queueAgain_still (h : Still s0 s) (f : Frame) : Still s0 (queueAgain s f) := by
  unfold queueAgain
  split
  · exact h.withLine _
  · exact h

theorem onLost_still (h : Still s0 s) (e : TxEntry) : Still s0 (onLost s e) := by
  unfold onLost
  split
  all_goals first
    | exact claimFromNone_still h
    | exact h
    | (split <;> first | exact h | exact queueAgain_still h _)

theorem enqueueEntry_still (h : Still s0 s) (e : TxEntry) : Still s0 (enqueueEntry s e) := by
  unfold enqueueEntry
  split
  · split
    · exact h.withLine _
    · unfold enqueueNew
      split
      · split
        · exact onLost_still (h.withLine _) _
        · exact h.withLine _
      · split
        · exact h.withLine _
        · unfold onRefused
          split
          · exact h.withShare _
          · exact h
  · exact h

theorem updateAsk_still (h : Still s0 s) : Still s0 (updateAsk s) := by
  unfold updateAsk
  split
  · split
    · exact h.withLine _
    · have hq : Still s0 (queueAsk (reviseFrames s fun e =>
          if isAsk e then { e with frame := .shareAsk (askAmount s) } else e)) :=
        (enqueueEntry_still (h.withLine _) _).withShare _
      dsimp only
      split
      · split
        · exact h.withLine _
        · exact hq
      · exact hq
  · exact h

/-! ### The account -/

theorem updateClaim_still (h : Still s0 s) : Still s0 (updateClaim s) := by
  unfold updateClaim
  split
  · split
    · exact claimFromNone_still h
    · exact h
  · split
    · exact (h.withLine _).withShare _
    · exact h.withLine _
  · exact h

/-- A heater notice reports the Zone Table and does not change it (R157). -/
theorem heaterNotice_still (h : Still s0 s) : Still s0 (heaterNotice s) := by
  unfold heaterNotice
  dsimp only
  split
  · exact h
  · exact updateClaim_still (h.withShare _)

/-- An event of the account that sets no shares free leaves the Zone Table (R158, R167). -/
theorem settlePower_still_of_le {b : State} (h : Still s0 s) (hf : freeShares s ≤ freeShares b) :
    Still s0 (settlePower b s) := by
  unfold settlePower
  rw [if_neg (by omega)]
  exact updateAsk_still h

theorem settlePower_still (hn : NoTopUp s0) (h : Still s0 s) (b : State) :
    Still s0 (settlePower b s) := by
  unfold settlePower
  split
  · have : topUp s = s := by
      unfold topUp; rw [if_neg]; rw [h.noTopUp hn]; simp
    rw [this]; exact updateAsk_still h
  · exact updateAsk_still h

theorem queueFrame_still (hn : NoTopUp s0) (h : Still s0 s) (f : Frame) :
    Still s0 (queueFrame s f) := settlePower_still hn (enqueueEntry_still h _) _

theorem setFlagRaw_still (h : Still s0 s) (n detail extra : Nat) :
    Still s0 (setFlagRaw s n detail extra) := by
  unfold setFlagRaw
  split
  · exact h.withReport _
  · unfold queueEvent
    split
    · exact enqueueEntry_still (h.withReport _) _
    · exact h.withReport _

theorem setFlag_still (hn : NoTopUp s0) (h : Still s0 s) (n detail extra : Nat) :
    Still s0 (setFlag s n detail extra) := settlePower_still hn (setFlagRaw_still h _ _ _) _

/-- Switching off puts every zone that is not OFF in OFF with the cause (R162 to R165). -/
theorem allOff_heater (hn : NoTopUp s) (c : OffCause) : (allOff s c).heater = { s.heater with
    zones := s.heater.zones.map (zoneOff c), claims := [], onOrder := [], admitted := 0 } :=
  (settlePower_still (s0 := s.withHeater _) (by exact hn) (heaterNotice_still (.refl _)) s).heater

/-! ### Stops, flushes and leaving -/

theorem judgeBlocked_still (hn : NoTopUp s0) (h : Still s0 s) : Still s0 (judgeBlocked s) := by
  unfold judgeBlocked
  split
  · split
    · exact h
    · exact setFlag_still hn ((h.withWind _).withReport _) _ _ _
  · split
    · exact (h.withWind _).withReport _
    · exact h

theorem axisWithdraw_still (hn : NoTopUp s0) (h : Still s0 s) (id : Nat) :
    Still s0 (axisWithdraw s id) := by
  unfold axisWithdraw
  split
  · split
    · exact h.withAxis _
    · exact judgeBlocked_still hn ((h.withAxis _).withAxis _)
    · exact h.withAxis _
    · exact h
  · exact h

theorem makeTerminal_still (hn : NoTopUp s0) (h : Still s0 s) (r : CompactRecord)
    (st : CompactState) : Still s0 (makeTerminal s r st) := by
  unfold makeTerminal
  dsimp only
  split
  · have k := fun d => setFlag_still hn (s := changeRecord s r.id fun x =>
      { x with state := st, terminalAt := some (now s), terminalRun := 0 }) (h.withCompact _)
      flagCompactFailed d r.id
    split
    · exact axisWithdraw_still hn (k _) _
    · exact k _
  · exact h.withCompact _

theorem afterLeft_still (hn : NoTopUp s0) (h : Still s0 s) (id : Nat) :
    Still s0 (afterLeft s id) := by
  unfold afterLeft completionTest
  repeat' split
  all_goals first | exact h | exact makeTerminal_still hn h _ _

theorem ownLeave_still (hn : NoTopUp s0) (h : Still s0 s) (r : CompactRecord) (reason : Nat) :
    Still s0 (ownLeave s r reason) := by
  unfold ownLeave queueLeave
  refine afterLeft_still hn (setFlag_still hn ?_ _ _ _) _
  dsimp only
  split
  · exact queueFrame_still hn (queueFrame_still hn (h.withCompact _) _) _
  · exact queueFrame_still hn (h.withCompact _) _

theorem Still.foldl {α : Type} {f : State → α → State}
    (hf : ∀ (t : State) (a : α), Still s0 t → Still s0 (f t a)) (h : Still s0 s) (l : List α) :
    Still s0 (l.foldl f s) := by
  induction l generalizing s with
  | nil => exact h
  | cons a l ih => exact ih (hf s a h)

theorem leaveAll_still (hn : NoTopUp s0) (h : Still s0 s) (reason : Nat) :
    Still s0 (leaveAll s reason) :=
  Still.foldl (fun _ _ ht => ownLeave_still hn ht _ _) h _

theorem flush_still (hn : NoTopUp s0) (h : Still s0 s) (cause : Nat) :
    Still s0 (flush s cause) := by
  unfold flush noticeRemoved
  refine Still.foldl (fun t e ht => ?_) (h.withAxis _) _
  split
  · unfold jointWithdrawn
    repeat' split
    all_goals first | exact ht | exact ownLeave_still hn ht _ _
  · exact ht

theorem beginStop_still (hn : NoTopUp s0) (h : Still s0 s) (r : StopReason) :
    Still s0 (beginStop s r) := judgeBlocked_still hn (h.withAxis _)

/-! ### Sheds -/

theorem sharesOf_cons (zones : List Zone) (i : Nat) (l : List Nat) :
    sharesOf zones (i :: l) = (zones[i]?.map (·.shares)).getD 0 + sharesOf zones l := by
  simp [sharesOf]

/-- The zones picked from a list are as few of its first zones as give the amount, or all (R161). -/
theorem shedPick_takes (zones : List Zone) (l : List Nat) (amount : Nat) :
    FreedOf zones l.reverse amount (shedPick zones l amount) := by
  unfold FreedOf
  rw [List.reverse_reverse]
  induction l generalizing amount with
  | nil => exact ⟨⟨[], rfl, fun h => absurd rfl h⟩, fun a i h => by simp [shedPick] at h⟩
  | cons x l ih =>
    by_cases hn : amount = 0
    · subst hn
      exact ⟨⟨_, by simp [shedPick]; rfl, fun _ => Nat.zero_le _⟩,
        fun a i h => by simp [shedPick] at h⟩
    · have hn' : (amount == 0) = false := by simpa using hn
      cases hz : zones[x]? with
      | none =>
        have hx : ¬ x < zones.length := by simpa using hz
        rw [show shedPick zones (x :: l) amount = shedPick zones l amount by
          simp [shedPick, hn', hz]]
        obtain ⟨⟨rest, h1, h2⟩, h3⟩ := ih amount
        exact ⟨⟨rest, by simpa [hx] using h1, h2⟩, h3⟩
      | some w =>
        obtain ⟨hx, _⟩ := List.getElem?_eq_some_iff.1 hz
        rw [show shedPick zones (x :: l) amount = x :: shedPick zones l (amount - w.shares) by
          simp [shedPick, hn', hz]]
        have hw : (zones[x]?.map (·.shares)).getD 0 = w.shares := by rw [hz]; rfl
        obtain ⟨⟨rest, h1, h2⟩, h3⟩ := ih (amount - w.shares)
        refine ⟨⟨rest, by simpa [hx] using h1, fun hr => ?_⟩, fun a i h => ?_⟩
        · rw [sharesOf_cons, hw]; have := h2 hr; omega
        · cases a with
          | nil => simp [sharesOf]; omega
          | cons y a =>
            obtain ⟨rfl, h5⟩ := List.cons.inj h
            have := h3 a i h5
            rw [sharesOf_cons, hw]
            omega

/-- A heater notice leaves the Share Unit with the commitment of the Zone Table (R157). -/
theorem heaterNotice_commit (s : State) :
    (heaterNotice s).share.heaterCommit = heaterCommitment s := by
  have k : ∀ u : State, (updateClaim u).share.heaterCommit = u.share.heaterCommit := fun u => by
    unfold updateClaim claimFromNone
    dsimp only
    repeat' split
    all_goals rfl
  unfold heaterNotice
  dsimp only
  split
  · rename_i h; simp at h; exact h.1.1.symm
  · rw [k]; rfl

/-- What a shed does (R161). -/
theorem shed_by (s : State) (amount : Nat) : ∃ c o, ShedBy s (shed s amount) amount c o := by
  have hc := shedPick_takes s.heater.zones s.heater.claims.reverse amount
  have ho := shedPick_takes s.heater.zones s.heater.onOrder.reverse
    (amount - sharesOf s.heater.zones (shedPick s.heater.zones s.heater.claims.reverse amount))
  rw [List.reverse_reverse] at hc ho
  refine ⟨shedPick s.heater.zones s.heater.claims.reverse amount,
    shedPick s.heater.zones s.heater.onOrder.reverse (amount - sharesOf s.heater.zones
      (shedPick s.heater.zones s.heater.claims.reverse amount)), ?_⟩
  by_cases hn : amount = 0
  · subst hn
    have hz : ∀ l, shedPick s.heater.zones l 0 = [] := fun l => by cases l <;> rfl
    rw [hz] at hc
    rw [hz, Nat.zero_sub, hz] at ho
    rw [hz, Nat.zero_sub, hz]
    refine ⟨hc, ho, ?_, by simp [shed], by simp [shed], fun h => absurd h (by omega), rfl, rfl, rfl,
      rfl, ⟨rfl, rfl, rfl, rfl, rfl, rfl, rfl, rfl, rfl, rfl⟩⟩
    show s.heater.zones = _
    apply List.ext_getElem <;> simp
  · have q := shed_silent (.refl s) amount
    refine ⟨hc, ho, ?_, ?_, ?_, fun _ => ?_, q.loans, q.motion, q.axis, q.compact,
      ⟨q.pending, q.pins, q.seq, q.time, q.peers, q.lock, q.keepOut, q.sensor,
        congrArg _ q.wind, congrArg _ q.report⟩⟩
    all_goals
      unfold shed
      rw [if_neg (by simpa using hn)]
      dsimp only
    · rw [(heaterNotice_still (.refl _)).heater]
      apply List.ext_getElem
      · simp [State.withHeater, changeZones]
      · intro i _ _
        simp only [State.withHeater, changeZones, List.getElem_mapIdx]
        split
        · split <;> rfl
        · rfl
    · rw [(heaterNotice_still (.refl _)).heater]; rfl
    · rw [(heaterNotice_still (.refl _)).heater]; rfl
    · rw [heaterNotice_commit]
      unfold heaterCommitment zoneSum
      rw [(heaterNotice_still (.refl _)).heater]

end Sys2Proof.Machine
end

