-- ==== Sys2Proof/Laws/Instants.lean ====
section
/-! SUPPORT. What the taking of the instants that a step of the seconds reaches can do (R82). -/

namespace Sys2Proof.Machine

/-- Start-up, the pins, array time, the Peer Table, the Lockout Unit, the Keep-out Table, the cells,
the stow order, the kept queries and the queue of commands are as they were. -/
structure Timely (s t : State) : Prop where
  pending : t.pending = s.pending
  pins : t.pins = s.pins
  seq : t.seq = s.seq
  time : t.time = s.time
  peers : t.peers = s.peers
  lock : t.lock = s.lock
  keepOut : t.keepOut = s.keepOut
  cells : t.wind.cells = s.wind.cells
  named : t.wind.lastNamed = s.wind.lastNamed
  ordered : t.wind.ordered = s.wind.ordered
  kept : t.report.pending = s.report.pending
  flags : t.report.flags.length = s.report.flags.length

variable {s0 s t : State}

theorem Timely.refl (s : State) : Timely s s := by constructor <;> rfl

theorem Timely.trans {s t u : State} (h : Timely s t) (k : Timely t u) : Timely s u where
  pending := k.pending.trans h.pending
  pins := k.pins.trans h.pins
  seq := k.seq.trans h.seq
  time := k.time.trans h.time
  peers := k.peers.trans h.peers
  lock := k.lock.trans h.lock
  keepOut := k.keepOut.trans h.keepOut
  cells := k.cells.trans h.cells
  named := k.named.trans h.named
  ordered := k.ordered.trans h.ordered
  kept := k.kept.trans h.kept
  flags := k.flags.trans h.flags

theorem Keeps.timely (h : Keeps s t) : Timely s t where
  pending := h.pending
  pins := h.pins
  seq := h.seq
  time := h.time
  peers := h.peers
  lock := h.lock
  keepOut := h.keepOut
  cells := h.cells
  named := h.named
  ordered := h.ordered
  kept := h.kept
  flags := h.flags

theorem Quiet.timely (h : Quiet s t) : Timely s t := h.keeps.timely

theorem Timely.withSensor (s : State) (x : SensorUnit) : Timely s (s.withSensor x) := by
  constructor <;> rfl

theorem Timely.withHeater (s : State) (x : HeaterUnit) : Timely s (s.withHeater x) := by
  constructor <;> rfl

theorem Timely.withShare (s : State) (x : ShareUnit) : Timely s (s.withShare x) := by
  constructor <;> rfl

theorem heaterNotice_timely (s : State) : Timely s (heaterNotice s) :=
  (heaterNotice_quiet (.refl s)).timely

theorem settlePower_timely (b s : State) : Timely s (settlePower b s) :=
  (settlePower_quiet (.refl s) b).timely

theorem switchOne_timely (s : State) : Timely s (switchOne s) := by
  unfold switchOne
  split
  · exact .withHeater _ _
  · exact (Timely.withHeater _ _).trans (heaterNotice_timely _)

theorem windowOpen_timely (s : State) (zones : Nat) : Timely s (windowOpen s zones) := by
  unfold windowOpen
  split
  · exact (Timely.withHeater _ _).trans (switchOne_timely _)
  · exact .refl _

/-- An instant taken by its owner reaches no block but the Axis, Compact, Sensor, Heater, Share,
Line and Report Units. -/
theorem takeInstant_timely (s : State) (i : Instr) : Timely s (takeInstant s i) := by
  unfold takeInstant
  split
  · exact (startTime_keeps (.refl s) _).timely
  · exact (deadline_keeps (.refl s) _).timely
  · unfold scanInstant beginScan
    repeat' split
    all_goals first | exact .refl _ | exact .withSensor _ _
  · unfold boundaryReached selection
    repeat' split
    all_goals first
      | exact .refl _
      | exact ((Timely.withHeater _ _).trans (heaterNotice_timely _)).trans (settlePower_timely _ _)
  · unfold borrowedExpired
    repeat' split
    all_goals first
      | exact .refl _
      | exact (enqueueEntry_quiet (removeBorrowed_quiet (.refl s) _) _).timely
  · unfold lentExpired
    repeat' split
    all_goals first | exact .refl _ | exact .withShare _ _
  · unfold windowReached
    repeat' split
    all_goals first | exact .refl _ | exact (Timely.withShare _ _).trans (windowOpen_timely _ _)
  · unfold windowEnded
    repeat' split
    all_goals first | exact .refl _ | exact (claimFromNone_quiet (.refl s)).timely
  · exact .refl _

theorem takeInstants_timely (s : State) : Timely s (takeInstants s) := by
  unfold takeInstants
  generalize dueInstants s = l
  induction l generalizing s with
  | nil => exact .refl _
  | cons i l ih => exact (takeInstant_timely s i).trans (ih _)

theorem eq_of_mem_post {b : Bool} {i j : Instr} (h : i ∈ post b j) : i = j := by
  unfold post at h
  split at h
  · simpa using h
  · simp at h

/-- An instant that is reached is taken as the command of its event is (R82). -/
theorem takeInstant_exec {i : Instr} (h : i ∈ dueInstants s) (t : State) :
    exec i t = .next (takeInstant t i) := by
  unfold dueInstants at h
  simp only [List.mem_append] at h
  rcases h with (((h | h) | h) | h) | h
  · obtain ⟨r, _, h⟩ := List.mem_flatMap.mp h
    rcases List.mem_append.mp h with h | h <;> rw [eq_of_mem_post h] <;> rfl
  · rw [eq_of_mem_post h]; rfl
  · rw [eq_of_mem_post h]; rfl
  · obtain ⟨e, _, h⟩ := List.mem_flatMap.mp h
    rcases List.mem_append.mp h with h | h <;> rw [eq_of_mem_post h] <;> rfl
  · unfold dueWindow at h
    split at h
    · rcases List.mem_append.mp h with h | h <;> rw [eq_of_mem_post h] <;> rfl
    · rw [eq_of_mem_post h]; rfl
    · simp at h

end Sys2Proof.Machine
end

