-- ==== Sys2Proof/Laws/Outputs.lean ====
section
/-! SUPPORT. What the outputs read: the amplifier enables, the brakes and the contactors follow the
station state, the motion, the brakes released and the zones, and nothing else; and the short facts
of the small functions the statements name. -/

namespace Sys2Proof.Machine

/-! ### The outputs (R3, R152) -/

theorem amplifiersEnabled_of_halted {s : State} (h : s.axis.motion = .halted) :
    amplifiersEnabled s = false := by
  simp [amplifiersEnabled, h]

theorem amplifiersEnabled_of_motion {s : State} (h : s.axis.motion ≠ .halted) :
    amplifiersEnabled s = mayEnable s.seq := by
  simp [amplifiersEnabled, h]

theorem amplifiersEnabled_of_held {s : State} (h : s.seq.held = true) :
    amplifiersEnabled s = false := by
  simp [amplifiersEnabled, mayEnable, h]

@[simp] theorem brakeEngaged_az (s : State) : brakeEngaged s .az = !s.axis.releasedAz := rfl

@[simp] theorem brakeEngaged_el (s : State) : brakeEngaged s .el = !s.axis.releasedEl := rfl

/-- With neither brake released every brake is engaged. -/
theorem brakeEngaged_all {s : State} (hz : s.axis.releasedAz = false)
    (he : s.axis.releasedEl = false) (a : Axis) : brakeEngaged s a = true := by
  cases a <;> simp [hz, he]

/-- A contactor is energised exactly where its zone exists and is ON. -/
theorem contactor_iff {s : State} {i : Nat} :
    contactor s i = true ↔ ∃ z, s.heater.zones[i]? = some z ∧ z.state = .on := by
  unfold contactor
  cases h : s.heater.zones[i]? <;> simp

/-- With every zone OFF, as `zoneOff` leaves it, no contactor is energised. -/
theorem contactor_zoneOff {s : State} {zones : List Zone} {c : OffCause}
    (h : s.heater.zones = zones.map (zoneOff c)) (i : Nat) : contactor s i = false := by
  unfold contactor
  rw [h, List.getElem?_map]
  cases zones[i]? with
  | none => rfl
  | some z =>
    simp only [Option.map_some, zoneOff]
    split <;> simp_all

/-! ### Small functions -/

@[simp] theorem endIfNone_nil (n : Nat) : endIfNone [] n = 0 := rfl

@[simp] theorem endIfNone_cons (i : Nat) (l : List Nat) (n : Nat) : endIfNone (i :: l) n = n := rfl

/-- The sequence goes on exactly while a zone is claimed (R159). -/
theorem endIfNone_eq (l : List Nat) (n : Nat) : endIfNone l n = if l = [] then 0 else n := by
  cases l <;> simp

theorem leaveStands_reset (s : State) (id : Nat) : leaveStands s id reasonReset = true := by
  simp [leaveStands]

/-- A LEAVE of another reason stands exactly while its record does (R112). -/
theorem leaveStands_eq {s : State} {reason : Nat} (h : reason ≠ reasonReset) (id : Nat) :
    leaveStands s id reason = (findRecord s id).isSome := by
  have hr : (reason == reasonReset) = false := by simpa using h
  rw [leaveStands, findRecord, hr, Bool.false_or, Bool.eq_iff_iff, List.any_eq_true,
    List.find?_isSome]

/-- Of a WIND of cause SENSOR_FAULT another station's entry does not work (R137). -/
theorem windFaulted_other {s : State} {e : RosterEntry} (h : e.station ≠ s.seq.number) :
    windFaulted s e = { e with status := .faulted, working := false } := by
  simp [windFaulted, isOwnWind, h]

/-- The own entry follows the own sensor status (R138). -/
theorem windFaulted_own {s : State} {e : RosterEntry} (h : e.station = s.seq.number)
    (hc : isClash s = false) :
    windFaulted s e =
      { e with status := s.sensor.status, working := s.sensor.status != .faulted } := by
  simp [windFaulted, isOwnWind, h, hc]

end Sys2Proof.Machine
end

