-- ==== Sys2Proof/Tests/Slice0.lean ====
section
/-! SUPPORT. Tests: an ill-formed command for each check, the check of the line, one step of many
commands, and for each statement with hypotheses states that meet them. -/

namespace Sys2Proof.Tests

set_option maxRecDepth 100000
set_option Elab.async false

open Sys2Proof Sys2Proof.Machine

/-! ### Small states -/

/-- The bytes of a valid configuration record of station 16, before its check (11.2). -/
def recordBytes : List Byte :=
  ([3, 1, 2, 0, 1] : List Nat).map (BitVec.ofNat 8) ++ beInt 4 (-270000) ++ beInt 4 270000 ++
  beBytes 3 5000 ++ beBytes 3 90000 ++ beBytes 3 88000 ++ beBytes 2 3000 ++ beBytes 2 3000 ++
  beBytes 2 500 ++ beBytes 2 1500 ++ beBytes 2 2000 ++ beBytes 2 1000 ++ beBytes 3 30000 ++
  beBytes 2 10 ++ beInt 4 0 ++ beBytes 3 45000 ++ beBytes 1 1 ++
  (beBytes 1 17 ++ beBytes 2 800 ++ beBytes 2 1200 ++ beBytes 2 200) ++ List.replicate 35 0 ++
  beBytes 4 0x07030400 ++ beBytes 1 20 ++ beBytes 1 3 ++ beBytes 1 2 ++ beBytes 1 3 ++
  beBytes 4 0x66000000 ++ beBytes 2 300 ++ beBytes 2 600 ++ beBytes 1 1 ++ beBytes 2 1000 ++
  beBytes 1 5 ++ List.replicate 16 0 ++ beBytes 2 30 ++ beBytes 2 100 ++ beBytes 2 4000 ++
  beInt 2 (-200) ++ beInt 2 (-100) ++ beBytes 2 300 ++ beBytes 2 600 ++ beBytes 2 65535

/-- The record with its check. -/
def goodRecord : List Byte := recordBytes ++ beBytes 2 (crc recordBytes).toNat

/-- The items of that record. -/
def config : ConfigRecord where
  ownCell := 3
  followed := [2]
  sensor := true
  azLo := -270000
  azHi := 270000
  elLo := 5000
  elHi := 90000
  stowEl := 88000
  azMax := 3000
  elMax := 3000
  creep := 500
  watchCap := 1500
  coldCap := 2000
  decel := 1000
  legLength := 30000
  tolerance := 10
  azIndex := 0
  elIndex := 45000
  neighbours := [⟨17, 80000, 120000, 20000⟩]
  keyScopes := [⟨true, true, true⟩, ⟨true, true, false⟩, ⟨false, false, true⟩,
    ⟨false, false, false⟩]
  entitlement := 20
  axisShares := 3
  zoneCount := 2
  zoneEnable := 3
  zoneShares := [6, 6]
  heaterPeriod := 300
  loanTerm := 600
  scanInterval := 500
  anemoFactor := 1000
  filterWidth := 5
  calmSpeed := 100
  watchSpeed := 150
  stowSpeed := 200
  gustSpeed := 270
  watchConfirm := 2
  stowConfirm := 3
  calmTime := 600
  stowHold := 1200
  settleTime := 300
  disagreeLimit := 30
  refLo := 100
  refHi := 4000
  airLo := -200
  airHi := -100
  iceLo := 300
  iceHi := 600
  reportMask := 0xFFFF

/-- Station 16 after SAMPLE. -/
def loading : State := restarted State.reset .powerOn 0 ⟨16, false⟩ 0 0 [] FlagRecord.initial

/-- A PRESENT station with nothing recorded but its last frame. -/
def heardPeer (n : Nat) : PeerEntry := ⟨n, true, some ⟨1, 0⟩, 0, false, none, none⟩

/-- Station 16 in READY at 100 s, its keys open, with the dish 17 and the console 60 PRESENT. -/
def home : State :=
  { loading with
    seq := { loading.seq with station := .ready, config := some config }
    time := { TimeUnit.initial with sec := 100, ms := 600, watch := 600 }
    peers := ⟨[heardPeer 17, heardPeer 60], some 0, 4⟩
    axis := { AxisUnit.initial 0 45000 with refAz := true, refEl := true }
    lock :=
      { list := [], checkRun := none, pending := []
        keys := config.keyScopes.map fun m => ⟨.opened, 0, m⟩ }
    keepOut := [⟨17, 80000, 120000, 20000, false⟩]
    sensor := { SensorUnit.initial with latched := true, nextScan := 101000 }
    heater := { HeaterUnit.initial with
      zones := [⟨true, 6, .off, none, 0, none⟩, ⟨true, 6, .off, none, 0, none⟩]
      nextBoundary := some 300 } }

/-- The state a command leaves. -/
def after (i : Instr) (s : State) : State :=
  match exec i s with
  | .next t => t
  | _ => s

/-- The same station in another station state. -/
def inState (x : Station) : State := home.withSeq { home.seq with station := x }

/-- The station with a motion, a queue and a leg. -/
def moving (m : Motion) (q : List MoveEntry) (l : Option Leg) : State :=
  home.withAxis { home.axis with motion := m, queue := q, leg := l }

/-- A SOLO entry from the start position, after its first leg. -/
def soloEntry : MoveEntry := ⟨.solo, 20000, 45000, 3000, 3000, 0, 60, some ⟨0, 45000, 1, 1⟩⟩

/-- A leg of 20 degrees of azimuth. -/
def legOf (k : LegKind) (o : Origin) : Leg :=
  ⟨k, false, o, 0, 45000, 20000, 45000, true, false, 3000, 3000, 8000, ⟨99, 0⟩, 0⟩

/-- The station in a controlled stop. -/
def stopped (r : StopReason) (run : Nat) : State :=
  home.withAxis { home.axis with motion := .stopping, stop := some ⟨[r], run, 1⟩ }

/-- A record of compact 7 that console 60 called, with the members 16 and 17. -/
def record (st : CompactState) (own other : MemberState) (holds : List Nat) : CompactRecord :=
  ⟨7, 60, false, 20000, 45000, 20000, ⟨100, 0⟩, ⟨100, 500⟩, st, [⟨16, own⟩, ⟨17, other⟩], holds,
    none, if st = .complete ∨ st = .timedOut then some ⟨100, 0⟩ else none, 0, false⟩

/-- The station with that record. -/
def withRecord (r : CompactRecord) : State := home.withCompact { home.compact with list := [r] }

/-- The station with one frame in its queue. -/
def queued (f : Frame) (started : Bool) : State :=
  home.withLine { LineUnit.initial with
    queue := [{ TxEntry.fresh f with age := 5, started := started }], nextAge := 6 }

/-- The station with one frame in its queue whose attempt is in progress. -/
def sending (f : Frame) : State :=
  (queued f true).withLine { (queued f true).line with sending := some 5 }

/-- The station with one loan with dish 17. -/
def lending (e : Loan) : State := home.withShare { home.share with loans := [e] }

/-- The station with a cell's record replaced. -/
def withCell (c : Nat) (x : Cell) : State :=
  home.withWind { home.wind with cells := home.wind.cells.set c x }

/-- A cell with one working entry, of dish 17. -/
def cellWith (st : CellState) (level : Level) (hold settle : Nat) : Cell :=
  ⟨st, if st = .stow ∨ st = .settle then some .speed else none, none, hold,
    if st = .settle then some ⟨1, 0⟩ else none, settle, [⟨17, some level, .ok, true⟩]⟩

/-- The BEACON of a dish that stands at 100 s. -/
def beacon : BeaconPayload :=
  ⟨100, 0, false, 1, false, 1, 0, 0, false, 3, 0, false, false, 0, 0, 45000, Scope.none, 0, 0, 4⟩

/-- A CALL to the members 16 and 17. -/
def callTo : CallPayload := ⟨7, 0, 0x30000, 20000, 45000, ⟨200, 0⟩, ⟨300, 0⟩⟩

theorem known60 : KnownConsole home 60 := by
  unfold KnownConsole Known
  decide

theorem known17 : KnownDish home 17 := by
  unfold KnownDish Known
  decide

/-! ### Well-formedness: one command that each check refuses -/

theorem test_wf_sender : (Instr.hold 0 7).wf = false ∧ (Instr.hold 64 7).wf = false := by decide
theorem test_wf_byte : (Instr.shareAsk 17 256).wf = false := by decide
theorem test_wf_word : (Instr.hold 17 65536).wf = false := by decide
theorem test_wf_triple : (Instr.movePoint 60 16 0 0 16777216 0).wf = false := by decide
theorem test_wf_quad : (Instr.shareGrant 17 16 1 4294967296).wf = false := by decide
theorem test_wf_signed : (Instr.arrive 17 7 2147483648 0).wf = false := by decide
theorem test_wf_elevation : (Instr.arrive 17 7 0 (-1)).wf = false := by decide
theorem test_wf_time : (Instr.inrush 17 ⟨0, 65536⟩ 1).wf = false := by decide
theorem test_wf_straps : (Instr.powerOn ⟨64, false⟩).wf = false := by decide
theorem test_wf_key : (Instr.keyClosingCountEnd 5).wf = false := by decide
theorem test_wf_cell : (Instr.settleExpiry 8).wf = false := by decide
theorem test_wf_zone : (Instr.dutyEnd 8).wf = false := by decide
theorem test_wf_peer : (Instr.peerAbsent 64).wf = false := by decide
theorem test_wf_record : (Instr.loadAttemptComplete true []).wf = false ∧
    (Instr.loadBusTimeout (List.replicate 144 0)).wf = false := by decide
theorem test_wf_beacon : (Instr.beaconReceived 17 { beacon with startCause := 8 }).wf = false := by
  decide
theorem test_wf_call : (Instr.call 60 { callTo with mode := 256 }).wf = false := by decide
theorem test_wf_query : (Instr.queryPeer 60 256 17).wf = false := by decide
theorem test_wf_scope : (Instr.resetAll 60 16 2 ⟨16, false⟩).wf = false := by decide
theorem test_wf_purpose : (Instr.movePoint 60 16 1 0 0 0).wf = false := by decide
theorem test_wf_item : (Instr.queryIdent 60 16 14 0).wf = false := by decide

/-! ### The check, the frames and the record -/

theorem test_crc : crc [0x31, 0x32, 0x33, 0x34, 0x35, 0x36, 0x37, 0x38, 0x39] = 0x29B1 := by decide +kernel

theorem test_record : goodRecord.length = 143 ∧ recordCheck goodRecord = true ∧
    validate goodRecord 16 = none ∧ recordOf goodRecord = { config with
      neighbours := [⟨17, 80000, 120000, 20000⟩] } := by decide +kernel

/-- A HOLD of station 17 for compact 7: class COORD, kind 8, two bytes. -/
theorem test_frame_hold : frameCommand ⟨16, false⟩ ⟨0, 0⟩
    ⟨[0x51, 0x08, 0x02, 0x00, 0x07] ++ beBytes 2 (crc [0x51, 0x08, 0x02, 0x00, 0x07]).toNat,
      false⟩ = some (.hold 17 7) := by decide +kernel

/-- A LOCK_SET of console 60 to station 16, token 0x1234, scope AZ and HEAT: class SAFETY. -/
theorem test_frame_lockSet : frameCommand ⟨16, false⟩ ⟨0, 0⟩
    ⟨[0x3C, 0x04, 0x04, 0x10, 0x12, 0x34, 0x05] ++
      beBytes 2 (crc [0x3C, 0x04, 0x04, 0x10, 0x12, 0x34, 0x05]).toNat, false⟩ =
    some (.lockSet 60 16 0x1234 ⟨true, false, true⟩) := by decide +kernel

/-! ### States that meet the hypotheses of the statements: queue, time, start-up -/

/-- A queue of one frame for each of some slots, in order of age. -/
def slots (lo : Nat) (l : List Frame) : LineUnit :=
  { LineUnit.initial with
    queue := l.mapIdx fun i f => { TxEntry.fresh f with slot := lo + i, age := i }
    nextAge := 20 }

theorem witness_StepRunsTheFrontCommand :
    (home.withPending [.secondPulse]).pending = [.secondPulse] ∧
      step (home.withPending [.secondPulse]) = exec .secondPulse home := ⟨rfl, rfl⟩

theorem witness_EmptyQueueCountsAMillisecond :
    (State.reset.pending = [] ∧ State.reset.seq.held = true) ∧
    (∀ t ∈ [TimeUnit.mk 5 0 0 7 true false, ⟨5, 998, 0, 1500, false, false⟩, ⟨5, 999, 0, 0, false,
        false⟩, ⟨5, 400, 1, 0, false, true⟩, ⟨lastSecond, 999, 0, 0, false, false⟩],
      (loading.withTime t).pending = [] ∧ (loading.withTime t).seq.held = false ∧
        dueInstants (loading.withTime t) = []) ∧
    (home.withSensor { home.sensor with nextScan := 100600 }).pending = [] ∧
    dueInstants (home.withSensor { home.sensor with nextScan := 100600 }) ≠ [] := by
  decide +kernel

theorem inv_home : Inv home := by
  constructor <;> decide +kernel

theorem witness_EveryStepKeepsTheInvariant :
    Inv (home.withPending [.hold 17 7]) ∧ (Instr.hold 17 7).wf = true ∧
      isRestart (.hold 17 7) = false ∧ ∃ t, step (home.withPending [.hold 17 7]) = .next t := by
  refine ⟨?_, by decide, by decide, _, rfl⟩
  constructor <;> decide +kernel

theorem witness_ThePulseAlignsAndTimeNeverDecreases :
    home.seq.held = false ∧ 500 ≤ home.time.ms ∧ home.time.sec < lastSecond ∧
    (after .secondPulse home).time.sec = 101 ∧
    (∀ ms ∈ [0, 499], nowMs (after .secondPulse (home.withTime { home.time with ms := ms })) =
      100000 + ms) := by decide +kernel

theorem witness_TheTimeSourceIsWatched :
    home.report.flags.length = 16 ∧ home.pins.refclk = true ∧ home.seq.held = false ∧
    (∃ t : TimeUnit, t.holding = true ∧ t.hold = 0) ∧
    (∃ t : TimeUnit, 1500 ≤ t.watch ∧ t.free = false) ∧
    (after .pulseWatchExpiry (home.withTime { home.time with watch := 1500 })).time.free = true :=
  ⟨by decide, by decide, by decide, ⟨⟨0, 0, 0, 0, false, true⟩, by decide⟩,
    ⟨⟨0, 0, 0, 1500, false, false⟩, by decide⟩, by decide +kernel⟩

theorem witness_RestartsBeginAnew :
    home.seq.supplyLost = false ∧
    (after (.resetHold true) home).seq.supplyLost = true ∧
    (after (.powerOn ⟨0, false⟩) home).seq.station = .faulted .number ∧
    (after (.pinReset ⟨59, false⟩) home).axis.posEl = 45000 := by decide +kernel

theorem witness_RemoteAllResetRestarts : KnownConsole home 60 ∧ home.seq.number = 16 ∧
    (after (.resetAll 60 16 1 ⟨16, false⟩) home).seq.remoteSender = 60 :=
  ⟨known60, by decide +kernel⟩

/-- Station 17, whose own record would name it as its neighbour, after two failed attempts. -/
def thirdTry : State := loading.withSeq { loading.seq with number := 17, failedAttempts := 2 }

theorem witness_LoadFailures :
    (loading.seq.held = false ∧ loading.seq.station = .load ∧ loading.seq.pauseRun = none ∧
      loading.seq.failedAttempts + 1 < 3) ∧
    recordCheck (List.replicate 143 0) = false ∧
    (thirdTry.seq.held = false ∧ thirdTry.seq.station = .load ∧ thirdTry.seq.pauseRun = none ∧
      thirdTry.seq.failedAttempts = 2 ∧ goodRecord.length = 143 ∧
      recordCheck goodRecord = true ∧ validate goodRecord thirdTry.seq.number = some 47) ∧
    (after (.loadBusTimeout []) loading).seq.pauseRun = some 0 ∧
    (after (.loadBusTimeout []) thirdTry).seq.station = .faulted .config := by decide +kernel

theorem witness_LoadFailures_beacon :
    (thirdTry.line.queue = [] ∧ ∀ n, n < 16 → flagOn thirdTry n = false) ∧
    (after (.loadAttemptComplete true goodRecord) thirdTry).line.queue.map (·.started) = [false] :=
  by decide +kernel

/-- LOAD with every key's CHECKING entry and a remote lockout: the entries take the configured
scopes, and that of the unused key leaves. -/
theorem witness_LoadSuccessEntersSelfcheck_keys :
    (after (.loadAttemptComplete true goodRecord) (loading.withLock (LockUnit.initial
      [⟨.remote 5 60, Scope.dish, ⟨1, 0⟩⟩]))).lock.list.map (fun e => (e.holder, e.scope)) =
      [(.remote 5 60, Scope.dish), (.key 1, ⟨true, true, true⟩), (.key 2, ⟨true, true, false⟩),
        (.key 3, ⟨false, false, true⟩)] ∧
    (after (.loadAttemptComplete true goodRecord) loading).lock.keys.map (·.scope) =
      config.keyScopes := by decide +kernel

theorem witness_LoadSuccessEntersSelfcheck :
    loading.seq.held = false ∧ loading.seq.station = .load ∧ loading.seq.pauseRun = none ∧
    goodRecord.length = 143 ∧ recordCheck goodRecord = true ∧
    validate goodRecord loading.seq.number = none ∧
    (after (.loadAttemptComplete true goodRecord) loading).seq.station = .selfcheck := by
  decide +kernel

/-- The station at the end of LISTEN. -/
def listened : State := home.withSeq { home.seq with station := .listen, listenRun := 1500 }

theorem witness_ListenEndsInReady :
    listened.seq.station = .listen ∧ 1500 ≤ listened.seq.listenRun ∧
    (after .listenEnd listened).line.queue.map (·.frame) ≠ [] := by decide +kernel

/-! ### The line -/

/-- Eight general slots in use, the oldest frame one that may be displaced. -/
def fullOfReplies : LineUnit := slots 0 (.shareAsk 1 :: List.replicate 7 (.reply 7 0 0))

/-- Eight general slots in use by frames that may not be displaced. -/
def fullForGood : LineUnit := slots 0 (List.replicate 8 (.reply 7 0 0))

/-- All twelve slots in use, the general ones by some frames, started or not. -/
def allFull (general : List (Frame × Bool)) : LineUnit where
  queue := general.mapIdx (fun i f =>
      { TxEntry.fresh f.1 with slot := i, age := i, started := f.2 }) ++
    (List.range 4).map fun i => { TxEntry.fresh (.event i 1 ⟨0, 0⟩) with slot := 8 + i, age := 8 + i }
  nextAge := 12
  sending := if (general.head?.map (·.2)) == some true then some 0 else none
  txErrors := 0
  quiet := false
  quietRun := 0
  vetoCount := 0
  passive := false

/-- Seven started replies and one other frame. -/
def sevenStarted (f : Frame × Bool) : LineUnit :=
  allFull (List.replicate 7 (.reply 7 0 0, true) ++ [f])

/-- Four reserved slots in use. -/
def reservedFull : LineUnit := slots 8 ((List.range 4).map fun n => .event n 1 ⟨0, 0⟩)

theorem witness_QueueingPlacesAFrame :
    (transmits home = true ∧ LineOk home.line ∧ LineOk fullOfReplies ∧ LineOk fullForGood ∧
      LineOk reservedFull) ∧
    ((queued (.wind 3 2 200 0) false).line.groupMate (.wind 3 2 300 1)).isSome = true ∧
    ((home.line.groupMate (.reply 7 0 0)).isNone = true ∧
      freeSlot home.line.queue 0 8 = some 0) ∧
    (freeSlot fullOfReplies.queue 0 8 = none ∧
      (fullOfReplies.queue.find? isDisplaceable).isSome = true) ∧
    (freeSlot fullForGood.queue 0 8 = none ∧
      (fullForGood.queue.find? isDisplaceable).isNone = true) ∧
    ((home.line.groupMate (.event 1 1 ⟨0, 0⟩)).isNone = true ∧
      freeSlot home.line.queue 8 4 = some 8) ∧
    freeSlot reservedFull.queue 8 4 = none ∧ freeSlot reservedFull.queue 0 8 = some 0 :=
  ⟨⟨by decide, by decide, by decide, by decide, by decide⟩, by decide +kernel⟩

/-- The station with a grant of 2 to dish 17 in its queue. -/
def granting : State :=
  home.withLine { LineUnit.initial with
    queue := [{ TxEntry.fresh (.shareGrant 17 2 0) with stillWanted := 4 }], nextAge := 1 }

theorem witness_QueueingPlacesAFrame_full :
    (∀ x ∈ [((Frame.shareAsk 1, false), 7), ((.answer 60 1 0 1 none, false), 7),
        ((.inrush ⟨0, 0⟩ 1, false), 7), ((.shareAsk 1, true), 7), ((.reply 7 0 0, true), 1)],
      (sevenStarted x.1).victim.map (·.slot) = some x.2 ∧
      freeSlot (sevenStarted x.1).queue 8 4 = none ∧
      freeSlot (sevenStarted x.1).queue 0 8 = none ∧
      (sevenStarted x.1).groupMate (.wind 3 0 0 0) = none ∧
      ((enqueue (home.withLine (sevenStarted x.1)) (.wind 3 0 0 0)).line.queue.map
        fun e => (e.slot, e.age)).getLast? = some (x.2, 12)) ∧
    LineOk (sevenStarted (.shareAsk 1, false)) ∧ LineOk (sevenStarted (.reply 7 0 0, true)) ∧
    (enqueue ((home.withLine (sevenStarted (.inrush ⟨0, 0⟩ 1, false))).withShare { home.share with
      claim := .queued, claimCount := 1 }) (.wind 3 0 0 0)).share.claim = .none :=
  ⟨by decide +kernel, by decide +kernel, by decide +kernel, by decide +kernel⟩

theorem witness_HandOverStartsTheFirstFrame :
    (∀ f ∈ [Frame.hold 7, .beacon beacon], LineOk (queued f true).line ∧
      mayHandOver (queued f true) = true ∧
      (firstInOrder (queued f true).line.queue).map (·.started) = some true) ∧
    (LineOk granting.line ∧ mayHandOver granting = true ∧
      (firstInOrder granting.line.queue).map (·.frame) = some (.shareGrant 17 2 0) ∧
      mayGrant granting 17 = true ∧ isPresent granting 17 = true ∧
      min 2 (min 4 (spareShares granting)) = 2) ∧
    (home.withShare { home.share with claimCount := 1 }).share.claimCount ≠ 0 ∧
    (after (.handOver ⟨5, 6⟩) granting).line.sending = some 0 := by decide +kernel

theorem witness_AttemptsEnd :
    ((sendingEntry (sending (.reply 7 0 0))).map fun e => isPlain e.frame) = some true ∧
    (∀ b ∈ [beacon, { beacon with startFlag := true }],
      (sendingEntry (sending (.beacon b))).map (·.frame) = some (.beacon b)) ∧
    (after .attemptSucceeds (sending (.reply 7 0 0))).line.queue = [] ∧
    (after .arbitrationLost (sending (.reply 7 0 0))).line.queue ≠ [] := by decide +kernel

/-- The station with one frame in transmission after some failed attempts and errors. -/
def failing (f : Frame) (attempts errors : Nat) : State :=
  home.withLine { LineUnit.initial with
    queue := [{ TxEntry.fresh f with age := 5, started := true, attempts := attempts }]
    nextAge := 6, sending := some 5, txErrors := errors }

theorem witness_AFailedAttemptIsCounted :
    ((sendingEntry (failing (.wind 3 0 0 0) 7 62)).map fun e => frameClass e.frame) =
      some .safety ∧
    ((sendingEntry (failing (.hold 7) 6 63)).map (·.attempts)) = some 6 ∧
    (failing (.hold 7) 6 63).line.quiet = false ∧
    (failing (.hold 7) 6 63).report.flags.length = 16 ∧
    ((sendingEntry (failing (.answer 60 1 0 1 none) 7 62)).map fun e =>
      isAnswer e.frame && decide (8 ≤ e.attempts + 1)) = some true ∧
    (after .failedAttempt (failing (.hold 7) 6 63)).line.quiet = true ∧
    (after .quietEnd (home.withLine { LineUnit.initial with
      quiet := true, quietRun := 2000, txErrors := 64 })).line.txErrors = 32 := by decide +kernel

theorem witness_AFailedAttemptIsCounted_quiet :
    (after .quietEnd (home.withLine { LineUnit.initial with
      quiet := true, quietRun := 1999, txErrors := 64 })).line.quiet = true ∧
    (after (.handOver ⟨0, 0⟩) ((queued (.hold 7) false).withLine
      { (queued (.hold 7) false).line with quiet := true })).line.sending = none ∧
    (∀ x ∈ [(Frame.answer 60 1 0 1 none, []), (.hold 7, [Frame.hold 7])], ∀ t ∈
        [after .failedAttempt (failing x.1 7 63)],
      t.line.quiet = true ∧ t.line.txErrors = 64 ∧ t.line.sending = none ∧
      t.line.queue.map (·.frame) = x.2 ++ [.event flagLineFault 2 ⟨100, 600⟩] ∧
      flagRecord t flagLineFault = ⟨true, 2, 0, ⟨100, 600⟩⟩) ∧
    (failing (.hold 7) 7 63).line.quiet = false ∧
    (failing (.hold 7) 7 63).report.flags.length = 16 := by decide +kernel

theorem witness_VetoesAreCounted :
    vetoes home = true ∧ formatFault ⟨[], false⟩ = true ∧ home.line.passive = false ∧
    home.line.vetoCount + 1 < 8 ∧ home.report.flags.length = 16 ∧ receives home = true ∧
    vetoes loading = false ∧
    (after (.frameVetoed ⟨[], false⟩) (home.withLine { home.line with vetoCount := 7 })).line.passive
      = true ∧
    (after (.cleanFrameVetoedElsewhere 17) (home.withLine { home.line with
      vetoCount := 8, passive := true })).line.passive = false := by decide +kernel

theorem witness_FramesCarryTheirCommands :
    ∀ i ∈ [Instr.arrive 63 65535 (-270000) 90000, .clear 60 16 0xFFFF, .beaconReceived 1 beacon,
        .queryIdent 60 255 255 255, .call 60 callTo],
      i.wf = true ∧ (commandFrame i).isSome = true ∧
        (commandFrame i).bind (frameCommand ⟨16, false⟩ ⟨0, 0⟩) = some i := by decide +kernel

theorem witness_FramesRecordTheirSender :
    Known home 17 ∧
    ((receives home = true ∧ (18 : Nat) ≠ home.seq.number) ∧ PeersOk home.peers ∧
      isPresent home 18 = false ∧ (framePayload (.hold 18 7)).map (·.1) = some 18) ∧
    receives loading = false ∧ (after (.eventReceived 18) home).peers.table.length = 3 :=
  ⟨known17.1, by decide +kernel⟩

theorem witness_TheOwnNumberOnTheLineIsAClash :
    (home.seq.station = .ready ∧ home.seq.held = false ∧ 1 ≤ home.seq.number ∧
      home.seq.number ≤ 59) ∧
    (framePayload (.hold 16 7)).map (·.1) = some home.seq.number ∧
    (after (.answerReceived 16) home).seq.station = .faulted .clash := by decide +kernel

theorem witness_ABeaconIsRecorded :
    Known home 17 ∧ Known home 60 ∧ beaconDefined beacon = true ∧
    beaconDefined { beacon with ms := 999, spare := 63 } = true ∧
    beaconDefined { beacon with ms := 1000 } = false ∧
    (after (.beaconReceived 17 { beacon with sec := 101 }) home).time.sec = 101 :=
  ⟨known17.1, known60.1, by decide +kernel⟩

theorem witness_ALockNoticeIsRecorded :
    Known home 17 ∧ Known home 60 ∧ isConsole 60 = true ∧
    (after (.lockNoticeReceived 17 ⟨false, true, false⟩ 8 4 4) home).keepOut.map (·.inForce) =
      [true] ∧
    (after (.lockNoticeReceived 17 ⟨false, true, false⟩ 9 4 4) home).keepOut.map (·.inForce) =
      [false] := ⟨known17.1, known60.1, by decide +kernel⟩

/-- The station at a time when dish 17 has been silent for 1500 ms. -/
def silent : State :=
  home.withPeers ⟨[{ heardPeer 17 with silence := 1500 }, heardPeer 60], some 250, 4⟩

theorem witness_PresenceAndBeaconsAreTimed :
    (PeersOk silent.peers ∧ LoansOk silent.share ∧ (peerEntry silent 17).present = true ∧
      1500 ≤ (peerEntry silent 17).silence) ∧
    (silent.peers.beaconRun = some 250 ∧ transmits silent = true) ∧
    (peerEntry (after (.peerAbsent 17) silent) 17).present = false ∧
    (after (.beaconInterval ⟨1, 2⟩) silent).axis.posEl = 2 := by decide +kernel

/-! ### Lockouts, keys, the Report Unit -/

/-- A remote entry of console 60. -/
def remoteEntry (token : Nat) (m : Scope) : LockEntry := ⟨.remote token 60, m, ⟨1, 0⟩⟩

/-- The station with some lockout entries. -/
def lockedBy (l : List LockEntry) : State := home.withLock { home.lock with list := l }

/-- The station with one key in a state after a run. -/
def keyIn (k : Nat) (st : KeyState) (run : Nat) : State :=
  home.withLock { home.lock with
    keys := home.lock.keys.modify (k - 1) fun m => { m with state := st, run := run } }

theorem known60_of {s : State} (h : receives s = true) (hn : s.seq.number = home.seq.number)
    (hp : s.peers = home.peers) : KnownConsole s 60 := by
  obtain ⟨⟨_, h1, h2, h3, h4, h5⟩, h6⟩ := known60
  refine ⟨⟨h, h1, h2, by rw [hn]; exact h3, ?_, by rw [hp]; exact h5⟩, h6⟩
  unfold isPresent at *
  rw [hp]
  exact h4

theorem known17_of {s : State} (h : receives s = true) (hn : s.seq.number = home.seq.number)
    (hp : s.peers = home.peers) : KnownDish s 17 := by
  obtain ⟨⟨_, h1, h2, h3, h4, h5⟩, h6⟩ := known17
  refine ⟨⟨h, h1, h2, by rw [hn]; exact h3, ?_, by rw [hp]; exact h5⟩, h6⟩
  unfold isPresent at *
  rw [hp]
  exact h4

theorem witness_RemoteLocksAreSetAndCleared :
    (∀ l, Known (lockedBy l) 60 ∧ Known (lockedBy l) 17) ∧ Known (inState .listen) 60 ∧
    (scopeEmpty Scope.none = true ∧ scopeEmpty Scope.dish = false) ∧
    (lockedBy [remoteEntry 5 Scope.dish]).lock.list.any (hasToken 5) = true ∧
    ((lockedBy (([1, 2, 3, 4] : List Nat).map fun t => remoteEntry t Scope.dish)).lock.list.any
        (hasToken 5) = false ∧
      4 ≤ ((lockedBy (([1, 2, 3, 4] : List Nat).map fun t =>
        remoteEntry t Scope.dish)).lock.list.filter isRemote).length) ∧
    scopeUnion (lockMask (lockedBy [remoteEntry 5 Scope.dish])) Scope.dish =
      lockMask (lockedBy [remoteEntry 5 Scope.dish]) ∧
    (after (.lockSet 60 16 6 Scope.dish) (moving .leg [soloEntry] (some (legOf .normal .solo)))
      ).axis.motion = .stopping ∧
    (after (.lockClear 60 16 5) (lockedBy [remoteEntry 5 Scope.dish])).lock.list = [] :=
  ⟨fun _ => ⟨(known60_of (by decide) rfl rfl).1, (known17_of (by decide) rfl rfl).1⟩,
    (known60_of (by decide) rfl rfl).1, by decide +kernel⟩

theorem witness_KeysAreDebounced :
    home.seq.held = false ∧ keyReading home 1 = false ∧ keyReading home 4 ≠ true ∧
    (∀ x ∈ [(KeyState.opened, false), (.closing, true), (.closed, true), (.opening, false),
        (.checking, false)], ∃ y, (keyMachine (keyIn 4 x.1 0) 4).state = x.1 ∧
      keyReading ((keyIn 4 x.1 0).withPins { home.pins with
        keys := home.pins.keys.set 3 x.2 }) 4 ≠ y) ∧
    (∀ k ∈ [1, 4], home.lock.keys.length = 4 ∧
      (keyMachine (keyIn k .closing 50) k).state = .closing ∧
      50 ≤ (keyMachine (keyIn k .closing 50) k).run ∧
      (keyMachine (keyIn k .opening 500) k).state = .opening ∧
      500 ≤ (keyMachine (keyIn k .opening 500) k).run) ∧
    (after (.keyClosingCountEnd 1) (keyIn 1 .closing 50)).lock.list.map (·.scope) =
      [⟨true, true, true⟩] ∧
    (after (.keyClosingCountEnd 4) (keyIn 4 .closing 50)).lock.list = [] := by
  refine ⟨by decide, by decide, by decide, ?_, by decide +kernel, by decide +kernel,
    by decide +kernel⟩
  intro x hx
  exact ⟨!x.2, by revert x; decide +kernel⟩

/-- The station 500 ms after LOAD, one key closed. -/
def checked : State :=
  (home.withLock { LockUnit.initial [] with checkRun := some 500 }).withPins
    { home.pins with keys := [true, false, false, false] }

theorem witness_CheckingEndsByTheReadings :
    checked.lock.checkRun = some 500 ∧ checked.lock.keys.length = 4 ∧
    (∀ m ∈ checked.lock.keys, m.state = .checking) ∧
    (after .keyCheckingEnd checked).lock.list.map (·.holder) = [.key 1] := by decide +kernel

theorem witness_QueriesAreAnswered :
    (∀ st ∈ [Station.ready, .faulted .config, .listen], KnownConsole (inState st) 60) ∧
    (∀ st ∈ [Station.ready, .faulted .config], ∀ index ∈ [0, 255],
      (after (.queryPeer 60 16 index) (inState st)).line.queue.length = 1 ∧
      (after (.queryMelt 60 16 index) (inState st)).line.queue.length = 1 ∧
      (after (.queryDish 60 16 index ⟨7, 8⟩) (inState st)).axis.posAz = 7) ∧
    (after (.queryLocks 60 16 0) (inState .listen)).report.pending.length = 1 ∧
    (after (.queryLocks 60 17 0) home).line.queue = [] := by
  refine ⟨fun st h => known60_of ?_ rfl rfl, by decide +kernel⟩
  revert st
  decide

/-- The station with a FREE time source and TIME_FREERUN set. -/
def freerunning : State :=
  (home.withTime { home.time with free := true }).withReport { home.report with
    flags := home.report.flags.set 13 ⟨true, 1, 0, ⟨1, 0⟩⟩ }

theorem witness_ClearClearsTheNamedFlags :
    KnownConsole freerunning 60 ∧ freerunning.report.flags.length = 16 ∧
    freerunning.seq.station = .ready ∧ (persisting (frameRead freerunning 60) 13).isSome = true ∧
    (0x2000 : BitVec 16).getLsbD 13 = true ∧ (0x2000 : BitVec 16).getLsbD 0 = false ∧
    KnownConsole (inState .listen) 60 ∧ (inState .listen).report.pending.length < 4 ∧
    (flagRecord (after (.clear 60 16 0x2000) freerunning) 13).time = ⟨100, 600⟩ :=
  ⟨known60_of (by decide) rfl rfl, by decide, by decide, by decide, by decide, by decide,
    known60_of (by decide) rfl rfl, by decide, by decide +kernel⟩

/-- A CLEAR of a flag whose condition does not persist, and one in FAULTED of kind CLASH. -/
theorem witness_ClearClearsTheNamedFlags_answer :
    persisting (frameRead home 60) 1 = none ∧
    (after (.clear 60 16 2) home).line.queue.map (·.frame) = [.answer 60 2 2 0 none] ∧
    KnownConsole (inState (.faulted .clash)) 60 ∧
    (after (.clear 60 16 2) (inState (.faulted .clash))).line.queue = [] :=
  ⟨by decide +kernel, by decide +kernel, known60_of (by decide) rfl rfl, by decide +kernel⟩

/-! ### The axes -/

theorem witness_MovesAreJudged :
    KnownConsole home 60 ∧ home.seq.station = .ready ∧
    moveOutcome home 60 .point 20000 45000 0 = 0 ∧ moveOutcome home 60 .point 270001 45000 0 = 10 ∧
    moveOutcome home 60 .referenceAz 0 0 0 = 0 ∧
    moveOutcome home 60 .referenceEl 0 0 0 = 0 ∧
    (after (.movePoint 60 16 0 20000 45000 0) home).axis.motion = .leg ∧
    (after (.movePoint 60 16 0 20000 45000 0) (moving .gap [soloEntry] none)).axis.queue.length = 2 ∧
    KnownConsole (inState (.faulted .config)) 60 ∧ KnownConsole (inState .listen) 60 :=
  ⟨known60, by decide, by decide +kernel, by decide +kernel, by decide +kernel, by decide +kernel,
    by decide +kernel, by decide +kernel, known60_of (by decide) rfl rfl,
    known60_of (by decide) rfl rfl⟩

theorem witness_MovesAreJudged_undefined :
    (after (.movePoint 60 16 3 20000 45000 0) home).line.queue.map (·.frame) =
      [.answer 60 3 3 10 none] ∧
    KnownConsole (inState (.faulted .clash)) 60 ∧
    ∀ i ∈ [Instr.movePoint 60 16 3 0 45000 0, .moveReferenceAz 60 16, .moveReferenceEl 60 16],
      (after i (inState (.faulted .config))).line.queue.length = 1 ∧
      (after i (inState .listen)).axis.pendingAnswers.length = 1 ∧
      (after i (inState (.faulted .clash))).line.queue = [] :=
  ⟨by decide +kernel, known60_of (by decide) rfl rfl, by decide +kernel⟩

/-- The station in a gap, with a queue. -/
def inGap (run : Nat) (q : List MoveEntry) : State :=
  home.withAxis { home.axis with motion := .gap, gapRun := run, queue := q, releasedAz := true }

/-- An entry no leg of which has been flown. -/
def freshEntry : MoveEntry := { soloEntry with plan := none }

theorem witness_AGapEndsInTheNextLeg :
    ((inGap 100 []).axis.motion = .gap ∧ (inGap 100 []).seq.station = .ready ∧
      100 ≤ (inGap 100 []).axis.gapRun ∧ (inGap 100 []).axis.queue = []) ∧
    ((inGap 100 [freshEntry]).axis.stowMark = false ∧ windHolds (inGap 100 [freshEntry]) = false ∧
      freshEntry.origin = .solo ∧ (planOf (inGap 100 [freshEntry]) freshEntry).count ≠ 0 ∧
      (lockMask (inGap 100 [freshEntry])).az = false ∧
      sweepTest (inGap 100 [freshEntry]) (legSweep (inGap 100 [freshEntry])
        (nextLeg (inGap 100 [freshEntry]) freshEntry
          (planOf (inGap 100 [freshEntry]) freshEntry))) = []) ∧
    2000 ≤ (inGap 2000 []).axis.gapRun ∧
    (after .gapMinimumEnd (inGap 100 [freshEntry])).share.motion = 3 := by decide +kernel

/-- The stow leg in flight, the mark set. -/
def stowFlight : State :=
  home.withAxis { home.axis with
    motion := .stowing, stowMark := true, releasedEl := true
    queue := [⟨.stow, 0, 88000, 0, 3000, 0, 0, none⟩]
    leg := some { legOf .stow .stow with
      targetAz := 0, targetEl := 88000, movesAz := false, movesEl := true } }

theorem witness_LegsEnd :
    (∀ e ∈ [soloEntry, { soloEntry with plan := some ⟨0, 45000, 1, 2⟩ }],
      (moving .leg [e] (some (legOf .normal .solo))).axis.leg = some (legOf .normal .solo) ∧
      e.origin = .solo ∧ (moving .leg [e] (some (legOf .normal .solo))).axis.jointHeld = false ∧
      (after (.legEnd ⟨20010, 44990⟩) (moving .leg [e] (some (legOf .normal .solo)))).axis.motion =
        .gap) ∧
    ((home.seq.config.getD ConfigRecord.blank).tolerance < ((20011 : Int) - 20000).natAbs) ∧
    (after (.legEnd ⟨20011, 45000⟩) (moving .leg [soloEntry] (some (legOf .normal .solo)))).axis.motion
      = .leg ∧
    (stowFlight.axis.leg.map (·.kind)) = some .stow ∧
    (after (.legEnd ⟨0, 88000⟩) stowFlight).axis.motion = .stowed ∧
    (unreferencedStow (moving .stowing [] (some (legOf .stowUnreferenced .stow))) = true ∧
      home.seq.held = false ∧ home.pins.elUpper = false ∧ home.pins.elLower = false) := by
  decide +kernel

/-- A search of an axis in flight. -/
def searchOf (k : LegKind) (a : Axis) : State :=
  moving .leg [{ soloEntry with origin := .reference a }] (some (legOf k (.reference a)))

theorem witness_SearchesEndAtTheIndexMark :
    (∀ a ∈ [Axis.az, .el], (searchOf (.search a) a).axis.leg.map (·.kind) = some (.search a) ∧
      lastFlown { soloEntry with origin := .reference a } = true ∧
      (after (.indexMark a) (searchOf (.search a) a)).axis.motion = .gap) ∧
    (searchOf .descent .el).axis.leg.map (·.kind) = some .descent ∧
    (after .referenceDescentEnd (searchOf .descent .el)).axis.leg.map (·.kind) =
      some (.search .el) := by decide +kernel

theorem witness_StopsAndStallsEnd :
    (∀ r ∈ [StopReason.stall, .clash, .lock], (stopped r 0).axis.motion = .stopping ∧
      (stopped r 0).axis.stop = some ⟨[r], 0, 1⟩ ∧ (stopped r 0).axis.queue = [] ∧
      (stopped r 0).report.flags.length = 16) ∧
    ((cfg home).creep = 500) ∧
    (after (.stopEnd ⟨0, 0⟩ 499 499) (stopped .lock 0)).axis.motion = .idle ∧
    (after (.stopEnd ⟨0, 0⟩ 499 499) (stopped .stall 0)).axis.motion = .halted ∧
    (after (.stopEnd ⟨0, 0⟩ 500 499) (stopped .lock 0)).axis.motion = .stopping ∧
    (2 * (legOf .normal .solo).estimate + 2000 < 18001 ∧
      (after (.legStall ⟨5, 45000⟩) (moving .leg [soloEntry]
        (some { legOf .normal .solo with run := 18001 }))).axis.motion = .stopping) ∧
    (max (cfg home).azMax (cfg home).elMax * 1000 + (cfg home).decel - 1) / (cfg home).decel +
      2000 ≤ (stopped .lock 5000).axis.stop.elim 0 (·.run) ∧
    (after (.stopStall ⟨0, 0⟩ 500 0) (stopped .lock 5000)).axis.motion = .halted := by
  decide +kernel

theorem witness_AxisFaultsHaltTheDish :
    (home.seq.held = false ∧ home.report.flags.length = 16 ∧ home.axis.motion ≠ .halted) ∧
    (∀ a ∈ [Axis.az, .el], ∀ e ∈ [LimitEnd.lower, .upper],
      limitPin home.pins a e = false ∧ unreferencedStow home = false ∧ searching home = none ∧
      limitPin (setLimitPin home.pins a e true) a e = true ∧
      pairActive (setLimitPin (setLimitPin home.pins a .lower true) a .upper true) a = true ∧
      searching (searchOf (.search a) a) = some a ∧
      faultPin home.pins a = false ∧ validPin home.pins a = true ∧
      (after (.limitInput a e ⟨0, 0⟩) home).axis.motion = .halted ∧
      (after (.amplifierFault a ⟨0, 0⟩) home).axis.motion = .halted ∧
      (after (.encoderLoss a ⟨0, 0⟩) home).axis.motion = .halted) ∧
    (after (.referenceTravelLimit ⟨400000, 0⟩) (searchOf (.search .az) .az)).axis.motion =
      .halted ∧
    (after (.referenceDescentLimit ⟨0, 40000⟩) ((searchOf .descent .el).withPins
      { home.pins with elUpper := true })).axis.motion = .halted := by decide +kernel

theorem witness_AxisInputsGoInactive :
    home.axis.leg = none ∧ home.seq.held = false ∧ warning home = false ∧
    (∀ a ∈ [Axis.az, .el],
      warning (home.withPins (setWarningPin home.pins a true)) = true ∧
      warning (home.withPins (setWarningPin home.pins a false)) = warning home ∧
      (after (.amplifierWarning a true) (withRecord (record .moving .accepted .accepted []))
        ).line.queue.map (·.frame) = [.hold 7] ∧
      (after (.amplifierFaultInactive a) home).pins = home.pins ∧
      (after (.encoderSignalValid a) home).pins = home.pins) ∧
    (isLive (record .moving .accepted .accepted []) = true ∧
      memberState (record .moving .accepted .accepted []) 16 = some .accepted) := by decide +kernel

/-- The warning ends where the own number holds a compact. -/
theorem witness_AxisInputsGoInactive_ends :
    ∀ s ∈ [(withRecord (record .held .accepted .accepted [16])).withPins { home.pins with
        azWarning := true }],
      warning s = true ∧ warning (s.withPins (setWarningPin s.pins .az false)) = false ∧
      (after (.amplifierWarning .az false) s).line.queue.map (·.frame) = [.resume 7] ∧
      (after (.amplifierWarning .az false) (s.withLine (queued (.hold 7) false).line)
        ).line.queue.map (·.frame) = [.resume 7] := by decide +kernel

theorem witness_AMotionResetStopsAndFlushes :
    (∀ m q l, KnownConsole (moving m q l) 60) ∧ KnownConsole (stopped .lock 5) 60 ∧
    (after (.resetMotion 60 16) (moving .leg [soloEntry] (some (legOf .normal .solo)))).axis.motion =
      .stopping ∧
    faultsPresent (moving .halted [] none) = [] ∧
    (after (.resetMotion 60 16) (moving .halted [soloEntry] none)).axis.motion = .idle ∧
    faultsPresent ((moving .halted [] none).withPins { home.pins with azLower := true }) ≠ [] ∧
    (after (.resetMotion 60 16) (stopped .lock 5)).axis.stop.map (·.reasons) =
      some [.lock, .reset] ∧
    (after (.resetMotion 60 17) (moving .halted [soloEntry] none)).axis.motion = .halted :=
  ⟨fun _ _ _ => known60_of rfl rfl rfl, known60_of rfl rfl rfl, by decide +kernel⟩

/-! ### The compacts -/

theorem witness_CallsAreEvaluated :
    (∀ st ∈ [Station.ready, .faulted .config, .listen], KnownConsole (inState st) 60) ∧
    ((callMembers callTo).contains home.seq.number = true ∧ callTo.mode ≤ 1 ∧ callTo.id ≠ 0 ∧
      callTo.start.ms ≤ 999 ∧ callTo.deadline.ms ≤ 999) ∧
    (callMembers { callTo with members := 0x20000 }).contains home.seq.number = false ∧
    ((findRecord home 7).isNone = true ∧
      (findRecord (withRecord (record .forming .accepted .accepted [])) 7).isSome = true) ∧
    ((after (.call 60 callTo) home).compact.list.map (·.ownAz) = [20000] ∧
      (after (.call 60 callTo) home).line.queue.map (·.frame) = [.reply 7 0 0]) ∧
    (after (.call 60 callTo) (withRecord (record .forming .accepted .accepted []))).line.queue.map
      (·.frame) = [.reply 7 1 2] ∧
    (after (.call 60 { callTo with start := ⟨101, 99⟩ }) home).line.queue.map (·.frame) =
      [.reply 7 1 3] ∧
    (after (.call 60 callTo) (home.withAxis { home.axis with refAz := false })).line.queue.map
      (·.frame) = [.reply 7 1 8] := by
  refine ⟨fun st h => known60_of ?_ rfl rfl, by decide +kernel⟩
  revert st
  decide

/-- The states in which a record may stand, as the statements' clauses split them. -/
def records : List CompactRecord :=
  [record .forming .accepted .unanswered [], record .moving .accepted .accepted [],
   record .held .accepted .accepted [17], record .held .accepted .accepted [17, 60],
   record .timedOut .accepted .accepted [], record .complete .accepted .accepted []]

theorem known_record (r : CompactRecord) :
    KnownConsole (withRecord r) 60 ∧ KnownDish (withRecord r) 17 ∧
      findRecord (withRecord r) r.id = some r := by
  refine ⟨known60_of rfl rfl rfl, known17_of rfl rfl rfl, ?_⟩
  simp [findRecord, withRecord, State.withCompact]

theorem witness_RepliesSetTheMemberState :
    KnownDish home 17 ∧ (findRecord home 7).isNone = true ∧
    (∀ m ∈ [MemberState.unanswered, .accepted, .declined 1],
      memberState (record .forming .accepted m []) 17 = some m ∧ mayLeave m = true ∧
      (after (.reply 17 7 1 13) (withRecord (record .forming .accepted m []))).compact.list.map
        (fun r => memberState r 17) = [some (.declined 13)]) ∧
    (memberState (record .forming .accepted (.left 4) []) 17).map mayLeave = some false ∧
    memberState (record .forming .accepted .accepted []) 18 = none ∧
    (∀ x ∈ [(2, 0), (0, 1), (1, 0), (1, 2), (1, 14)],
      (after (.reply 17 7 x.1 x.2) (withRecord (record .forming .accepted .unanswered []))
        ).compact.list.map (fun r => memberState r 17) = [some .unanswered]) :=
  ⟨known17, by decide +kernel⟩

theorem witness_HoldsFollowTheSet :
    (∀ r ∈ records, Known (withRecord r) 60 ∧ findRecord (withRecord r) r.id = some r ∧
      (isMember r 17 = true ∧ isMember r 60 = false)) ∧
    (records.map isLive = [true, true, true, true, false, false] ∧
      records.map (fun r => (r.holds.filter (· != 17)).isEmpty) =
        [true, true, true, false, true, true]) ∧
    (after (.hold 17 7) (withRecord (record .moving .accepted .accepted []))).compact.list.map
      (·.state) = [.held] ∧
    (after (.resume 17 7) (withRecord (record .held .accepted .accepted [17]))).compact.list.map
      (·.state) = [.moving] :=
  ⟨fun r h => ⟨(known_record r).1.1, (known_record r).2.2, by revert r; decide +kernel⟩,
    by decide +kernel⟩

theorem witness_CancelEndsTheRecord :
    (∀ r ∈ records, Known (withRecord r) 60 ∧ Known (withRecord r) 17 ∧
      findRecord (withRecord r) 7 = some r ∧ r.console = 60 ∧ r.inserted = false) ∧
    (findRecord home 7).isNone = true ∧ home.report.flags.length = 16 ∧
    (headIsJoint (moving .leg [⟨.joint, 20000, 45000, 3000, 3000, 7, 0, some ⟨0, 45000, 1, 1⟩⟩]
      (some (legOf .normal .joint))) 7 = true) ∧
    (after (.cancel 60 7) (withRecord (record .held .accepted .accepted [17]))).compact.list.map
      (·.state) = [.cancelled] :=
  ⟨fun r h => ⟨(known_record r).1.1, (known_record r).2.1.1, by revert r; decide +kernel⟩,
    by decide +kernel⟩

theorem witness_ArrivalsCompleteTheRecord :
    (∀ r ∈ records, KnownDish (withRecord r) 17 ∧ findRecord (withRecord r) r.id = some r) ∧
    records.map (fun r => decide (memberState r 17 = some .accepted)) =
      [false, true, true, true, true, true] ∧
    records.map isFlying = [false, true, true, true, false, false] ∧
    (after (.arrive 17 7 20000 45000) (withRecord (record .moving (.arrived 20000 45000) .accepted
      []))).compact.list.map (·.state) = [.complete] ∧
    flagOn (after (.arrive 17 7 20000 45000) (withRecord (record .timedOut .accepted .accepted [])))
      flagCompactLate = true :=
  ⟨fun r _ => (known_record r).2, by decide +kernel⟩

theorem witness_LeavesEndTheMembership :
    (∀ r ∈ records, KnownDish (withRecord r) 17 ∧ findRecord (withRecord r) r.id = some r) ∧
    (isLeaveReason 7 = true ∧ isLeaveReason 16 = true ∧ isLeaveReason 17 = false) ∧
    records.map (fun r => ((memberState r 17).map mayLeave).getD false) =
      [true, true, true, true, true, true] ∧
    (after (.leave 17 7 14) (withRecord (record .moving .accepted .accepted []))).compact.list.map
      (·.state) = [.abandoned] ∧
    (after (.leave 17 7 14) (withRecord { record .moving (.arrived 0 0) .accepted [] with
      partialMode := true })).compact.list.map (·.state) = [.complete] :=
  ⟨fun r _ => (known_record r).2, by decide +kernel⟩

theorem witness_TheStartTimeDecides :
    (∀ r ∈ records, findRecord (withRecord r) r.id = some r ∧
      toMs r.start ≤ nowMs (withRecord r)) ∧
    (match startCheck (withRecord (record .forming .accepted .accepted []))
        (record .forming .accepted .accepted []) with
      | .ok az => az == 20000
      | .error _ => false) = true ∧
    (match startCheck (lockedBy [remoteEntry 1 Scope.dish])
        (record .forming .accepted .accepted []) with
      | .ok _ => false
      | .error n => n == 15) = true ∧
    (after (.compactStartTime 7) (withRecord (record .forming .accepted .accepted []))).axis.motion =
      .leg ∧
    (after (.compactStartTime 7) (withRecord (record .forming .accepted .accepted [60]))
      ).axis.jointHeld = true ∧
    (after (.compactStartTime 7) (withRecord (record .forming .accepted .unanswered []))
      ).compact.list.map (·.state) = [.abandoned] := by decide +kernel

theorem witness_TheDeadlineTimesOut :
    (∀ r ∈ records, findRecord (withRecord r) r.id = some r ∧
      toMs r.deadline ≤ nowMs (withRecord r)) ∧
    (∀ r ∈ [record .moving .accepted .accepted [], record .held .accepted .accepted [17]],
      (after (.compactDeadline 7) (withRecord r)).compact.list.map (·.state) = [.timedOut]) ∧
    (after (.compactDeadline 7) (withRecord (record .forming .accepted .accepted []))
      ).compact.list.map (·.state) = [.timedOut] ∧
    (after (.compactDeadline 7) (withRecord (record .forming .accepted .unanswered []))
      ).compact.list.map (·.state) = [.abandoned] := by decide +kernel

theorem witness_TerminalRecordsAreRemoved :
    (∀ n ∈ [4999, 5000], isLive { record .complete .accepted .accepted [] with
      terminalRun := n } = false) ∧
    (after (.compactRemoval 7) (withRecord { record .complete .accepted .accepted [] with
      terminalRun := 4999 })).compact.list.length = 1 ∧
    (after (.compactRemoval 7) (withRecord { record .complete .accepted .accepted [] with
      terminalRun := 5000 })).compact.list = [] := by decide +kernel

/-! ### Sensors and wind -/

/-- The station with a scan in flight. -/
def scanning (c : Scan) : State := home.withSensor { home.sensor with scan := some c }

/-- The readings of a good scan in frost. -/
def frost : ScanReadings := ⟨2000, -250, 0, 601⟩

theorem witness_ScansBeginAndPulsesAreCounted :
    home.seq.config.isSome = true ∧ home.sensor.latched = true ∧
    (home.withSensor { home.sensor with nextScan := 100600 }).sensor.nextScan ≤ nowMs home ∧
    (home.withSensor { home.sensor with nextScan := 100600 }).sensor.scan.isNone = true ∧
    (scanning ⟨3, 0, 0, none⟩).sensor.scan.isSome = true ∧
    ((cfg home).sensor = true ∧ (cfg home).filterWidth = 5) ∧
    (after .scanStart (home.withSensor { home.sensor with nextScan := 100600 })).sensor.nextScan =
      101000 ∧
    (after (.anemometerPulse .a 5) home).sensor.pulsesA = 1 ∧
    (after (.anemometerPulse .b 4) home).sensor.pulsesB = 0 := by decide +kernel

theorem witness_AGoodScanIsRecorded :
    (∀ x ∈ [(100 : Int), 4000], (cfg home).refLo ≤ max 0 (min 4095 x) ∧
      max 0 (min 4095 x) ≤ (cfg home).refHi) ∧
    (scanning ⟨12, 0, 0, none⟩).sensor.scan.isSome = true ∧
    (after (.scanComplete frost) (scanning ⟨12, 0, 0, none⟩)).sensor.melt = 1 ∧
    (after (.scanComplete frost) (scanning ⟨12, 0, 0, none⟩)).sensor.icePresent = true ∧
    (after (.scanComplete { frost with air := -201 }) (scanning ⟨12, 0, 0, none⟩)).sensor.cold =
      true := by decide +kernel

theorem witness_ADiscardedScanIsCounted :
    (∀ x ∈ [(99 : Int), 4001], max 0 (min 4095 x) < (cfg home).refLo ∨
      (cfg home).refHi < max 0 (min 4095 x)) ∧
    home.report.flags.length = 16 ∧
    (after (.scanComplete { frost with reference := 99 }) (scanning ⟨12, 0, 0, none⟩)
      ).sensor.discarded = 1 ∧
    (after (.scanComplete { frost with reference := 4001 })
      ((scanning ⟨12, 0, 0, none⟩).withSensor { (scanning ⟨12, 0, 0, none⟩).sensor with
        discarded := 2 })).sensor.status = .faulted := by decide +kernel

theorem witness_TheWindLevelFollowsTheSpeeds :
    (cfg home).sensor = true ∧ (scanning ⟨12, 135, 135, some 500⟩).sensor.scan.isSome = true ∧
    (after (.scanComplete frost) (scanning ⟨12, 135, 135, some 500⟩)).sensor.combined = 270 ∧
    (after (.scanComplete frost) (scanning ⟨12, 135, 135, some 500⟩)).sensor.level = .stow ∧
    (after (.scanComplete frost) (scanning ⟨12, 134, 134, some 500⟩)).sensor.level = .calm ∧
    (after (.scanComplete frost) (scanning ⟨12, 134, 134, some 500⟩)).sensor.stowCount = 1 := by
  decide +kernel

/-- The sensor station at STOW, its last WIND some time ago. -/
def told (r : Nat) : State :=
  home.withSensor { home.sensor with level := .stow, stowCause := some .gust, windRun := some r }

theorem witness_TheStowIsToldAgain :
    ((told 30000).seq.station = .ready ∧ (cfg (told 30000)).sensor = true ∧
      (told 30000).sensor.level = .stow ∧ (told 30000).sensor.status ≠ .faulted) ∧
    (after .windResend (told 30000)).line.queue.map (·.frame) = [.wind 3 2 0 1] ∧
    (after .stowLampFlash ((home.withWind { home.wind with blocked := true }).withReport
      { home.report with lampOn := true, lampRun := 500 })).report.lampOn = false := by
  decide +kernel

theorem witness_WindReportsMoveTheCell :
    KnownDish home 17 ∧ WindOk home.wind ∧ (cellAt home 3).roster.length < 8 ∧
    (levelOf 0 = some .calm ∧ levelOf 1 = some .watch ∧ levelOf 2 = some .stow) ∧
    0 < (cfg home).settleTime ∧ (home.seq.station = .ready ∧ obeys home 3 = true) ∧
    (cellAt (after (.windReceived 17 3 2 200 1) home) 3).cause = some .gust ∧
    (after (.windReceived 17 3 2 200 0) home).axis.stowMark = true ∧
    (cellAt (after (.windReceived 17 7 1 150 0) home) 7).state = .watch ∧
    (cellAt (after (.windReceived 17 8 2 200 0) home) 7).state = .calm :=
  ⟨known17, ⟨by decide, by decide⟩, by decide, by decide, by decide, by decide, by decide +kernel,
    by decide +kernel, by decide +kernel, by decide +kernel⟩

theorem witness_CellsAreReleasedByTheirRuns :
    (∀ st ∈ [CellState.stow, .settle], (withCell 7 (cellWith st .calm 1200000 300000)
      ).wind.cells.length = 8 ∧ (cellAt (withCell 7 (cellWith st .calm 1200000 300000)) 7).state =
        st) ∧
    home.seq.config.isSome = true ∧
    (allCalm (cellWith .settle .calm 0 300000) = true ∧
      allCalm (cellWith .settle .watch 0 300000) = false) ∧
    (cellAt (after (.stowHoldExpiry 7) (withCell 7 (cellWith .stow .calm 1200000 0))) 7).state =
      .settle ∧
    (cellAt (after (.settleExpiry 7) (withCell 7 (cellWith .settle .calm 0 300000))) 7).state =
      .calm ∧
    (cellAt (after (.settleExpiry 7) (withCell 7 (cellWith .settle .watch 0 300000))) 7).state =
      .watch ∧
    (after (.settleExpiry 3) ((withCell 3 (cellWith .settle .calm 0 300000)).withWind
      { (withCell 3 (cellWith .settle .calm 0 300000)).wind with ordered := true })).wind.ordered =
      false := by decide +kernel

/-! ### Heaters and shares -/

/-- The station at a boundary, with ice and frost. -/
def icy : State :=
  (home.withTime { home.time with sec := 300 }).withSensor { home.sensor with
    icePresent := true, melt := 2 }

/-- The station with both zones in CLAIM and an own window. -/
def claiming (c : Claim) (admitted stepRun : Nat) : State :=
  (home.withHeater { home.heater with
    zones := [⟨true, 6, .claim, none, 0, none⟩, ⟨true, 6, .claim, none, 0, none⟩]
    claims := [0, 1], admitted := admitted, stepRun := stepRun }).withShare { home.share with
      heaterCommit := 12, claimCount := 2, claim := c }

theorem witness_ABoundaryMakesASelection :
    (home.heater.nextBoundary = some 300 ∧ home.seq.station = .ready ∧ home.time.sec < 300) ∧
    (icy.heater.nextBoundary = some 300 ∧ icy.seq.station = .ready ∧ 300 ≤ icy.time.sec ∧
      demand icy = true ∧ demand home = false) ∧
    (after .heaterBoundary icy).heater.zones.map (·.state) = [.claim, .claim] ∧
    (after .heaterBoundary icy).heater.duty = 75 ∧
    (after .heaterBoundary icy).heater.nextBoundary = some 600 := by decide +kernel

theorem witness_InrushWindowsRun :
    (∀ c ∈ [Claim.won 100600 2 false, .won 100600 2 true],
      (claiming c 1 50).heater.claims = [0, 1] ∧ (claiming c 1 50).seq.station = .ready ∧
      (claiming c 1 50).seq.held = false ∧
      freeSlot (claiming c 1 50).line.queue 0 8 = some 0) ∧
    (after .inrushWindowOpen (claiming (.won 100600 2 false) 0 0)).heater.zones.map (·.state) =
      [.on, .claim] ∧
    (after .zoneSwitchOnStep (claiming (.won 100600 2 true) 1 50)).heater.admitted = 0 ∧
    (after .inrushWindowEnd (claiming (.won 100100 2 true) 0 0)).share.claim = .queued ∧
    (after .inrushWindowEnd (home.withShare { home.share with
      claim := .won 100100 2 true })).share.claim = .none := by decide +kernel

/-- The station with its first zone ON for a time, at 75 percent. -/
def heating (run duty : Nat) : State :=
  home.withHeater { home.heater with
    zones := [⟨true, 6, .on, some ⟨1, 0⟩, run, none⟩, ⟨true, 6, .off, none, 0, none⟩]
    onOrder := [0], duty := duty }

theorem witness_DutyEndsAZonesRun :
    ((heating 225000 75).heater.zones[0]?.map (·.state) = some .on ∧
      (heating 225000 75).heater.duty * (cfg (heating 225000 75)).heaterPeriod * 10 ≤ 225000) ∧
    (after (.dutyEnd 0) (heating 225000 75)).heater.zones.map (·.state) = [.rest, .off] ∧
    (after (.dutyEnd 0) (heating 224999 75)).heater.zones.map (·.state) = [.on, .off] ∧
    (after (.dutyEnd 0) (heating 300000 100)).heater.zones.map (·.state) = [.on, .off] := by
  decide +kernel

theorem witness_AHeatResetSwitchesOff :
    KnownConsole (heating 5 75) 60 ∧ LoansOk (heating 5 75).share ∧
    (after (.resetHeat 60 16) (heating 5 75)).heater.zones.map (·.lastCause) =
      [some .reset, none] :=
  ⟨known60_of rfl rfl rfl, by decide, by decide +kernel⟩

/-- The station short of 16 shares and more. -/
def short (ask : Option Nat) : State :=
  home.withShare { home.share with heaterWant := 40, askRun := ask }

theorem witness_SharesAreAskedAndGranted :
    ((short (some 5000)).share.askRun = some 5000 ∧ (short (some 5000)).seq.station = .ready ∧
      (short (some 5000)).seq.held = false ∧ shortfall (short (some 5000)) = 20 ∧
      shortfall home = 0) ∧
    KnownDish home 17 ∧ home.line.queue = [] ∧ spareShares home = 14 ∧
    (findLoan home 17 false).isSome = false ∧ home.share.loans.length + newGrants home < 8 ∧
    (after .askRunExpiry (short (some 5000))).line.queue.map (·.frame) = [.shareAsk 16] ∧
    (after (.shareAsk 17 16) home).line.queue.map (·.frame) = [.shareGrant 17 14 0] ∧
    (after (.shareAsk 17 17) home).line.queue = [] :=
  ⟨by decide, known17, by decide, by decide, by decide, by decide, by decide +kernel,
    by decide +kernel, by decide +kernel⟩

theorem witness_SharesAreKeptAndTakenBack :
    KnownDish home 17 ∧ KnownDish (short none) 17 ∧ KnownDish granting 17 ∧
    isDish home.seq.number = true ∧ isDish 18 = true ∧
    granting.line.queue.map (·.started) = [false] ∧
    (after (.shareGrant 17 16 16 500) (short none)).share.loans = [⟨17, false, 16, 500, false, 0⟩] ∧
    (after (.shareGrant 17 16 1 500) home).line.queue.map (·.frame) = [.shareBack 17 1] ∧
    (after (.shareGrant 17 18 1 500) home).line.queue = [] ∧
    KnownDish (lending ⟨17, true, 5, 500, false, 0⟩) 17 ∧
    (findLoan (lending ⟨17, true, 5, 500, false, 0⟩) 17 true).isSome = true ∧
    (after (.shareBack 17 16 4) (lending ⟨17, true, 5, 500, false, 0⟩)).share.loans.map (·.amount) =
      [1] ∧
    (after (.shareBack 17 16 5) (lending ⟨17, true, 5, 500, false, 0⟩)).share.loans = [] :=
  ⟨known17, known17_of rfl rfl rfl, known17_of rfl rfl rfl, by decide, by decide, by decide,
    by decide +kernel, by decide +kernel, by decide +kernel, known17_of rfl rfl rfl, by decide,
    by decide +kernel, by decide +kernel⟩

theorem witness_LoansEndAtTheirExpiry :
    (findLoan (lending ⟨17, false, 5, 100, false, 0⟩) 17 false).map (·.expiry) = some 100 ∧
    (findLoan (lending ⟨17, true, 5, 100, false, 0⟩) 17 true).map (·.grace) = some false ∧
    (findLoan (lending ⟨17, true, 5, 100, true, 2000⟩) 17 true).map (·.graceRun) = some 2000 ∧
    home.time.sec = 100 ∧
    (after (.borrowedExpiry 17) (lending ⟨17, false, 5, 100, false, 0⟩)).line.queue.map (·.frame) =
      [.shareBack 17 5] ∧
    (after (.lentExpiry 17) (lending ⟨17, true, 5, 100, false, 0⟩)).share.loans.map (·.grace) =
      [true] ∧
    (after (.loanGraceEnd 17) (lending ⟨17, true, 5, 100, true, 2000⟩)).share.loans = [] ∧
    (after (.shareBackWithdrawal 17) (home.withLine { LineUnit.initial with
      queue := [{ TxEntry.fresh (.shareBack 17 5) with expiryRun := some 2000 }]
      nextAge := 1 })).line.queue = [] := by decide +kernel

theorem witness_AnInrushReservesItsWindow :
    KnownDish home 17 ∧ home.share.claim ≠ .queued ∧
    ((sendingEntry (sending (.inrush ⟨101, 999⟩ 8))).map (·.frame) = some (.inrush ⟨101, 999⟩ 8) ∧
      nowMs home < 101999) ∧
    (after (.inrush 17 ⟨101, 999⟩ 8) home).share.busyUntil = 102499 ∧
    (after (.inrush 17 ⟨101, 999⟩ 9) home).share.busyUntil = 0 ∧
    (after .attemptSucceeds (sending (.inrush ⟨101, 999⟩ 8))).share.claim = .won 101999 8 false :=
  ⟨known17, by decide, by decide, by decide +kernel, by decide +kernel, by decide +kernel⟩

/-- The station whose own frame is in transmission, with a record. -/
def flying (f : Frame) (r : CompactRecord) : State :=
  (sending f).withCompact { home.compact with list := [r] }

theorem witness_OwnFramesActAtTheirCompletion :
    ((sendingEntry (flying (.hold 7) (record .moving .accepted .accepted []))).map (·.frame) =
        some (.hold 7) ∧
      warning ((flying (.hold 7) (record .moving .accepted .accepted [])).withPins
        { home.pins with azWarning := true }) = true ∧
      isLive (record .moving .accepted .accepted []) = true) ∧
    (after .attemptSucceeds ((flying (.hold 7) (record .moving .accepted .accepted [])).withPins
      { home.pins with azWarning := true })).compact.list.map (·.holds) = [[16]] ∧
    (after .attemptSucceeds (flying (.resume 7) (record .held .accepted .accepted [16, 17]))
      ).compact.list.map (·.holds) = [[17]] ∧
    (isPresent home 17 = true ∧ (findLoan home 17 true).isNone = true ∧
      (findLoan home 17 false).isNone = true ∧ home.share.loans.length < 8) ∧
    (after .attemptSucceeds (sending (.shareGrant 17 3 700))).share.loans =
      [⟨17, true, 3, 700, false, 0⟩] := by decide +kernel

/-! ### Outputs, answers, and the clauses that meet special states -/

/-- The amplifier enables by the station state and the motion, and the brakes and contactors. -/
theorem test_outputs :
    ([Station.sample, .load, .selfcheck, .listen, .ready, .faulted .number, .faulted .config,
      .faulted .clash].map fun x => amplifiersEnabled (inState x)) =
      [false, false, true, true, true, false, false, true] ∧
    amplifiersEnabled (moving .halted [] none) = false ∧ amplifiersEnabled State.reset = false ∧
    brakeEngaged (inGap 5 []) .az = false ∧ brakeEngaged (inGap 5 []) .el = true ∧
    contactor (home.withHeater { home.heater with
      zones := [⟨true, 6, .on, some ⟨1, 0⟩, 5, none⟩] }) 0 = true ∧ contactor home 1 = false ∧
    contactor home 7 = false := by decide +kernel

/-- The supply that rose last makes the first pin reset a power-on reset. -/
theorem test_first_pin_reset :
    (after (.pinReset ⟨16, false⟩) State.reset).seq.cause = .powerOn ∧
    (after (.pinReset ⟨16, false⟩) home).seq.cause = .pin := by decide +kernel

/-- The answers of DISH, and of SCAN at index 0, in the bytes of their ANSWER. -/
theorem test_answer_bytes :
    (dishValue home 0).map valueBytes =
      some ([0, 0, 0, 0, 0, 0, 0xAF, 0xC8, 1, 1] : List Byte) ∧
    (∀ index ∈ [0, 1, 2, 3, 4, 8, 16, 17], ∀ q ∈ plainQueries home 60 16 index,
      ((q.2.2.map valueBytes).getD []).length ≤ 20) := by decide +kernel

/-- The cause of a cell is coded as in a WIND, an absent BEACON leaves room for the mark and the
mask that follow it, and the claim order counts from 1. -/
theorem test_answer_codes :
    (cellsValue (withCell 3 (cellWith .stow .stow 0 0)) 3).map valueBytes =
      some ([2, 0, 1, 1, 1, 17, 1] : List Byte) ∧
    (peerValue home 17).map valueBytes =
      some ([1, 0, 0, 0, 1, 0, 0, 0, 0] : List Byte) ∧
    (zonesValue (claiming .queued 0 0) 0).map valueBytes = some ([1, 6, 2, 1, 0, 0] : List Byte) := by
  decide +kernel

/-- The station in a controlled stop of the stow leg, the stow-order mark set or cleared by a calm
notice since. -/
def stowCut (r : StopReason) (mark : Bool) (locks : List LockEntry) : State :=
  (stowFlight.withAxis { stowFlight.axis with
    motion := .stopping, leg := none, stop := some ⟨[r], 5, 0⟩, stowMark := mark }).withLock
      (lockedBy locks).lock

/-- An elevation lock in STOWING: the STOW entry waits in IDLE, and when the lock goes its leg
starts while the stow order holds, and the entry leaves where a calm notice has cleared the mark.
-/
theorem test_kept_stow_entry_waits_for_the_lock :
    ∀ x ∈ [(true, Motion.stowing, 1), (false, .idle, 0)], ∀ t ∈
        [after (.stopEnd ⟨0, 60000⟩ 0 0) (stowCut .lock x.1 [remoteEntry 5 Scope.dish])],
      t.axis.motion = .idle ∧ t.axis.queue.length = 1 ∧
      (after (.lockClear 60 16 5) t).axis.motion = x.2.1 ∧
      (after (.lockClear 60 16 5) t).axis.queue.length = x.2.2 := by decide +kernel

/-- The station in an elevation search, begun or not with the descent, in the sector of dish 17. -/
def searching17 (descended : Bool) : State :=
  home.withAxis { home.axis with
    motion := .leg, refEl := false, queue := [{ soloEntry with origin := .reference .el }]
    leg := some { legOf (.search .el) (.reference .el) with
      descended := descended, startAz := 100000, targetAz := 100000, movesAz := false
      movesEl := true } }

/-- A search that has descended keeps its whole sweep, which a sector then in force stops; one that
only rises goes on. -/
theorem test_descended_search_is_tested :
    (after (.lockNoticeReceived 17 Scope.dish 1 1 0) (searching17 true)).axis.motion = .stopping ∧
    (after (.lockNoticeReceived 17 Scope.dish 1 1 0) (searching17 false)).axis.motion = .leg := by
  decide +kernel

/-- A band is left upward or downward. -/
theorem test_crossing_polarity :
    (after (.scanComplete frost) ((scanning ⟨12, 0, 0, none⟩).withSensor
      { (scanning ⟨12, 0, 0, none⟩).sensor with
        ice := readChannel (readChannel home.sensor.ice 300 600 0 ⟨1, 0⟩) 300 600 100 ⟨2, 0⟩
        })).sensor.ice.crossing.map (fun c => (c.before, c.after, c.up)) =
      some (.below, .above, true) := by decide +kernel

/-- The station at the end of LISTEN, with no sensor of its own and every obeyed cell CALM. -/
def quietListened : State :=
  { listened with
    seq := { listened.seq with config := some { config with sensor := false } }
    lock := { listened.lock with pending := [⟨60, 4, 9, 0⟩] }
    compact := { listened.compact with pending := [7] }
    axis := { listened.axis with pendingAnswers := [(60, 0)] }
    report := { listened.report with pending := [⟨60, 1, 256⟩] }
    wind := { listened.wind with
      cells := (listened.wind.cells.set 2 (cellWith .calm .calm 0 0)).set 3
        (cellWith .calm .calm 0 0) } }

theorem witness_ListenEndsInReady_quiet :
    (quietListened.seq.held = false ∧ quietListened.line.queue = [] ∧
      quietListened.axis.motion = .idle ∧ quietListened.axis.queue = [] ∧
      warning quietListened = false ∧ quietListened.report.flags.all (!·.on) = true ∧
      (cfg quietListened).sensor = false ∧ shortfall quietListened = 0 ∧
      ∀ c ∈ obeyed quietListened, (cellAt quietListened c).state = .calm ∧
        workingEntries (cellAt quietListened c) ≠ []) ∧
    ((after .listenEnd quietListened).line.queue.drop 1).map (·.frame) =
      [.answer 60 4 9 0 none, lockNoticeFrame quietListened, .reply 7 1 13,
        .answer 60 3 0 2 none, .answer 60 1 256 2 none] := by decide +kernel

/-- A grant to a dish that may have none, and an INRUSH for no zone. -/
theorem witness_HandOverStartsTheFirstFrame_withdrawals :
    (∀ e ∈ [(Frame.shareGrant 17 0 0), .shareGrant 18 2 0, .inrush ⟨0, 0⟩ 1],
      LineOk (queued e false).line ∧ mayHandOver (queued e false) = true ∧
      (after (.handOver ⟨5, 6⟩) (queued e false)).line.queue = []) ∧
    isPresent home 18 = false ∧ home.share.claimCount = 0 ∧
    (after (.handOver ⟨5, 6⟩) ((queued (.inrush ⟨0, 0⟩ 1) false).withShare { home.share with
      claimCount := 2, claim := .queued })).share.claim = .sent ∧
    ((after (.handOver ⟨5, 6⟩) ((queued (.beacon beacon) true).withLock
      (lockedBy [remoteEntry 5 Scope.dish]).lock)).line.queue.map fun e => match e.frame with
        | .beacon b => b.mask
        | _ => Scope.none) = [Scope.dish] := by decide +kernel

/-- The 8th attempt of a frame that is, or is not, queued once more. -/
theorem witness_AFailedAttemptIsCounted_repeats :
    (after .failedAttempt (failing (.hold 7) 7 62)).line.queue.map
      (fun e => (e.frame, e.again, e.started)) = [(.hold 7, true, false)] ∧
    (after .failedAttempt ((failing (.hold 7) 7 62).withLine { (failing (.hold 7) 7 62).line with
      queue := (failing (.hold 7) 7 62).line.queue.map fun e => { e with again := true } }
        )).line.queue = [] ∧
    (after .failedAttempt (failing (.leave 7 14) 7 62)).line.queue = [] ∧
    (after .failedAttempt (failing (.leave 7 16) 7 62)).line.queue.map (·.again) = [true] ∧
    (after .failedAttempt (failing (.inrush ⟨0, 0⟩ 1) 7 62)).share.claim = .none ∧
    (after .failedAttempt ((failing (.inrush ⟨0, 0⟩ 1) 7 62).withShare { home.share with
      claimCount := 2, claim := .sent })).line.queue.map (·.frame) =
      [.inrush ⟨100, 600⟩ 2] := by decide +kernel

/-- A station that has zones ON, a zone in CLAIM, and loans both ways. -/
def busy : State :=
  { home with
    heater := { home.heater with
      zones := [⟨true, 6, .on, some ⟨1, 0⟩, 5, none⟩, ⟨true, 6, .claim, none, 0, none⟩]
      onOrder := [0], claims := [1] }
    share := { home.share with
      heaterCommit := 12, claimCount := 1, claim := .sent
      loans := [⟨17, false, 5, 500, false, 0⟩, ⟨18, true, 2, 500, false, 0⟩] } }

theorem witness_TheOwnNumberOnTheLineIsAClash_everywhere :
    LoansOk busy.share ∧
    (∀ st ∈ [Station.ready, .listen, .faulted .config],
      (after (.answerReceived 16) (busy.withSeq { busy.seq with station := st })).seq.station =
        .faulted .clash ∧
      (after (.answerReceived 16) (busy.withSeq { busy.seq with station := st })
        ).heater.zones.map (·.state) = [.off, .off] ∧
      (after (.answerReceived 16) (busy.withSeq { busy.seq with station := st })).share.loans =
        []) ∧
    (∀ m ∈ [Motion.leg, .gap, .stowing, .idle, .stowed, .halted],
      (after (.answerReceived 16) (moving m [soloEntry] none)).axis.queue = []) ∧
    (after (.answerReceived 16) (stopped .lock 5)).axis.stop.map (·.reasons) =
      some [.lock, .clash] := by decide +kernel

/-- A station that flies a compact with dish 17, and has borrowed of it. -/
def partnered : State :=
  (withRecord (record .moving .accepted .accepted [])).withShare { home.share with
    loans := [⟨17, false, 5, 500, false, 0⟩] }

theorem witness_ABeaconIsRecorded_restart_and_report :
    (KnownDish partnered 17 ∧ LoansOk partnered.share ∧ WindOk home.wind) ∧
    CompactOk partnered.compact ∧
    (findRecord partnered 7).isSome = true ∧ (peerEntry partnered 17).restartSeen = false ∧
    (after (.beaconReceived 17 { beacon with startFlag := true }) partnered).share.loans = [] ∧
    (after (.beaconReceived 17 { beacon with startFlag := true }) partnered).compact.list.map
      (fun r => memberState r 17) = [some (.left 17)] ∧
    (cellAt (after (.beaconReceived 17 { beacon with
      sensorRole := true, windLevel := 2, sensorStatus := 0 }) home) 3).state = .stow ∧
    (cellAt (after (.beaconReceived 17 { beacon with
      sensorRole := true, windLevel := 2, sensorStatus := 2 }) home) 3).roster.map (·.working) =
      [false] ∧
    (cellAt (after (.beaconReceived 17 beacon)
      (withCell 3 (cellWith .calm .calm 0 0))) 3).roster.map (·.working) = [false] := by
  refine ⟨⟨known17_of rfl rfl rfl, by decide, ⟨by decide, by decide⟩⟩, by decide, ?_⟩
  decide +kernel

/-- A leg that crosses the sector of dish 17, below it. -/
def lowLeg : Leg :=
  { legOf .normal .solo with startEl := 10000, targetEl := 10000, targetAz := 100000 }

/-- The station in that leg. -/
def crossing : State := moving .leg [soloEntry] (some lowLeg)

theorem witness_ALockNoticeIsRecorded_stop :
    KnownDish crossing 17 ∧
    (∀ m ∈ [Scope.none, Scope.dish], sweepTest
      (crossing.withKeepOut [⟨17, 80000, 120000, 20000, scopeMotion m⟩])
      (legSweep crossing lowLeg) = if scopeMotion m then [17] else []) ∧
    (after (.lockNoticeReceived 17 Scope.dish 1 1 0) crossing).axis.stop.map (·.reasons) =
      some [.keepOut] ∧
    flagRecord (after (.lockNoticeReceived 17 Scope.dish 1 1 0) crossing) flagKeepOutStop =
      ⟨true, 2, 17, ⟨100, 600⟩⟩ ∧
    (after (.lockNoticeReceived 17 Scope.dish 1 1 0) (moving .leg [soloEntry]
      (some (legOf .normal .solo)))).axis.motion = .leg :=
  ⟨known17_of rfl rfl rfl, by decide +kernel⟩

/-- The same station when dish 17 has been silent for 1500 ms. -/
def parted : State := partnered.withPeers silent.peers

theorem witness_PresenceAndBeaconsAreTimed_parting :
    PeersOk parted.peers ∧ LoansOk parted.share ∧ CompactOk parted.compact ∧
    flagOn (after (.peerAbsent 17) parted) flagLoanLost = true ∧
    (after (.peerAbsent 17) parted).compact.list.map (fun r => memberState r 17) =
      [some (.left 17)] := by
  refine ⟨by decide, by decide, by decide, ?_⟩
  decide +kernel

/-- The station with both zones ON. -/
def warm : State :=
  home.withHeater { home.heater with
    zones := [⟨true, 6, .on, some ⟨1, 0⟩, 5, none⟩, ⟨true, 6, .claim, none, 0, none⟩]
    onOrder := [0], claims := [1], admitted := 1 }

theorem witness_RemoteLocksAreSetAndCleared_answers :
    KnownConsole warm 60 ∧ warm.axis.queue = [] ∧
    (after (.lockSet 60 16 6 ⟨false, false, true⟩) warm).heater.zones.map
      (fun z => (z.state, z.lastCause)) = [(.off, some .lock), (.off, some .lock)] ∧
    (after (.lockSet 60 16 6 ⟨false, false, true⟩) warm).line.queue.map (·.frame) =
      [.lockNotice ⟨false, false, true⟩ 1 0 1, .answer 60 4 6 0 none] ∧
    (after (.lockClear 60 16 5) (lockedBy [remoteEntry 5 Scope.dish])).line.queue.map (·.frame) =
      [.lockNotice Scope.none 0 0 0, .answer 60 5 5 0 none] :=
  ⟨known60_of rfl rfl rfl, by decide, by decide +kernel⟩

theorem witness_QueriesAreAnswered_ranges :
    home.wind.cells.length = 8 ∧
    (itemRanges home 60 16 0).map (fun q => (q.2.1, q.2.2)) =
      [(1, true), (2, true), (4, false), (5, false), (6, false), (7, false), (8, true),
        (9, true), (11, true), (12, true), (13, true), (14, false)] ∧
    (itemRanges home 60 16 1).map (fun q => (q.2.1, q.2.2)) =
      [(1, false), (2, true), (4, false), (5, false), (6, false), (7, false), (8, false),
        (9, true), (11, true), (12, true), (13, true), (14, true)] ∧
    (∀ index ∈ [0, 1, 2, 5, 6, 7, 8, 9, 16, 17, 63, 64], ∀ q ∈ itemRanges home 60 16 index,
      (after q.1 home).line.queue.map (fun e => match e.frame with
        | .answer _ _ _ o _ => o
        | _ => 9) = [if q.2.2 then 0 else 1]) := by decide +kernel

theorem witness_StopsAndStallsEnd_named_axes :
    (after (.legStall ⟨20000, 45000⟩) (moving .leg [soloEntry]
      (some { legOf .normal .solo with run := 18001 }))).axis.stop = some ⟨[.stall], 0, 0⟩ ∧
    (after (.legStall ⟨5, 5⟩) (moving .leg [soloEntry]
      (some { legOf .normal .solo with run := 18001 }))).axis.stop = some ⟨[.stall], 0, 3⟩ := by
  decide +kernel

theorem witness_StopsAndStallsEnd_stow :
    (stowBlocked (stowCut .reset false []) = false ∧
      stowBlocked (stowCut .lock true [remoteEntry 5 Scope.dish]) = true) ∧
    (∀ mark ∈ [true, false], (after (.stopEnd ⟨77, 60000⟩ 0 0) (stowCut .reset mark [])).axis.leg =
        some { stowLeg (stowCut .reset mark []) ⟨.stow, 77, 88000, 0, 3000, 0, 0, none⟩ with
          startAz := 77, targetAz := 77, startEl := 60000, estimate := 10334 } ∧
      (after (.stopEnd ⟨77, 60000⟩ 0 0) (stowCut .reset mark [])).axis.queue =
        [⟨.stow, 77, 88000, 0, 3000, 0, 0, some ⟨77, 60000, 1, 1⟩⟩] ∧
      (after (.stopEnd ⟨77, 88000⟩ 0 0) (stowCut .reset mark [])).axis.motion =
        if mark then .stowed else .idle) := by decide +kernel

theorem witness_AxisFaultsHaltTheDish_halted :
    (∀ m ∈ [Motion.halted], (moving m [] none).axis.leg = none ∧
      (after (.amplifierFault .az ⟨5, 6⟩) (moving m [] none)).axis.motion = .halted ∧
      (after (.limitInput .el .upper ⟨5, 6⟩) (moving m [] none)).axis.posEl = 6 ∧
      flagRecord (after (.encoderLoss .el ⟨5, 6⟩) (moving m [] none)) flagEncoderFault =
        ⟨true, 2, 0, ⟨100, 600⟩⟩) ∧
    (∀ x ∈ [(Axis.az, LimitEnd.lower, 1), (.az, .upper, 2), (.el, .lower, 3)], ∀ t ∈
        [after (.limitInput x.1 x.2.1 ⟨0, 50000⟩) (stowFlight.withAxis { stowFlight.axis with
          refEl := false, leg := some { legOf .stowUnreferenced .stow with movesAz := false } })],
      t.axis.motion = .halted ∧ flagRecord t flagAxisLimit = ⟨true, x.2.2, 0, ⟨100, 600⟩⟩) := by
  decide +kernel

/-- The station in FAULTED of kind CLASH, with the roster of cell 3 and the mark of the own entry. -/
def clashed (x : Cell) (own : Bool) : State :=
  { withCell 3 x with
    seq := (inState (.faulted .clash)).seq
    wind := { (withCell 3 x).wind with ownEntry := own } }

/-- A cell whose roster holds the own number and dish 17. -/
def ownCell (st : CellState) : Cell :=
  { cellWith st .calm 0 0 with roster := [⟨16, some .calm, .ok, true⟩, ⟨17, some .calm, .ok, true⟩] }

/-- A WIND of the other station of the own number acts on the cell it names; the own entry, where the
station has one, stays as it stood. -/
theorem witness_WindReportsMoveTheCell_clash :
    ((inState (.faulted .clash)).seq.held = false ∧ home.seq.number = 16 ∧ home.report.flags.length =
      16) ∧
    (∀ own ∈ [true, false], ∀ st ∈ [CellState.calm, .settle],
      (clashed (ownCell st) own).wind.cells.length = 8 ∧
      (∀ x ∈ (clashed (ownCell st) own).wind.cells, CellOk x) ∧
      inRoster (clashed (ownCell st) own) 3 16 = true ∧
      (cellAt (clashed (ownCell st) own) 4).roster.length < 8 ∧
      workingEntries (cellAt (clashed (ownCell st) own) 3) ≠ [] ∧
      (∀ x ∈ [(2, CellState.stow), (1, if st = .calm ∧ own = false then .watch else st)],
        (cellAt (after (.windReceived 16 3 x.1 200 0) (clashed (ownCell st) own)) 3).state = x.2) ∧
      (after (.windReceived 16 3 2 200 0) (clashed (ownCell st) own)).axis.stowMark = true ∧
      (cellAt (after (.windReceived 16 3 2 200 0) (clashed (ownCell st) own)) 3).roster.head? =
        some ⟨16, some (if own then .calm else .stow), .ok, true⟩ ∧
      (cellAt (after (.windReceived 16 4 2 200 2) (clashed (ownCell st) own)) 3).roster.head? =
        some (if own then ⟨16, some .calm, .ok, true⟩ else ⟨16, none, .ok, false⟩) ∧
      (cellAt (after (.windReceived 16 4 2 200 2) (clashed (ownCell st) own)) 4).roster =
        [⟨16, some .stow, .faulted, false⟩] ∧
      (after (.windReceived 16 8 2 200 0) (clashed (ownCell st) own)).wind =
        (clashed (ownCell st) own).wind) := by
  decide +kernel

theorem witness_AMotionResetStopsAndFlushes_record :
    (isLive (record .moving .accepted .accepted []) = true ∧
      memberState (record .moving .accepted .accepted []) 16 = some .accepted) ∧
    (withRecord (record .moving .accepted .accepted [])).report.flags.length = 16 ∧
    (transmits home = true ∧ home.line.queue = [] ∧ home.axis.queue = [] ∧
      home.axis.motion = .idle ∧ home.wind.ordered = false ∧ shortfall home = 0 ∧
      stowEntries home = []) ∧
    (after (.resetMotion 60 16) (withRecord (record .moving .accepted .accepted []))).line.queue.map
      (·.frame) = [.leave 7 16, .event 10 16 ⟨100, 600⟩] ∧
    (∀ m ∈ [Motion.idle, .halted], ∀ st ∈ [Station.ready, .faulted .config],
      amplifiersEnabled (after (.resetMotion 60 16) ((inState st).withAxis { home.axis with
        motion := m })) = decide (st = .ready)) := by decide +kernel

theorem witness_AGoodScanIsRecorded_demand :
    (demand ((scanning ⟨12, 0, 0, none⟩).withSensor { (scanning ⟨12, 0, 0, none⟩).sensor with
      icePresent := true, melt := 2 }) = true) ∧
    ∀ x ∈ [((-250 : Int), 200), (610, 601), (-999, 601)],
      (after (.scanComplete { frost with surface := x.1, ice := x.2 }) (warm.withSensor
        { home.sensor with
          scan := some ⟨12, 0, 0, none⟩, icePresent := true, melt := 2 })).heater.zones.map
        (fun z => (z.state, z.lastCause)) =
        if x.1 = -250 then [(.off, some .demand), (.off, some .demand)]
        else [(.off, some .sensor), (.off, some .sensor)] := by decide +kernel

theorem witness_WindReportsMoveTheCell_releases :
    (∀ x ∈ [(CellState.stow, 1199999, 0, CellState.stow), (.stow, 1200000, 0, .settle),
        (.settle, 0, 299999, .settle), (.settle, 0, 300000, .calm)],
      (cellAt (after (.windReceived 17 3 0 50 0)
        (withCell 3 (cellWith x.1 .stow x.2.1 x.2.2.1))) 3).state = x.2.2.2) ∧
    WindOk (withCell 3 (cellWith .stow .stow 1200000 0)).wind ∧
    WindOk (withCell 3 (cellWith .settle .stow 0 300000)).wind ∧
    ((cellAt (after (.windReceived 17 3 0 50 2) home) 3).state = .stow ∧
      (cellAt (after (.windReceived 17 3 0 50 2) home) 3).cause = some .noSensor ∧
      (after (.windReceived 17 3 0 50 2) home).axis.stowMark = true) :=
  ⟨by decide +kernel, ⟨by decide, by decide⟩, ⟨by decide, by decide⟩, by decide +kernel⟩

theorem witness_WindReportsMoveTheCell_orders :
    (stowBlocked home = false ∧ home.axis.refEl = true ∧ home.axis.stowMark = false ∧
      stowBlocked (lockedBy [remoteEntry 5 Scope.dish]) = true) ∧
    (∀ x ∈ [(moving .leg [soloEntry] (some (legOf .normal .solo)), Motion.stopping),
        (stopped .lock 5, .stopping), (moving .halted [] none, .halted),
        (lockedBy [remoteEntry 5 Scope.dish], .idle),
        ((inGap 5 [soloEntry]).withLock (lockedBy [remoteEntry 5 Scope.dish]).lock, .idle),
        (home, .stowing), (inGap 5 [soloEntry], .stowing),
        (home.withAxis { home.axis with posEl := 88000 }, .stowed)],
      (after (.windReceived 17 3 2 200 0) x.1).axis.motion = x.2 ∧
      (after (.windReceived 17 3 2 200 0) x.1).axis.queue.map (·.origin) =
        if x.2 = .stowed then [] else [.stow]) := by decide +kernel

theorem witness_ABoundaryMakesASelection_zones :
    (icy.heater.nextBoundary = some 300 ∧ demand icy = true) ∧
    takeWalk icy.heater.zones (fun z => z.enable && demand icy) (walk icy)
      (heldShares icy - icy.share.motion) = [0, 1] ∧
    (after .heaterBoundary icy).heater.claims = [0, 1] ∧
    (after .heaterBoundary icy).share.claim = .queued ∧
    (∀ x ∈ [ZoneState.off, .want, .rest, .claim, .on],
      ((after .heaterBoundary (icy.withHeater { icy.heater with
        zones := [⟨true, 6, x, none, 7, none⟩, ⟨true, 16, x, none, 7, none⟩]
        claims := if x = .claim then [0, 1] else []
        onOrder := if x = .on then [0, 1] else [] })).heater.zones.map fun z =>
          (z.state, z.lastCause)) =
      [(if x = .on then .on else .claim, none), (.want, if x = .on then some .duty else none)]) ∧
    (after .heaterBoundary { icy with seq := { icy.seq with station := .faulted .clash } }) =
      { icy with seq := { icy.seq with station := .faulted .clash } } := by decide +kernel

/-- The station with a first zone ON past its duty and a second that wants its shares. -/
def handingOn : State :=
  { icy with
    heater := { icy.heater with
      zones := [⟨true, 16, .on, some ⟨1, 0⟩, 225000, none⟩, ⟨true, 10, .want, none, 0, none⟩]
      onOrder := [0], duty := 75, nextBoundary := some 600 }
    share := { icy.share with heaterCommit := 16, heaterWant := 26 } }

theorem witness_DutyEndsAZonesRun_top_up :
    (after (.dutyEnd 0) handingOn).heater.zones.map (·.state) = [.rest, .claim] ∧
    (after (.dutyEnd 0) handingOn).heater.claims = [1] ∧
    (after (.dutyEnd 0) (handingOn.withSensor home.sensor)).heater.zones.map (·.state) =
      [.rest, .want] ∧
    contactor handingOn 0 = true ∧ contactor (after (.dutyEnd 0) handingOn) 0 = false := by
  decide +kernel

theorem witness_AnInrushReservesItsWindow_late :
    (∀ x ∈ [(100600, true), (100451, true), (100450, false), (100000, false)],
      (match (after .attemptSucceeds { claiming .sent 0 0 with
        line := (sending (.inrush ⟨x.1 / 1000, x.1 % 1000⟩ 2)).line }).share.claim with
        | .won start 2 true => start == x.1 && x.2
        | .queued => !x.2
        | _ => false) = true) ∧
    ((after .attemptSucceeds { claiming .sent 0 0 with
      line := (sending (.inrush ⟨100, 500⟩ 2)).line }).heater.zones.map (·.state) =
      [.on, .claim]) ∧
    (after .attemptSucceeds (sending (.inrush ⟨100, 0⟩ 2))).share.claim = .none ∧
    (after (.inrush 17 ⟨101, 0⟩ 8) ((queued (.inrush ⟨100, 0⟩ 2) false).withShare { home.share with
      claim := .queued, claimCount := 2 })).line.queue.map (·.frame) = [.inrush ⟨101, 500⟩ 2] := by
  decide +kernel

theorem witness_AHeatResetSwitchesOff_loans :
    KnownConsole busy 60 ∧ LoansOk busy.share ∧ transmits busy = true ∧ busy.line.queue = [] ∧
    (after (.resetHeat 60 16) busy).line.queue.map (·.frame) = [.shareBack 17 5] ∧
    (after (.resetHeat 60 16) busy).share.loans.map (·.peer) = [18] :=
  ⟨known60_of rfl rfl rfl, by decide, by decide, by decide, by decide +kernel, by decide +kernel⟩

theorem witness_SharesAreAskedAndGranted_waiting :
    KnownDish granting 17 ∧
    (after (.shareAsk 17 16) granting).line.queue.map (fun e => (e.frame, e.stillWanted)) =
      [(.shareGrant 17 14 0, 16)] ∧
    (after (.shareAsk 17 16) { granting with share := (short none).share }).line.queue = [] ∧
    (after (.shareGrant 17 16 16 500) (home.withShare { home.share with heaterWant := 25 })
      ).line.queue.map (·.frame) = [.shareBack 17 11] ∧
    (∀ x ∈ [(3, [1]), (4, []), (1, [2])],
      (after (.shareGrant 18 17 x.1 500) { granting with peers := { home.peers with
        table := [heardPeer 17, heardPeer 18, heardPeer 60] } }).line.queue.map (fun e =>
          match e.frame with
          | .shareGrant _ a _ => a
          | _ => 0) = x.2) := by
  refine ⟨known17_of rfl rfl rfl, ?_⟩
  decide +kernel

theorem witness_LoansEndAtTheirExpiry_shed :
    (after (.borrowedExpiry 17) { handingOn with
      share := { handingOn.share with loans := [⟨17, false, 5, 300, false, 0⟩] } }
      ).heater.zones.map (fun z => (z.state, z.lastCause)) = [(.on, none), (.want, none)] ∧
    (after (.borrowedExpiry 17) { handingOn with
      seq := { handingOn.seq with config := some { config with entitlement := 12 } }
      share := { handingOn.share with loans := [⟨17, false, 5, 300, false, 0⟩] } }
      ).heater.zones.map (fun z => (z.state, z.lastCause)) =
        [(.rest, some .shed), (.claim, none)] := by decide +kernel

theorem witness_OwnFramesActAtTheirCompletion_wind :
    (∀ st ∈ [Status.ok, .degraded], ∀ cause ∈ [0, 1, 2],
      (cellAt (after .attemptSucceeds ((sending (.wind 3 2 200 cause)).withSensor { home.sensor with
        status := st })) 3).roster.map (fun e => (e.station, e.level, e.working)) =
        [(16, some .stow, true)]) ∧
    (after .attemptSucceeds (sending (.wind 3 2 200 0))).axis.stowMark = true ∧
    (cellAt (after .attemptSucceeds (sending (.wind 3 1 160 0))) 3).state = .watch ∧
    (after .attemptSucceeds (sending (.shareGrant 18 3 700))).share.loans = [] ∧
    flagRecord (after .attemptSucceeds (sending (.shareGrant 18 3 700))) flagLoanLost =
      ⟨true, 18, 0, ⟨100, 600⟩⟩ := by decide +kernel

/-! ### Instants taken at a step of the seconds, compacts flown and left, and the outputs -/

/-- The station just before a heater boundary, flying a compact whose deadline is that boundary. -/
def beforeInstants : State :=
  (withRecord { record .moving .accepted .accepted [] with deadline := ⟨300, 0⟩ }).withTime
    { home.time with sec := 299 }

/-- A pulse and a BEACON take the instants that they reach at once, ahead of a command that waits.
-/
theorem test_instants_are_taken_at_the_step :
    ∀ i ∈ [.secondPulse, .beaconReceived 17 { beacon with sec := 300 }], ∀ t ∈
        [after i (beforeInstants.withPending [.cancel 60 7])],
      t.compact.list.map (·.state) = [.timedOut] ∧ t.heater.nextBoundary = some 600 ∧
      t.pending = [.cancel 60 7] := by decide +kernel

theorem witness_ThePulseAlignsAndTimeNeverDecreases_instants :
    (500 ≤ beforeInstants.time.ms ∧ beforeInstants.time.sec < lastSecond) ∧
    dueInstants (beforeInstants.withTime { beforeInstants.time with
      sec := 300, ms := 0, watch := 0 }) = [.compactDeadline 7, .scanStart, .heaterBoundary] ∧
    dueInstants (home.withTime { home.time with sec := 100, ms := 700 }) = [] := by decide +kernel

theorem witness_ABeaconIsRecorded_instants :
    KnownDish beforeInstants 17 ∧ beaconDefined { beacon with sec := 300 } = true ∧
    beforeInstants.time.sec < 300 ∧
    (dueInstants ((frameRead beforeInstants 17).withTime
      { beforeInstants.time with sec := 300 })).length = 3 :=
  ⟨known17_of rfl rfl rfl, by decide +kernel⟩

theorem witness_TheTimeSourceIsWatched_events :
    (home.report.flags.length = 16 ∧ home.line.queue = [] ∧ transmits home = true) ∧
    (∀ n ∈ [0, 2, 10, 13, 15], flagOn home n = false ∧ (reportMask home).getLsbD n = true) ∧
    flagOn (setFlag home 2 1 0) 2 = true ∧ transmits (inState .listen) = false ∧
    (reportMask (inState .listen |>.withSeq { home.seq with config := none })).getLsbD 13 = false ∧
    (setFlag home flagCompactFailed 21 7).line.queue.map (fun x => (x.frame, x.slot)) =
      [(.event 10 21 ⟨100, 600⟩, 0)] ∧
    (setFlag home flagDriveFault 1 0).line.queue.map (fun x => (x.frame, x.slot)) =
      [(.event 2 1 ⟨100, 600⟩, 8)] := by decide +kernel

/-- The JOINT entry of compact 7, and one with a second leg to fly. -/
def jointEntries : List MoveEntry :=
  [{ soloEntry with origin := .joint, compactId := 7 },
    { soloEntry with origin := .joint, compactId := 7, plan := some ⟨0, 45000, 1, 2⟩ }]

/-- The station in a leg of compact 7, in a state of its record. -/
def jointLeg (st : CompactState) (e : MoveEntry) : State :=
  (moving .leg [e] (some (legOf .normal .joint))).withCompact { home.compact with
    list := [{ record st .accepted .accepted (if st = .held then [17] else []) with
      inserted := true }] }

/-- A compact that the station flies alone. -/
def flown : CompactRecord := { record .moving .accepted .accepted [] with inserted := true }

theorem fliesAlone (e : MoveEntry) : FliesAlone (jointLeg .moving e) flown := by
  exact ⟨rfl, rfl, rfl, rfl, rfl, by decide, rfl⟩

theorem witness_AGapEndsInTheNextLeg_joint :
    ∀ e ∈ [{ freshEntry with origin := .joint, compactId := 7 }], ∀ h ∈ [true, false],
      ∀ s ∈ [(inGap 100 [e]).withAxis { (inGap 100 [e]).axis with jointHeld := h }],
        (planOf s e).count ≠ 0 ∧ sweepTest s (legSweep s (nextLeg s e (planOf s e))) = [] ∧
        (after .gapMinimumEnd s).axis.motion = (if h then .gap else .leg) := by decide +kernel

theorem witness_LegsEnd_joint :
    (∀ e ∈ jointEntries, ∀ st ∈ [CompactState.moving, .held, .timedOut, .abandoned, .cancelled],
      (findRecord (jointLeg st e) 7).isSome = true ∧
      (after (.legEnd ⟨20000, 45000⟩) (jointLeg st e)).line.queue.map (·.frame) =
        if lastFlown e && st ∈ [.moving, .held, .timedOut] then
          .arrive 7 20000 45000 :: (if st = .timedOut then [.event 11 16 ⟨100, 600⟩] else [])
        else []) ∧
    jointEntries.map lastFlown = [true, false] ∧
    transmits (jointLeg .moving soloEntry) = true ∧ findRecord (moving .leg [] none) 7 = none ∧
    (∀ e ∈ jointEntries, ∀ s ∈ [(jointLeg .cancelled e).withAxis
        { (jointLeg .cancelled e).axis with withdrawPending := true }],
      (after (.legEnd ⟨20000, 45000⟩) s).axis.queue = []) := by decide +kernel

theorem witness_AxisFaultsHaltTheDish_compact :
    ∀ e ∈ jointEntries, FliesAlone (jointLeg .moving e) flown ∧
      (jointLeg .moving e).axis.queue = e :: [] ∧ e.origin = .joint ∧ e.compactId = flown.id ∧
      (after (.amplifierFault .az ⟨0, 0⟩) (jointLeg .moving e)).line.queue.map (·.frame) =
        [.leave 7 7, .event 10 7 ⟨100, 600⟩, .event 2 1 ⟨100, 600⟩] :=
  fun e h => ⟨fliesAlone e, rfl, by revert e; decide +kernel⟩

theorem witness_RemoteLocksAreSetAndCleared_compact :
    (∀ e ∈ jointEntries, FliesAlone (jointLeg .moving e) flown ∧
      KnownConsole (jointLeg .moving e) 60 ∧
      (after (.lockSet 60 16 6 ⟨true, false, false⟩) (jointLeg .moving e)).line.queue.map
        (·.frame) = [.leave 7 15, .event 10 15 ⟨100, 600⟩,
          .lockNotice ⟨true, false, false⟩ 1 0 1, .answer 60 4 6 0 none]) ∧
    (after (.lockSet 60 16 6 ⟨true, false, false⟩)
      (withRecord (record .forming .accepted .accepted []))).compact.list =
        [record .forming .accepted .accepted []] :=
  ⟨fun e h => ⟨fliesAlone e, known60_of rfl rfl rfl, by revert e; decide +kernel⟩,
    by decide +kernel⟩

theorem witness_WindReportsMoveTheCell_compact :
    ∀ e ∈ jointEntries, FliesAlone (jointLeg .moving e) flown ∧
      KnownDish (jointLeg .moving e) 17 ∧ obeys (jointLeg .moving e) 3 = true ∧
      (cellAt (jointLeg .moving e) 3).state ≠ .stow ∧
      (after (.windReceived 17 3 2 200 0) (jointLeg .moving e)).compact.list.map
        (fun r => (r.state, memberState r 16)) = [(.abandoned, some (.left 14))] :=
  fun e h => ⟨fliesAlone e, known17_of rfl rfl rfl, by revert e; decide +kernel⟩

/-- The station under a stow order, in a motion, its own cell the last to settle. -/
def settling (m : Motion) (q : List MoveEntry) : State :=
  ((withCell 3 (cellWith .settle .calm 0 300000)).withWind
    { (withCell 3 (cellWith .settle .calm 0 300000)).wind with ordered := true }).withAxis
      { home.axis with
        stowMark := true, motion := m, queue := q
        stop := if m = .stopping then some ⟨[.stow], 5, 0⟩ else none
        leg := if m = .stowing then stowFlight.axis.leg else none }

theorem witness_CellsAreReleasedByTheirRuns_axes :
    (∀ d ∈ [0, 1, 2, 4, 5, 6, 7], (cellAt (settling .idle []) d).state = .calm) ∧
    (∀ x ∈ [(Motion.stowed, [], Motion.idle, 0), (.idle, [stowEntry home], .idle, 0),
        (.halted, [stowEntry home], .halted, 0), (.stopping, [stowEntry home], .stopping, 0),
        (.stowing, [stowEntry home], .stowing, 1)],
      ∀ t ∈ [after (.settleExpiry 3) (settling x.1 x.2.1)],
        t.axis.motion = x.2.2.1 ∧ t.axis.queue.length = x.2.2.2 ∧ t.axis.stowMark = false ∧
        t.axis.stop.map (·.reasons) = if x.1 = .stopping then some [.stow, .calm] else none) := by
  decide +kernel

/-- The lamps and the FAULT line by the lock mask, the stow and the flags. -/
theorem test_lamps :
    lockLamp home = false ∧ lockLamp (lockedBy [remoteEntry 5 Scope.dish]) = true ∧
    stowLamp home = false ∧ stowLamp stowFlight = true ∧ faultLine home = false ∧
    faultLine (setFlag home flagDriveFault 1 0) = true ∧
    faultLine (setFlag home flagCompactFailed 21 7) = false ∧
    faultLine (inState (.faulted .clash)) = true ∧
    (∀ t ∈ [judgeBlocked ((moving .halted [] none).withWind { home.wind with ordered := true })],
      t.wind.blocked = true ∧ stowLamp t = true) := by decide +kernel

/-! ### Frames of a dish, FAULTED of kind CLASH, and the clauses that the readings and a return meet -/

/-- The frames that only a console's sending gives a meaning, from one sender. -/
def consoleFrames (n : Nat) : List Instr :=
  [.queryIdent n 16 1 0, .queryDish n 16 0 ⟨5, 6⟩, .queryMelt n 16 0, .queryPeer n 16 17,
   .movePoint n 16 0 20000 45000 0, .moveReferenceAz n 16, .moveReferenceEl n 16, .call n callTo]

theorem witness_RemoteAllResetRestarts_dish :
    KnownDish home 17 ∧ ∀ i ∈ [Instr.resetAll 17 16 1 ⟨16, false⟩, .resetMotion 17 16,
      .resetHeat 17 16, .clear 17 16 2], after i home = frameRead home 17 :=
  ⟨known17, by decide +kernel⟩

theorem witness_QueriesAreAnswered_read :
    KnownDish home 17 ∧ KnownConsole (inState (.faulted .clash)) 60 ∧
    (∀ i ∈ consoleFrames 17, after i home = frameRead home 17) ∧
    ∀ i ∈ consoleFrames 60,
      after i (inState (.faulted .clash)) = frameRead (inState (.faulted .clash)) 60 :=
  ⟨known17, known60_of (by decide) rfl rfl, by decide +kernel, by decide +kernel⟩

theorem witness_ClearClearsTheNamedFlags_kept :
    ∀ s ∈ [(inState .listen).withReport { home.report with
        pending := List.replicate 4 ⟨60, 1, 256⟩ }],
      KnownConsole s 60 ∧ s.report.flags.length = 16 ∧ 4 ≤ s.report.pending.length ∧
        after (.clear 60 16 2) s = frameRead s 60 := by
  intro s h
  simp only [List.mem_singleton] at h
  subst h
  exact ⟨known60_of (by decide) rfl rfl, by decide +kernel, by decide +kernel, by decide +kernel⟩

theorem witness_CallsAreEvaluated_read :
    ∀ p ∈ [{ callTo with id := 0 }, { callTo with start := ⟨200, 1000⟩ },
      { callTo with deadline := ⟨300, 1000⟩ }], after (.call 60 p) home = frameRead home 60 := by
  decide +kernel

/-- LOAD with one input at fault, or with none: the motion, the pair and the flags. -/
theorem witness_LoadSuccessEntersSelfcheck_inputs :
    InputsClear loading ∧ loading.axis.motion = .idle ∧ loading.heater = HeaterUnit.initial ∧
    loading.report.flags.length = 16 ∧
    (∀ t ∈ [after (.loadAttemptComplete true goodRecord) loading], t.axis.motion = .idle ∧
      t.heater.zones = [⟨true, 6, .off, none, 0, none⟩, ⟨true, 6, .off, none, 0, none⟩]) ∧
    (∀ x ∈ [({ home.pins with azLower := true }, flagAxisLimit, false),
        ({ home.pins with elLower := true, elUpper := true }, flagAxisLimit, true),
        ({ home.pins with elFault := true }, flagDriveFault, false),
        ({ home.pins with azValid := false }, flagEncoderFault, false)],
      ¬ InputsClear (loading.withPins x.1) ∧
      ∀ t ∈ [after (.loadAttemptComplete true goodRecord) (loading.withPins x.1)],
        t.axis.motion = .halted ∧ flagOn t x.2.1 = true ∧ t.axis.pairFaulted = x.2.2) ∧
    (InputsClear (loading.withPins { home.pins with elUpper := true }) ∧
      (after (.loadAttemptComplete true goodRecord) (loading.withPins { home.pins with
        elUpper := true })).axis.motion = .idle) := by decide +kernel

/-- A hand-over of a frame that is no INRUSH, without a shortfall and with one. -/
theorem witness_HandOverStartsTheFirstFrame_rest :
    (LineOk (queued (.reply 7 0 0) false).line ∧ mayHandOver (queued (.reply 7 0 0) false) = true ∧
      (firstInOrder (queued (.reply 7 0 0) false).line.queue).map (·.started) = some false ∧
      shortfall home = 0 ∧ shortfall (short (some 0)) ≠ 0) ∧
    (after (.handOver ⟨5, 6⟩) (queued (.reply 7 0 0) false)).share = home.share ∧
    (after (.handOver ⟨5, 6⟩) { queued (.reply 7 0 0) false with
      share := (short none).share }).line.queue.map (·.frame) = [.reply 7 0 0, .shareAsk 16] ∧
    (after (.handOver ⟨5, 6⟩) { queued (.reply 7 0 0) false with
      seq := (inState (.faulted .config)).seq, share := (short none).share }).line.queue.map
        (fun e => (e.frame, e.started)) = [(.reply 7 0 0, true)] := by decide +kernel

/-- A cell with a working entry of dish 18 and one of dish 17 that works or not. -/
def watched (works : Bool) : Cell :=
  { cellWith .calm .calm 0 0 with
    roster := [⟨18, some .calm, .ok, true⟩, ⟨17, some .calm, .ok, works⟩] }

/-- The station that flies a compact with dish 17, and has borrowed of it, when dish 17 is ABSENT. -/
def returning : State :=
  { partnered with
    peers := ⟨[{ heardPeer 17 with present := false, silence := 1500 }, heardPeer 60], some 0, 4⟩
    wind := { home.wind with
      cells := (home.wind.cells.set 3 (watched false)).set 2 (watched true), lastNamed := [(17, 3)] } }

/-- A cell whose only entry is of dish 17, which does not work, with the level CALM kept. -/
def abandoned (st : CellState) : Cell :=
  { cellWith st .calm 2000000 2000000 with roster := [⟨17, some .calm, .ok, false⟩] }

/-- The returned station's kept level releases no cell; its first report of CALM does. -/
theorem witness_FramesRecordTheirSender_releases_none :
    ∀ st ∈ [CellState.watch, .settle, .stow], ∀ t ∈ [after (.eventReceived 17) { returning with
        wind := { returning.wind with cells := home.wind.cells.set 3 (abandoned st) } }],
      (cellAt t 3).state = st ∧ (cellAt t 3).roster = [⟨17, none, .ok, true⟩] ∧
      (cellAt (after (.windReceived 17 3 0 50 0) t) 3).state =
        if st = .stow then .settle else .calm := by decide +kernel

theorem witness_FramesRecordTheirSender_return :
    (receives returning = true ∧ PeersOk returning.peers ∧ isPresent returning 17 = false ∧
      (peerEntry returning 17).lastHeard.isSome = true ∧ LoansOk returning.share ∧
      CompactOk returning.compact ∧ lastNamed returning 17 = some 3 ∧
      (findRecord returning 7).isSome = true ∧ returning.report.flags.length = 16) ∧
    (∀ t ∈ [after (.eventReceived 17) returning], t.share.loans = [] ∧
      flagRecord t flagLoanLost = ⟨true, 17, 0, ⟨100, 600⟩⟩ ∧
      t.compact.list.map (fun r => memberState r 17) = [some (.left 17)] ∧
      (cellAt t 3).roster = [⟨18, some .calm, .ok, true⟩, ⟨17, none, .ok, true⟩]) ∧
    ((peerEntry home 18).lastHeard = none ∧ lastNamed home 18 = none ∧
      (after (.eventReceived 18) home).wind = home.wind) := by decide +kernel

/-- A clash in LISTEN with obeyed cells that call for no stow, and with one that does. -/
theorem witness_TheOwnNumberOnTheLineIsAClash_listen :
    (∀ m ∈ [Motion.leg, .idle], ∀ s ∈ [{ returning with
        seq := (inState .listen).seq, axis := (moving m [soloEntry] none).axis }],
      s.seq.station = .listen ∧ NoStowDue s ∧
      (after (.answerReceived 16) s).wind.ordered = false ∧
      (after (.answerReceived 16) s).axis =
        if m = .leg then flushed (stopping s.axis .clash) else flushed s.axis) ∧
    (∀ c ∈ [home.wind.cells.getD 3 Cell.initial, cellWith .stow .stow 0 0,
        cellWith .settle .calm 0 299999], ∀ s ∈ [{ returning with
        seq := (inState .listen).seq
        wind := { returning.wind with cells := returning.wind.cells.set 3 c } }],
      StowDue s ∧ s.axis.stowMark = false ∧
      (after (.answerReceived 16) s).wind.ordered = true ∧
      (after (.answerReceived 16) s).axis.queue.map (·.origin) = [.stow] ∧
      (after (.answerReceived 16) s).axis.motion = .idle) := by decide +kernel

/-- The failing outcomes kept in LISTEN, and a mask that gains HEAT with a move waiting. -/
theorem witness_RemoteLocksAreSetAndCleared_kept :
    (∀ x ∈ [(Instr.lockSet 17 16 5 Scope.dish, 6), (.lockSet 60 16 0 Scope.dish, 7),
        (.lockSet 60 16 5 Scope.none, 7), (.lockSet 60 16 5 Scope.dish, 4), (.lockClear 17 16 5, 6),
        (.lockClear 60 16 6, 5)],
      (after x.1 ((inState .listen).withLock (lockedBy [remoteEntry 5 Scope.dish]).lock)
        ).lock.pending.map (·.outcome) = [x.2]) ∧
    (∀ s ∈ [warm.withAxis (moving .gap [freshEntry] none).axis], s.axis.queue ≠ [] ∧
      (lockMask s).heat = false ∧
      (after (.lockSet 60 16 6 ⟨false, false, true⟩) s).heater.zones.map
        (fun z => (z.state, z.lastCause)) = [(.off, some .lock), (.off, some .lock)]) := by
  decide +kernel

/-- A clash names the one live record that held the own state ACCEPTED, or one of several. -/
theorem witness_TheOwnNumberOnTheLineIsAClash_failed :
    liveAccepted home = [] ∧
    (∀ r ∈ [record .forming .accepted .accepted [], record .held .accepted .accepted [17]],
      liveAccepted (withRecord r) = [7] ∧
      (flagRecord (after (.answerReceived 16) (withRecord r)) flagCompactFailed).extra = 7) ∧
    (∀ r ∈ [record .complete .accepted .accepted [], record .moving (.left 14) .accepted []],
      liveAccepted (withRecord r) = [] ∧
      flagOn (after (.answerReceived 16) (withRecord r)) flagCompactFailed = false) ∧
    (∀ s ∈ [withRecord (record .forming .accepted .accepted [])],
      liveAccepted (s.withCompact { s.compact with list := s.compact.list ++
        [{ record .forming .accepted .accepted [] with id := 8, start := ⟨101, 0⟩ }] }) =
          [7, 8]) := by decide +kernel

/-- A MOTION reset that finds both elevation limits active marks the pair. -/
theorem witness_AMotionResetStopsAndFlushes_pair :
    ∀ s ∈ [(moving .halted [] none).withPins { home.pins with elLower := true, elUpper := true }],
      faultsPresent s = [(flagAxisLimit, 6)] ∧ s.axis.pairFaulted = false ∧
      (after (.resetMotion 60 16) s).axis = { flushed s.axis with pairFaulted := true } ∧
      flagRecord (after (.resetMotion 60 16) s) flagAxisLimit = ⟨true, 6, 0, ⟨100, 600⟩⟩ := by
  decide +kernel

/-- An own HOLD without a warning, an own RESUME that empties the set, a grant that adds to a loan. -/
theorem witness_OwnFramesActAtTheirCompletion_again :
    (∀ r ∈ [record .moving .accepted .accepted [], record .forming .accepted .accepted [17]],
      warning (flying (.hold 7) r) = false ∧ isLive r = true ∧
      (after .attemptSucceeds (flying (.hold 7) r)).compact.list.map (·.holds) =
        [r.holds ++ [16]] ∧
      (after .attemptSucceeds (flying (.hold 7) r)).line.queue.map (·.frame) = [.resume 7]) ∧
    ((record .held .accepted .accepted [16]).holds.filter (· != home.seq.number) = [] ∧
      (after .attemptSucceeds (flying (.resume 7) (record .held .accepted .accepted [16]))
        ).compact.list.map (fun r => (r.state, r.holds)) = [(.moving, [])]) ∧
    (∀ s ∈ [{ sending (.shareGrant 17 3 700) with
        share := { home.share with loans := [⟨17, true, 2, 600, true, 9⟩] } }],
      isPresent s 17 = true ∧ (findLoan s 17 true).isSome = true ∧
      (after .attemptSucceeds s).share.loans = [⟨17, true, 5, 700, false, 0⟩]) ∧
    (after .attemptSucceeds (sending (.hold 7))).line.queue = [] := by decide +kernel

/-- CONFIG index 0 names the sender of a remote reset, and has no bytes for one otherwise. -/
theorem test_config_sender :
    (configValue home 0).map valueBytes = some ([16, 1, 0].map (BitVec.ofNat 8)) ∧
    (configValue (home.withSeq { home.seq with cause := .remote, remoteSender := 60 }) 0).map
      valueBytes = some ([16, 3, 60, 0].map (BitVec.ofNat 8)) := by decide +kernel

end Sys2Proof.Tests
end

section
/-! PROOFS. The Compact Unit's answers to REPLY, CANCEL, ARRIVE and LEAVE (R100, R107, R108, R109,
R113): first what a record's end changes, then the statements. -/

namespace Sys2Proof.Machine

variable {s t : State} {r x : CompactRecord} {n id k : Nat}

/-! ### The taking of the frames -/

/-- A frame that only consoles send is only read where a dish sends it (R74). -/
theorem takeConsoleFrame_dish (h : Known s n) (hc : isConsole n = false)
    (deliver : State → State) : takeConsoleFrame s n deliver = frameRead s n := by
  unfold takeConsoleFrame
  rw [takeFrame_known h, if_neg (by simp [hc])]

theorem exec_reply_known (h : KnownDish s n) (verdict reason : Nat) :
    exec (.reply n id verdict reason) s =
      .next (takeReply (frameRead s n) n id verdict reason) :=
  congrArg Host.Outcome.next (takeDishFrame_known h _)

theorem exec_cancel_dish (h : Known s n) (hc : isConsole n = false) :
    exec (.cancel n id) s = .next (frameRead s n) :=
  congrArg Host.Outcome.next (takeConsoleFrame_dish h hc _)

theorem exec_cancel_known (h : KnownConsole s n) :
    exec (.cancel n id) s = .next (takeCancel (frameRead s n) n id) :=
  congrArg Host.Outcome.next (takeConsoleFrame_known h _)

theorem exec_arrive_known (h : KnownDish s n) (az el : Int) :
    exec (.arrive n id az el) s = .next (takeArrive (frameRead s n) n id az el) :=
  congrArg Host.Outcome.next (takeDishFrame_known h _)

theorem exec_leave_known (h : KnownDish s n) (reason : Nat) :
    exec (.leave n id reason) s = .next (takeLeave (frameRead s n) n id reason) :=
  congrArg Host.Outcome.next (takeDishFrame_known h _)

@[simp] theorem findRecord_frameRead (s : State) (n id : Nat) :
    findRecord (frameRead s n) id = findRecord s id := rfl

/-- What the Compact Unit's work on its records leaves as it was. -/
theorem Recs.elsewhere (h : Recs s t) : Elsewhere s t where
  pending := h.pending
  pins := h.pins
  seq := h.seq
  time := h.time
  peers := h.peers
  lock := h.lock
  keepOut := h.keepOut
  sensor := h.sensor
  cells := h.cells
  kept := h.kept

/-! ### Records and members -/

/-- Two states with one Compact List hold one record under each compact id. -/
theorem findRecord_congr (h : t.compact = s.compact) (id : Nat) :
    findRecord t id = findRecord s id := by
  unfold findRecord; rw [h]

/-- A change of one record leaves the record of every other compact id. -/
theorem findRecord_changeRecord_ne (s : State) (hk : k ≠ id) {f : CompactRecord → CompactRecord}
    (hf : ∀ r, (f r).id = r.id) : findRecord (changeRecord s id f) k = findRecord s k := by
  show List.find? _ (List.map _ _) = _
  unfold findRecord
  induction s.compact.list with
  | nil => rfl
  | cons x l ih =>
    by_cases hx : x.id = id
    · simpa [hx, hf, Ne.symm hk] using ih
    · by_cases hxk : x.id = k
      · simp [hxk, hk]
      · simpa [hx, hxk] using ih

/-- The state with one member's state set in one record. -/
def withMember (s : State) (id n : Nat) (m : MemberState) : State :=
  changeRecord s id fun x => setMember x n m

theorem findRecord_withMember (h : findRecord s id = some r) (n : Nat) (m : MemberState) :
    findRecord (withMember s id n m) id = some (setMember r n m) := by
  rw [withMember, findRecord_changeRecord s id (by exact fun _ => rfl), h, Option.map_some]

theorem findRecord_withMember_ne (s : State) (hk : k ≠ id) (n : Nat) (m : MemberState) :
    findRecord (withMember s id n m) k = findRecord s k :=
  findRecord_changeRecord_ne s hk fun _ => rfl

theorem withMember_recs (s : State) (id n : Nat) (m : MemberState) :
    Recs s (withMember s id n m) := setMember_recs (.refl s) id n m

@[simp] theorem setMember_partialMode (r : CompactRecord) (n : Nat) (m : MemberState) :
    (setMember r n m).partialMode = r.partialMode := rfl

@[simp] theorem isLive_setMember (r : CompactRecord) (n : Nat) (m : MemberState) :
    isLive (setMember r n m) = isLive r := rfl

@[simp] theorem isFlying_setMember (r : CompactRecord) (n : Nat) (m : MemberState) :
    isFlying (setMember r n m) = isFlying r := rfl

/-- A station with a member state is a member. -/
theorem isMember_of_memberState {m : MemberState} (h : memberState r n = some m) :
    isMember r n = true := by
  obtain ⟨e, he, _⟩ := Option.map_eq_some_iff.1 h
  exact List.any_eq_true.2 ⟨e, List.mem_of_find?_eq_some he, by simpa using List.find?_some he⟩

/-- The member that has arrived has not left, so that not every member has. -/
theorem all_isLeft_setMember_arrived {m : MemberState} (h : memberState r n = some m)
    (az el : Int) :
    ((setMember r n (.arrived az el)).members.all fun x => isLeft x.state) = false := by
  obtain ⟨e, he, _⟩ := Option.map_eq_some_iff.1 h
  refine List.all_eq_false.2 ⟨{ e with state := .arrived az el }, ?_, by simp [isLeft]⟩
  exact List.mem_map.2 ⟨e, List.mem_of_find?_eq_some he, if_pos (List.find?_some he)⟩

/-! ### The withdraw request (R27) -/

theorem judgeBlocked_compact (s : State) : (judgeBlocked s).compact = s.compact := by
  unfold judgeBlocked
  split
  · split
    · rfl
    · rw [(setFlag_quiet (.refl _) _ _ _).compact]
      rfl
  · split <;> rfl

/-- The judgement of stow-blocked sets no flag but STOW_BLOCKED (R149). -/
theorem judgeBlocked_flagRecord (h : s.report.flags.length = 16) (hn : n ≠ flagStowBlocked) :
    flagRecord (judgeBlocked s) n = flagRecord s n := by
  unfold judgeBlocked
  split
  · split
    · rfl
    · rw [(setFlag_records (by exact h) (by decide) _ _).2 n hn]
      rfl
  · split <;> rfl

theorem axisWithdraw_compact (s : State) (id : Nat) :
    (axisWithdraw s id).compact = s.compact := by
  unfold axisWithdraw
  split
  · split
    · rfl
    · exact judgeBlocked_compact _
    · rfl
    · rfl
  · rfl

theorem axisWithdraw_flagRecord (h : s.report.flags.length = 16) (hn : n ≠ flagStowBlocked)
    (id : Nat) : flagRecord (axisWithdraw s id) n = flagRecord s n := by
  unfold axisWithdraw
  split
  · split
    · rfl
    · exact judgeBlocked_flagRecord h hn
    · rfl
    · rfl
  · rfl

/-- In LEG the request stays pending until the leg's end (R27). -/
theorem axisWithdraw_leg (hm : s.axis.motion = .leg) (hj : headIsJoint s id = true) :
    axisWithdraw s id = s.withAxis { s.axis with withdrawPending := true } := by
  unfold axisWithdraw
  rw [if_pos hj, hm]

/-! ### The end of a record (R93, R115, R116) -/

/-- A record as its terminal state leaves it (R93). -/
def ended (s : State) (st : CompactState) (r : CompactRecord) : CompactRecord :=
  { r with state := st, terminalAt := some (now s), terminalRun := 0 }

@[simp] theorem ended_id (s : State) (st : CompactState) (r : CompactRecord) :
    (ended s st r).id = r.id := rfl

/-- The state with a record ended and COMPACT_FAILED set, before the withdraw request (R116). -/
def failedWith (s : State) (r : CompactRecord) (st : CompactState) (d : Nat) : State :=
  compactFailed (changeRecord s r.id (ended s st)) d r.id

/-- COMPLETE sets no flag and withdraws nothing. -/
theorem makeTerminal_complete (s : State) (r : CompactRecord) :
    makeTerminal s r .complete = changeRecord s r.id (ended s .complete) := rfl

/-- A failed record sets COMPACT_FAILED, and then withdraws the JOINT entry it inserted. -/
theorem makeTerminal_failed {st : CompactState} {d : Nat} (hd : terminalDetail st = some d) :
    makeTerminal s r st =
      if r.inserted then axisWithdraw (failedWith s r st d) r.id else failedWith s r st d := by
  unfold makeTerminal
  rw [hd]
  rfl

theorem failedWith_quiet (s : State) (r : CompactRecord) (st : CompactState) (d : Nat) :
    Quiet (changeRecord s r.id (ended s st)) (failedWith s r st d) :=
  setFlag_quiet (.refl _) _ _ _

theorem makeTerminal_compact (s : State) (r : CompactRecord) (st : CompactState) :
    (makeTerminal s r st).compact = (changeRecord s r.id (ended s st)).compact := by
  cases hd : terminalDetail st with
  | none => unfold makeTerminal; rw [hd]; rfl
  | some d =>
    have hq := (failedWith_quiet s r st d).compact
    rw [makeTerminal_failed hd]
    split
    · rw [axisWithdraw_compact, hq]
    · exact hq

/-- The record found has ended. -/
theorem findRecord_makeTerminal (h : findRecord s id = some r) (st : CompactState) :
    findRecord (makeTerminal s r st) id = some (ended s st r) := by
  rw [findRecord_congr (makeTerminal_compact s r st), (findRecord_some h).2,
    findRecord_changeRecord s id (ended_id s st), h, Option.map_some]

theorem findRecord_makeTerminal_ne (hk : k ≠ r.id) (st : CompactState) :
    findRecord (makeTerminal s r st) k = findRecord s k := by
  rw [findRecord_congr (makeTerminal_compact s r st),
    findRecord_changeRecord_ne s hk (ended_id s st)]

/-- COMPACT_FAILED names the record and the way it failed (R116, R189). -/
theorem makeTerminal_flag {st : CompactState} {d : Nat} (hd : terminalDetail st = some d)
    (h : s.report.flags.length = 16) :
    flagRecord (makeTerminal s r st) flagCompactFailed = ⟨true, d, r.id, now s⟩ := by
  have hset : flagRecord (failedWith s r st d) flagCompactFailed = ⟨true, d, r.id, now s⟩ :=
    (setFlag_records (s := changeRecord s r.id (ended s st)) h (by decide) d r.id).1
  rw [makeTerminal_failed hd]
  split
  · rw [axisWithdraw_flagRecord ((failedWith_quiet s r st d).flags.trans h) (by decide), hset]
  · exact hset

/-- A record that has inserted no JOINT entry leaves the Axis Engine as it is. -/
theorem makeTerminal_axis_of_not_inserted (hi : r.inserted = false) {st : CompactState} {d : Nat}
    (hd : terminalDetail st = some d) : (makeTerminal s r st).axis = s.axis := by
  rw [makeTerminal_failed hd, if_neg (by simp [hi])]
  exact (failedWith_quiet s r st d).axis

/-- The JOINT entry in flight is withdrawn at its leg's end (R27, R115). -/
theorem makeTerminal_axis_of_leg (hi : r.inserted = true) {st : CompactState} {d : Nat}
    (hd : terminalDetail st = some d) (hm : s.axis.motion = .leg)
    (hj : headIsJoint s r.id = true) :
    (makeTerminal s r st).axis = { s.axis with withdrawPending := true } := by
  have ha : (failedWith s r st d).axis = s.axis := (failedWith_quiet s r st d).axis
  have hj' : headIsJoint (failedWith s r st d) r.id = true := by
    unfold headIsJoint at hj ⊢; rw [ha]; exact hj
  rw [makeTerminal_failed hd, if_pos hi, axisWithdraw_leg (ha ▸ hm) hj', withAxis_axis, ha]

/-! ### The completion test and the response to a LEFT (R107, R109) -/

/-- The completion test of a record in MOVING or HELD. -/
theorem completionTest_of_isFlying (h : findRecord s id = some r) (hf : isFlying r = true) :
    completionTest s id =
      if r.members.all fun m => isLeft m.state then makeTerminal s r .abandoned
      else if r.members.all fun m => isLeft m.state || isArrived m.state then
        makeTerminal s r .complete
      else s := by
  simp only [completionTest, h, hf, if_true]

/-- In FORMING the completion test is not made. -/
theorem completionTest_of_not_isFlying (h : findRecord s id = some r) (hf : isFlying r = false) :
    completionTest s id = s := by
  simp [completionTest, h, hf]

/-- While a member has not left, the completion test leaves the Axis Engine as it is. -/
theorem completionTest_axis (h : findRecord s id = some r)
    (hs : (r.members.all fun m => isLeft m.state) = false) :
    (completionTest s id).axis = s.axis := by
  cases hf : isFlying r with
  | false => rw [completionTest_of_not_isFlying h hf]
  | true =>
    rw [completionTest_of_isFlying h hf, if_neg (by simp [hs])]
    split
    · rw [makeTerminal_complete]
      rfl
    · rfl

theorem afterLeft_of_isLive (h : findRecord s id = some r) (hl : isLive r = true) :
    afterLeft s id =
      if r.partialMode then completionTest s id else makeTerminal s r .abandoned := by
  simp only [afterLeft, h, hl, if_true]

theorem findRecord_completionTest_ne (s : State) (hk : k ≠ id) :
    findRecord (completionTest s id) k = findRecord s k := by
  unfold completionTest
  split
  · rename_i r hr
    have hk' : k ≠ r.id := (findRecord_some hr).2 ▸ hk
    split
    · split
      · exact findRecord_makeTerminal_ne hk' _
      · split
        · exact findRecord_makeTerminal_ne hk' _
        · rfl
    · rfl
  · rfl

theorem findRecord_afterLeft_ne (s : State) (hk : k ≠ id) :
    findRecord (afterLeft s id) k = findRecord s k := by
  unfold afterLeft
  split
  · rename_i r hr
    split
    · split
      · exact findRecord_completionTest_ne s hk
      · exact findRecord_makeTerminal_ne ((findRecord_some hr).2 ▸ hk) _
    · rfl
  · rfl

/-- A record as the completion test leaves it (R107). -/
theorem findRecord_completionTest (h : findRecord s id = some r) :
    findRecord (completionTest s id) id = some (
      if isFlying r = true ∧ r.members.all (fun m => isLeft m.state) then ended s .abandoned r
      else if isFlying r = true ∧ r.members.all (fun m => isLeft m.state || isArrived m.state) then
        ended s .complete r
      else r) := by
  cases hf : isFlying r with
  | false => simp [completionTest_of_not_isFlying h hf, h]
  | true =>
    rw [completionTest_of_isFlying h hf]
    simp only [true_and]
    split
    · exact findRecord_makeTerminal h _
    · split
      · exact findRecord_makeTerminal h _
      · exact h

/-- A live record as the response to a LEFT leaves it (R109). -/
theorem findRecord_afterLeft (h : findRecord s id = some r) (hl : isLive r = true) :
    findRecord (afterLeft s id) id = some (
      if r.partialMode = false ∨ isFlying r = true ∧ r.members.all (fun m => isLeft m.state) then
        ended s .abandoned r
      else if isFlying r = true ∧ r.members.all (fun m => isLeft m.state || isArrived m.state) then
        ended s .complete r
      else r) := by
  rw [afterLeft_of_isLive h hl]
  cases hp : r.partialMode with
  | false => simpa using findRecord_makeTerminal h .abandoned
  | true => simpa using findRecord_completionTest h

/-! ### The frames -/

/-- A REPLY that R100 lets stand sets the member state. -/
theorem takeReply_sets {m st : MemberState} {verdict reason : Nat} (h : findRecord s id = some r)
    (hs : r.state = .forming) (hm : memberState r n = some m) (hl : mayLeave m = true)
    (hv : verdict = 0 ∧ reason = 0 ∧ st = .accepted ∨
      verdict = 1 ∧ 1 ≤ reason ∧ reason ≤ 13 ∧ reason ≠ 2 ∧ st = .declined reason) :
    takeReply s n id verdict reason = withMember s id n st := by
  simp only [takeReply, h, isMember_of_memberState hm, hs, hm, hl]
  rcases hv with ⟨rfl, rfl, rfl⟩ | ⟨rfl, h1, h13, h2, rfl⟩
  · rfl
  · simp [isDeclineReason, reasonDuplicate, h1, h13, h2, withMember]

/-- Any other REPLY changes nothing (R100). -/
theorem takeReply_ignored {verdict reason : Nat} (h : findRecord s id = some r)
    (hi : r.state ≠ .forming ∨ memberState r n = none ∨
      (memberState r n).map mayLeave = some false ∨ 2 ≤ verdict ∨ verdict = 0 ∧ reason ≠ 0 ∨
      verdict = 1 ∧ (reason = 0 ∨ reason = 2 ∨ 13 < reason)) :
    takeReply s n id verdict reason = s := by
  simp only [takeReply, h]
  split
  · rename_i hc
    have hs : r.state = .forming := by simp_all
    split
    · rename_i m hm
      split
      · rename_i hl
        split
        · rename_i hv
          have : verdict = 0 ∧ reason = 0 := by simpa using hv
          simp [hs, hm, hl, this] at hi
        · split
          · rename_i hv
            have : verdict = 1 ∧ (1 ≤ reason ∧ reason ≤ 13) ∧ reason ≠ 2 := by
              simpa [isDeclineReason, reasonDuplicate, and_assoc] using hv
            simp [hs, hm, hl] at hi
            omega
          · rfl
      · rfl
    · rfl
  · rfl

/-- A CANCEL of the calling console ends a live record (R113). -/
theorem takeCancel_ends (h : findRecord s id = some r) (hn : r.console = n)
    (hc : isConsole n = true) (hl : isLive r = true) :
    takeCancel s n id = makeTerminal s r .cancelled := by
  simp [takeCancel, h, hn, hc, hl]

/-- A CANCEL of another console, or of a terminal record, changes nothing (R113). -/
theorem takeCancel_ignored (h : findRecord s id = some r)
    (hi : r.console ≠ n ∨ isLive r = false) : takeCancel s n id = s := by
  rcases hi with hn | hl
  · simp [takeCancel, h, hn]
  · simp [takeCancel, h, hl]

/-- An ARRIVE of a member that is not ACCEPTED changes nothing (R108). -/
theorem takeArrive_ignored (h : findRecord s id = some r) (hm : memberState r n ≠ some .accepted)
    (az el : Int) : takeArrive s n id az el = s := by
  simp [takeArrive, h, hm]

/-- An ARRIVE of an ACCEPTED member acts by the state of the record (R108). -/
theorem takeArrive_accepted (h : findRecord s id = some r)
    (hm : memberState r n = some .accepted) (az el : Int) :
    takeArrive s n id az el =
      if isFlying r then
        completionTest (withMember s id n (.arrived az el)) id
      else if r.state = .timedOut then
        setFlag (withMember s id n (.arrived az el)) flagCompactLate n id
      else s := by
  simp [takeArrive, h, hm, withMember]

/-- A LEAVE of another reason than those of R109, of a terminal record, or of a member that may not
leave changes nothing. -/
theorem takeLeave_ignored {reason : Nat} (h : findRecord s id = some r)
    (hi : isLeaveReason reason = false ∨ isLive r = false ∨
      ((memberState r n).map mayLeave).getD false = false) : takeLeave s n id reason = s := by
  unfold takeLeave
  split
  · rename_i hr
    simp only [memberLeaves, h]
    refine if_neg fun hc => ?_
    obtain ⟨hl, hm⟩ := Bool.and_eq_true_iff.1 hc
    simp [hr, hl, hm] at hi
  · rfl

/-- A LEAVE that R109 lets stand makes the member LEFT, and the record responds. -/
theorem takeLeave_leaves {reason : Nat} {m : MemberState} (h : findRecord s id = some r)
    (hr : isLeaveReason reason = true) (hl : isLive r = true) (hm : memberState r n = some m)
    (hy : mayLeave m = true) :
    takeLeave s n id reason =
      afterLeft (withMember s id n (.left reason)) id := by
  simp [takeLeave, memberLeaves, h, hr, hl, hm, hy, withMember]

/-! ### The statements -/

/-- Settles O37: the REPLY is read, and then either stands (`takeReply_sets`) or is ignored. -/
theorem repliesSetTheMemberState : Obligations.RepliesSetTheMemberState := by
  intro s n id verdict reason known
  rw [exec_reply_known known]
  refine ⟨fun hnone => ?_, fun r hr => ⟨fun hi => ?_, fun hs m st hm hl hv => ?_⟩⟩
  · rw [takeReply, findRecord_frameRead, hnone]
  · rw [takeReply_ignored (s := frameRead s n) hr hi]
  · rw [takeReply_sets (s := frameRead s n) hr hs hm hl hv]
    rfl

/-- Settles O39: a dish's CANCEL is only read, and that of the calling console makes the record
terminal. -/
theorem cancelEndsTheRecord : Obligations.CancelEndsTheRecord := by
  intro s n id known
  by_cases hc : isConsole n = true
  case neg =>
    simp only [Bool.not_eq_true] at hc
    rw [exec_cancel_dish known hc]
    simp [hc]
  case pos =>
    rw [exec_cancel_known ⟨known, hc⟩]
    refine ⟨fun hnone => ?_, fun r hr => ⟨fun hi => ?_, fun _ hn hl h16 => ?_⟩⟩
    · rw [takeCancel, findRecord_frameRead, hnone]
    · rw [takeCancel_ignored (s := frameRead s n) hr (by simpa [hc] using hi)]
    · obtain rfl : r.id = id := (findRecord_some hr).2
      rw [takeCancel_ends (s := frameRead s n) hr hn hc hl]
      have hd : terminalDetail .cancelled = some 22 := rfl
      exact ⟨_, rfl, makeTerminal_compact (frameRead s n) r .cancelled, makeTerminal_flag hd h16,
        (makeTerminal_recs (.refl _) r (by decide)).elsewhere,
        fun hi => makeTerminal_axis_of_not_inserted hi hd,
        fun hi hm hj => makeTerminal_axis_of_leg (s := frameRead s n) hi hd hm hj⟩

/-- Settles O40: the member that arrives has not left, so that the completion test of its record
ends in COMPLETE or in no change. -/
theorem arrivalsCompleteTheRecord : Obligations.ArrivalsCompleteTheRecord := by
  intro s n id az el known
  rw [exec_arrive_known known]
  refine ⟨fun hnone => ?_, fun r hr => ⟨fun hm => ?_, fun hm => ?_⟩⟩
  · rw [takeArrive, findRecord_frameRead, hnone]
  · rw [takeArrive_ignored (s := frameRead s n) hr hm]
  · rw [takeArrive_accepted (s := frameRead s n) hr hm]
    have hset := findRecord_withMember (s := frameRead s n) hr n (.arrived az el)
    have hrecs := withMember_recs (frameRead s n) id n (.arrived az el)
    refine ⟨fun hf => ?_, fun ht h16 => ?_, fun hs => ?_⟩
    · have hstay := all_isLeft_setMember_arrived hm az el
      rw [if_pos hf]
      refine ⟨_, rfl, ?_, fun k hk => ?_, completionTest_axis hset hstay,
        (completionTest_recs hrecs id).elsewhere⟩
      · rw [findRecord_completionTest hset, isFlying_setMember, hf, hstay]
        simp only [true_and]
        rfl
      · rw [findRecord_completionTest_ne _ hk, findRecord_withMember_ne _ hk,
          findRecord_frameRead]
    · have hq := setFlag_quiet (.refl (withMember (frameRead s n) id n (.arrived az el)))
        flagCompactLate n id
      rw [if_neg (by simp [isFlying, ht]), if_pos ht]
      exact ⟨_, rfl, (findRecord_congr hq.compact id).trans hset,
        (setFlag_records (s := withMember (frameRead s n) id n _) h16 (by decide) n id).1, hq.axis,
        (setFlag_recs hrecs _ _ _).elsewhere⟩
    · rw [if_neg (by rcases hs with h | h | h | h <;> simp [isFlying, h]),
        if_neg (by rcases hs with h | h | h | h <;> simp [h])]

/-- Settles O41: the member's record is set to LEFT, and `afterLeft` says what the record makes of
it. -/
theorem leavesEndTheMembership : Obligations.LeavesEndTheMembership := by
  intro s n id reason r known hr
  rw [exec_leave_known known]
  refine ⟨fun hi => ?_, ?_⟩
  · rw [takeLeave_ignored (s := frameRead s n) hr hi]
  · rintro hreason hl m hm hy h16 _ rfl
    rw [takeLeave_leaves (s := frameRead s n) hr hreason hl hm hy]
    have hset := findRecord_withMember (s := frameRead s n) hr n (.left reason)
    have hl' := (isLive_setMember r n (.left reason)).trans hl
    refine ⟨_, rfl, findRecord_afterLeft hset hl', fun k hk => ?_, fun hp => ?_,
      (afterLeft_recs (withMember_recs (frameRead s n) id n _) id).elsewhere⟩
    · rw [findRecord_afterLeft_ne _ hk, findRecord_withMember_ne _ hk, findRecord_frameRead]
    · obtain rfl : r.id = id := (findRecord_some hr).2
      rw [afterLeft_of_isLive hset hl', if_neg (by simp [hp])]
      exact makeTerminal_flag (r := setMember r n (.left reason)) rfl h16

end Sys2Proof.Machine
end

section
/-! PROOFS. The queue of commands and array time: what a step on an empty queue counts, and that
every step keeps `Inv` and, but for the restarts, array time (R78 to R82). -/

namespace Sys2Proof.Machine

/-- Settles O1: `step` reads the queue, and finds the command at its front. -/
theorem stepRunsTheFrontCommand : Obligations.StepRunsTheFrontCommand := by
  intro i rest s h
  unfold step
  rw [h]

/-- Settles O4: every clause is a bound on, or a shape of, the literal values of the reset. -/
theorem theInvariantHoldsAtReset : Obligations.TheInvariantHoldsAtReset where
  time := (by decide : TimeOk TimeUnit.initial)
  line := (by decide : LineOk LineUnit.initial)
  peers := (by decide : PeersOk PeerUnit.initial)
  axis := (by decide : AxisOk (AxisUnit.initial 0 0))
  lock := (by decide : LockOk (LockUnit.initial []))
  compact := (by decide : CompactOk CompactUnit.initial)
  sensor := (by decide : SensorOk SensorUnit.initial)
  wind := (by decide : WindOk WindUnit.initial)
  loans := (by decide : LoansOk ShareUnit.initial)
  report := (by decide : ReportOk (ReportUnit.initial FlagRecord.initial))

/-! ### Every command is sound -/

/-- A well-formed sender is a number of the Peer Table. -/
theorem wfSender_iff (n : Nat) : wfSender n = true ↔ 1 ≤ n ∧ n ≤ 63 := decide_eq_true_iff

/-- The seconds of a well-formed BEACON are array seconds. -/
theorem wfBeacon_sec {p : BeaconPayload} (h : wfBeacon p = true) : p.sec ≤ lastSecond := by
  have hs : wfQuad p.sec = true := by
    simp only [wfBeacon, Bool.and_eq_true] at h
    tauto
  have : p.sec < 4294967296 := of_decide_eq_true hs
  unfold lastSecond
  omega

/-- A command is answered by a next state, which keeps `Inv` and the queue, and array time unless it
is a restart: command by command, the lemma of its operation. -/
theorem exec_sound (s : State) : ∀ i : Instr, i.wf = true →
    ∃ t, exec i s = .next t ∧ Sound (isRestart i) s t
  | .powerOn x, _ => ⟨_, rfl, powerOnReset_sound (.refl _ s) x⟩
  | .pinReset x, _ => ⟨_, rfl, pinResetAll_sound (.refl _ s) x⟩
  | .resetHold low, _ => ⟨_, rfl, holdReset_sound (.refl _ s) low⟩
  | .loadAttemptComplete acked b, _ => ⟨_, rfl, attemptEnded_sound (.refl _ s) acked b⟩
  | .loadBusTimeout b, _ => ⟨_, rfl, busTimeout_sound (.refl _ s) b⟩
  | .loadRetryPauseEnd, _ => ⟨_, rfl, pauseOver_sound (.refl _ s)⟩
  | .listenEnd, _ => ⟨_, rfl, listenOver_sound (.refl _ s)⟩
  | .resetAll n _ _ x, _ => ⟨_, rfl, takeConsoleFrame_sound (.refl _ s) fun t h => by
      split
      · exact remoteReset_sound h n x
      · exact h⟩
  | .resetMotion .., _ => ⟨_, rfl, takeConsoleFrame_sound (.refl _ s) fun t h => by
      split
      · exact h.keeps (motionReset_keeps (.refl t))
      · exact h⟩
  | .resetHeat .., _ => ⟨_, rfl, takeConsoleFrame_sound (.refl _ s) fun t h => by
      split
      · exact heatReset_sound h
      · exact h⟩
  | .refclkStops, _ => ⟨_, rfl, clockStops_sound (.refl _ s)⟩
  | .refclkResumes, _ => ⟨_, rfl, clockResumes_sound (.refl _ s)⟩
  | .secondPulse, _ => ⟨_, rfl, secondPulse_sound (.refl _ s)⟩
  | .timeHoldEnds, _ => ⟨_, rfl, holdOver_sound (.refl _ s)⟩
  | .pulseWatchExpiry, _ => ⟨_, rfl, watchOver_sound (.refl _ s)⟩
  | .handOver p, _ => ⟨_, rfl, handOver_sound (.refl _ s) p⟩
  | .arbitrationLost, _ => ⟨_, rfl, lost_sound (.refl _ s)⟩
  | .attemptSucceeds, _ => ⟨_, rfl, succeeded_sound (.refl _ s)⟩
  | .failedAttempt, _ => ⟨_, rfl, failed_sound (.refl _ s)⟩
  | .quietEnd, _ => ⟨_, rfl, quietOver_sound (.refl _ s)⟩
  | .frameVetoed raw, _ => ⟨_, rfl, vetoFrame_sound (.refl _ s) raw⟩
  | .cleanFrameVetoedElsewhere _, _ => ⟨_, rfl, vetoedElsewhere_sound (.refl _ s)⟩
  | .beaconReceived n p, hwf => ⟨_, rfl, takeFrame_sound (.refl _ s) fun hn _ h =>
      takeBeacon_sound h hn (wfBeacon_sec (Bool.and_eq_true_iff.1 hwf).2)⟩
  | .peerAbsent n, _ => ⟨_, rfl, peerSilent_sound (.refl _ s) n⟩
  | .beaconInterval p, _ => ⟨_, rfl, beaconDue_sound (.refl _ s) p⟩
  | .windReceived n c l _ k, _ => ⟨_, rfl, takeDishFrame_sound (.refl _ s) fun _ t h =>
      h.sways (takeWind_sways (.refl t) n c l k)⟩
  | .lockSet n tg tk x, _ => ⟨_, rfl, takeFrame_sound (.refl _ s) fun _ _ h =>
      takeLockSet_sound h n tg tk x⟩
  | .lockClear n tg tk, _ => ⟨_, rfl, takeFrame_sound (.refl _ s) fun _ _ h =>
      takeLockClear_sound h n tg tk⟩
  | .lockNoticeReceived _ m e k x, _ => ⟨_, rfl, takeDishFrame_sound (.refl _ s) fun hn _ h =>
      takeLockNotice_sound h hn m e k x⟩
  | .call n p, _ => ⟨_, rfl, takeConsoleFrame_sound (.refl _ s) fun t h =>
      h.keeps (takeCall_keeps (.refl t) n p)⟩
  | .reply n id v x, _ => ⟨_, rfl, takeDishFrame_sound (.refl _ s) fun _ t h =>
      h.keeps (takeReply_keeps (.refl t) n id v x)⟩
  | .hold n id, _ => ⟨_, rfl, takeFrame_sound (.refl _ s) fun _ t h =>
      h.keeps (takeHold_keeps (.refl t) n id)⟩
  | .resume n id, _ => ⟨_, rfl, takeFrame_sound (.refl _ s) fun _ t h =>
      h.keeps (takeResume_keeps (.refl t) n id)⟩
  | .cancel n id, _ => ⟨_, rfl, takeConsoleFrame_sound (.refl _ s) fun t h =>
      h.keeps (takeCancel_keeps (.refl t) n id)⟩
  | .arrive n id az el, _ => ⟨_, rfl, takeDishFrame_sound (.refl _ s) fun _ t h =>
      h.keeps (takeArrive_keeps (.refl t) n id az el)⟩
  | .leave n id x, _ => ⟨_, rfl, takeDishFrame_sound (.refl _ s) fun _ t h =>
      h.keeps (takeLeave_keeps (.refl t) n id x)⟩
  | .movePoint n tg p az el v, _ => ⟨_, rfl, takeConsoleFrame_sound (.refl _ s) fun t h =>
      h.keeps (takeMove_keeps (.refl t) n tg p _ az el v)⟩
  | .moveReferenceAz n tg, _ => ⟨_, rfl, takeConsoleFrame_sound (.refl _ s) fun t h =>
      h.keeps (takeMove_keeps (.refl t) n tg _ _ _ _ _)⟩
  | .moveReferenceEl n tg, _ => ⟨_, rfl, takeConsoleFrame_sound (.refl _ s) fun t h =>
      h.keeps (takeMove_keeps (.refl t) n tg _ _ _ _ _)⟩
  | .shareAsk n a, _ => ⟨_, rfl, takeDishFrame_sound (.refl _ s) fun _ _ h =>
      takeShareAsk_sound h n a⟩
  | .shareGrant n b a e, _ => ⟨_, rfl, takeDishFrame_sound (.refl _ s) fun _ _ h =>
      takeShareGrant_sound h n b a e⟩
  | .shareBack n l a, _ => ⟨_, rfl, takeDishFrame_sound (.refl _ s) fun _ _ h =>
      takeShareBack_sound h n l a⟩
  | .inrush _ x z, _ => ⟨_, rfl, takeDishFrame_sound (.refl _ s) fun _ _ h =>
      takeInrush_sound h x z⟩
  | .queryIdent n tg it ix, _ => ⟨_, rfl, takeConsoleFrame_sound (.refl _ s) fun _ h =>
      takeQuery_sound h n tg it ix _⟩
  | .queryConfig n tg ix, _ => ⟨_, rfl, takeConsoleFrame_sound (.refl _ s) fun _ h =>
      takeQuery_sound h n tg _ ix _⟩
  | .queryDish n tg ix p, _ => ⟨_, rfl, takeConsoleFrame_sound (.refl _ s) fun _ h =>
      takeDishQuery_sound h n tg ix p⟩
  | .queryLocks n tg ix, _ => ⟨_, rfl, takeConsoleFrame_sound (.refl _ s) fun _ h =>
      takeQuery_sound h n tg _ ix _⟩
  | .queryCompacts n tg ix, _ => ⟨_, rfl, takeConsoleFrame_sound (.refl _ s) fun _ h =>
      takeQuery_sound h n tg _ ix _⟩
  | .queryMembers n tg ix, _ => ⟨_, rfl, takeConsoleFrame_sound (.refl _ s) fun _ h =>
      takeQuery_sound h n tg _ ix _⟩
  | .queryLoans n tg ix, _ => ⟨_, rfl, takeConsoleFrame_sound (.refl _ s) fun _ h =>
      takeQuery_sound h n tg _ ix _⟩
  | .queryShares n tg ix, _ => ⟨_, rfl, takeConsoleFrame_sound (.refl _ s) fun _ h =>
      takeQuery_sound h n tg _ ix _⟩
  | .queryZones n tg ix, _ => ⟨_, rfl, takeConsoleFrame_sound (.refl _ s) fun _ h =>
      takeQuery_sound h n tg _ ix _⟩
  | .queryMelt n tg ix, _ => ⟨_, rfl, takeConsoleFrame_sound (.refl _ s) fun _ h =>
      takeMeltQuery_sound h n tg ix⟩
  | .queryCells n tg ix, _ => ⟨_, rfl, takeConsoleFrame_sound (.refl _ s) fun _ h =>
      takeQuery_sound h n tg _ ix _⟩
  | .queryScan n tg ix, _ => ⟨_, rfl, takeConsoleFrame_sound (.refl _ s) fun _ h =>
      takeQuery_sound h n tg _ ix _⟩
  | .queryFlags n tg ix, _ => ⟨_, rfl, takeConsoleFrame_sound (.refl _ s) fun _ h =>
      takeQuery_sound h n tg _ ix _⟩
  | .queryPeer n tg ix, _ => ⟨_, rfl, takeConsoleFrame_sound (.refl _ s) fun _ h =>
      takeQuery_sound h n tg _ ix _⟩
  | .clear n tg fl, _ => ⟨_, rfl, takeConsoleFrame_sound (.refl _ s) fun _ h =>
      takeClear_sound h n tg fl⟩
  | .eventReceived _, _ => ⟨_, rfl, takeDishFrame_sound (.refl _ s) fun _ _ h => h⟩
  | .answerReceived _, _ => ⟨_, rfl, takeDishFrame_sound (.refl _ s) fun _ _ h => h⟩
  | .legEnd p, _ => ⟨_, rfl, (legEnded_keeps (.refl s) p).sound⟩
  | .gapMinimumEnd, _ => ⟨_, rfl, (gapMinimum_keeps (.refl s)).sound⟩
  | .gapBrakeTimeout, _ => ⟨_, rfl, (gapBrakes_keeps (.refl s)).sound⟩
  | .stopEnd p az el, _ => ⟨_, rfl, (stopEnded_keeps (.refl s) p az el).sound⟩
  | .legStall p, _ => ⟨_, rfl, (legStalled_keeps (.refl s) p).sound⟩
  | .stopStall p az el, _ => ⟨_, rfl, (stopStalled_keeps (.refl s) p az el).sound⟩
  | .limitInput a e p, _ => ⟨_, rfl, limitEvent_sound (.refl _ s) a e p⟩
  | .amplifierFault a p, _ => ⟨_, rfl, ampFaultEvent_sound (.refl _ s) a p⟩
  | .encoderLoss a p, _ => ⟨_, rfl, encoderLossEvent_sound (.refl _ s) a p⟩
  | .indexMark a, _ => ⟨_, rfl, (indexSeen_keeps (.refl s) a).sound⟩
  | .referenceTravelLimit p, _ => ⟨_, rfl, (travelLimit_keeps (.refl s) p).sound⟩
  | .referenceDescentEnd, _ => ⟨_, rfl, descentEnd_sound (.refl _ s)⟩
  | .referenceDescentLimit p, _ => ⟨_, rfl, (descentLimit_keeps (.refl s) p).sound⟩
  | .amplifierWarning a b, _ => ⟨_, rfl, warningEvent_sound (.refl _ s) a b⟩
  | .limitInputInactive a e, _ => ⟨_, rfl, limitReleased_sound (.refl _ s) a e⟩
  | .amplifierFaultInactive a, _ => ⟨_, rfl, ampFaultReleased_sound (.refl _ s) a⟩
  | .encoderSignalValid a, _ => ⟨_, rfl, encoderReturned_sound (.refl _ s) a⟩
  | .keyInputChange k b, _ => ⟨_, rfl, keyChange_sound (.refl _ s) k b⟩
  | .keyClosingCountEnd k, _ => ⟨_, rfl, keyClosed_sound (.refl _ s) k⟩
  | .keyOpeningCountEnd k, _ => ⟨_, rfl, keyOpened_sound (.refl _ s) k⟩
  | .keyCheckingEnd, _ => ⟨_, rfl, keyCheckingOver_sound (.refl _ s)⟩
  | .compactStartTime id, _ => ⟨_, rfl, (startTime_keeps (.refl s) id).sound⟩
  | .compactDeadline id, _ => ⟨_, rfl, (deadline_keeps (.refl s) id).sound⟩
  | .compactRemoval id, _ => ⟨_, rfl, (removeRecord_keeps (.refl s) id).sound⟩
  | .scanStart, _ => ⟨_, rfl, scanInstant_sound (.refl _ s)⟩
  | .scanComplete x, _ => ⟨_, rfl, scanDone_sound (.refl _ s) x⟩
  | .anemometerPulse input w, _ => ⟨_, rfl, pulse_sound (.refl _ s) input w⟩
  | .windResend, _ => ⟨_, rfl, resend_sound (.refl _ s)⟩
  | .stowHoldExpiry c, _ => ⟨_, rfl, (holdExpiry_sways (.refl s) c).sound⟩
  | .settleExpiry c, _ => ⟨_, rfl, (settleExpired_sways (.refl s) c).sound⟩
  | .heaterBoundary, _ => ⟨_, rfl, boundaryReached_sound (.refl _ s)⟩
  | .zoneSwitchOnStep, _ => ⟨_, rfl, switchStep_sound (.refl _ s)⟩
  | .dutyEnd z, _ => ⟨_, rfl, dutyEnded_sound (.refl _ s) z⟩
  | .askRunExpiry, _ => ⟨_, rfl, askDue_sound (.refl _ s)⟩
  | .borrowedExpiry n, _ => ⟨_, rfl, borrowedExpired_sound (.refl _ s) n⟩
  | .lentExpiry n, _ => ⟨_, rfl, lentExpired_sound (.refl _ s) n⟩
  | .loanGraceEnd n, _ => ⟨_, rfl, graceEnded_sound (.refl _ s) n⟩
  | .shareBackWithdrawal n, _ => ⟨_, rfl, withdrawFrames_sound (.refl _ s) (isLateBack n)⟩
  | .inrushWindowOpen, _ => ⟨_, rfl, windowReached_sound (.refl _ s)⟩
  | .inrushWindowEnd, _ => ⟨_, rfl, windowEnded_sound (.refl _ s)⟩
  | .stowLampFlash, _ => ⟨_, rfl, lampFlash_sound (.refl _ s)⟩

theorem nowMs_congr {s t : State} (h : t.time = s.time) : nowMs t = nowMs s := by
  unfold nowMs now
  rw [h]

/-- The step on an empty queue idles, posts what is due, or counts a millisecond. -/
theorem idle_keeps_inv {s : State} (h : Inv s) : Inv (idle s) ∧ nowMs s ≤ nowMs (idle s) := by
  unfold idle
  split
  · exact ⟨h, Nat.le_refl _⟩
  · split
    · exact ⟨(withPending_inv _).2 (tick_inv h),
        (tick_later h).trans_eq (nowMs_congr rfl)⟩
    · exact ⟨(withPending_inv _).2 h, (nowMs_congr rfl).le⟩

/-- One step keeps `Inv`, and array time where its command is no restart. -/
theorem step_keeps_inv {s t : State} (hwf : ∀ i rest, s.pending = i :: rest → i.wf = true)
    (h : Inv s) (hst : step s = .next t) :
    Inv t ∧ ((∀ i rest, s.pending = i :: rest → isRestart i = false) → nowMs s ≤ nowMs t) := by
  cases hp : s.pending with
  | nil =>
    have ht : idle s = t := by
      unfold step at hst
      rw [hp] at hst
      exact Host.Outcome.next.inj hst
    exact ht ▸ ⟨(idle_keeps_inv h).1, fun _ => (idle_keeps_inv h).2⟩
  | cons i rest =>
    obtain ⟨u, hu, hs⟩ := exec_sound (s.withPending rest) i (hwf i rest hp)
    obtain rfl : t = u := by
      rw [stepRunsTheFrontCommand i rest s hp, hu] at hst
      exact (Host.Outcome.next.inj hst).symm
    have hi := (withPending_inv rest).2 h
    exact ⟨hs.inv hi, fun hr => hs.later (hr i rest rfl) hi⟩

/-- Settles O3: an invariant of the commands one by one (`exec_sound`) and of the counted
millisecond (`idle_keeps_inv`). -/
theorem everyStepKeepsTheInvariant : Obligations.EveryStepKeepsTheInvariant :=
  fun _ _ hwf h hst => (step_keeps_inv hwf h hst).1

/-! ### The second pulse -/

/-- Commands that a function takes run through to its fold. -/
theorem runsThrough_foldl {f : State → Instr → State} :
    ∀ {l : List Instr} (u : State), (∀ i ∈ l, ∀ v, exec i v = .next (f v i)) →
      RunsThrough l u (l.foldl f u)
  | [], _, _ => rfl
  | i :: _, u, h => ⟨f u i, h i List.mem_cons_self u,
      runsThrough_foldl (f u i) fun j hj => h j (List.mem_cons_of_mem i hj)⟩

theorem mem_post {b : Bool} {i j : Instr} : i ∈ post b j ↔ b = true ∧ i = j := by
  cases b <;> simp [post]

theorem mem_dueWindow {u : State} {i : Instr} : i ∈ dueWindow u ↔
    ∃ start n isOpen, u.share.claim = .won start n isOpen ∧
      (isOpen = false ∧ start ≤ nowMs u ∧ i = .inrushWindowOpen ∨
        start + 500 ≤ nowMs u ∧ i = .inrushWindowEnd) := by
  unfold dueWindow
  split
  case h_1 start n h => simp [h, mem_post]
  case h_2 start n h => simp [h, mem_post]
  case h_3 h₁ h₂ =>
    refine iff_of_false (by simp) ?_
    rintro ⟨start, n, isOpen, h, _⟩
    cases isOpen
    · exact h₁ _ _ h
    · exact h₂ _ _ h

theorem mem_dueCompacts {u : State} {i : Instr} : i ∈ dueCompacts u ↔
    ∃ r ∈ u.compact.list, r.state = .forming ∧ toMs r.start ≤ nowMs u ∧
        i = .compactStartTime r.id ∨
      isLive r = true ∧ toMs r.deadline ≤ nowMs u ∧ i = .compactDeadline r.id := by
  simp [dueCompacts, mem_post, and_assoc]

theorem mem_dueLoans {u : State} {i : Instr} : i ∈ dueLoans u ↔
    ∃ e ∈ u.share.loans, e.expiry ≤ u.time.sec ∧
      (e.lent = false ∧ i = .borrowedExpiry e.peer ∨
        e.lent = true ∧ e.grace = false ∧ i = .lentExpiry e.peer) := by
  simp only [dueLoans, List.mem_flatMap, List.mem_append, mem_post, Bool.and_eq_true,
    Bool.not_eq_true', decide_eq_true_eq]
  refine exists_congr fun e => and_congr_right fun _ => ?_
  tauto

/-- The list of the due instants holds exactly those that are reached. -/
theorem mem_dueInstants {u : State} {i : Instr} : i ∈ dueInstants u ↔ InstantReached u i := by
  have hscan : i ∈ post (u.seq.config.isSome && u.sensor.latched &&
      decide (u.sensor.nextScan ≤ nowMs u)) .scanStart ↔ u.seq.config.isSome = true ∧
        u.sensor.latched = true ∧ u.sensor.nextScan ≤ nowMs u ∧ i = .scanStart := by
    simp [mem_post, and_assoc]
  have hboundary : i ∈ post (isReady u && (u.heater.nextBoundary.map fun b =>
      decide (b ≤ u.time.sec)) == some true) .heaterBoundary ↔ ∃ b, u.seq.station = .ready ∧
        u.heater.nextBoundary = some b ∧ b ≤ u.time.sec ∧ i = .heaterBoundary := by
    simp only [mem_post, isReady, Bool.and_eq_true, beq_iff_eq, Option.map_eq_some_iff,
      decide_eq_true_eq]
    exact ⟨fun ⟨⟨hr, b, hb, hle⟩, hi⟩ => ⟨b, hr, hb, hle, hi⟩,
      fun ⟨b, hr, hb, hle, hi⟩ => ⟨⟨hr, b, hb, hle⟩, hi⟩⟩
  unfold dueInstants InstantReached
  simp only [List.mem_append, mem_dueCompacts, hscan, hboundary, mem_dueLoans, mem_dueWindow,
    and_or_left, exists_or, or_assoc]

/-- A pulse in the second half of a second that is not the last begins the next one (R79, R80). -/
theorem pulsed_late {s : State} (hm : 500 ≤ s.time.ms) (hs : s.time.sec < lastSecond) :
    pulsed s = s.withTime { s.time with
      sec := s.time.sec + 1, ms := 0, hold := 0, watch := 0, free := false } := by
  unfold pulsed alignPulse
  rw [if_neg (by simp [hs.ne]), if_pos hm, if_pos hs]

/-- A pulse in the first half of a second holds the count for the milliseconds counted (R79). -/
theorem pulsed_early {s : State} (hm : s.time.ms < 500) :
    pulsed s = s.withTime { s.time with
      hold := s.time.ms, watch := 0, free := false, holding := decide (0 < s.time.ms) } := by
  unfold pulsed alignPulse
  rw [if_neg (by simp [hm]), if_neg (by omega)]

/-- Settles O5: the pulse by the half of the second it comes in, the instants by
`takeInstant_exec`, and the order of array time by `step_keeps_inv`. -/
theorem thePulseAlignsAndTimeNeverDecreases :
    Obligations.ThePulseAlignsAndTimeNeverDecreases := by
  refine ⟨fun s hheld => ⟨fun hm hsec u hu => ?_, fun hm => ?_⟩, fun s t hi hp hst => ?_⟩
  · obtain rfl : pulsed s = u := (pulsed_late hm hsec).trans hu.symm
    have hexec : exec .secondPulse s = .next (takeInstants (pulsed s)) := by
      show Host.Outcome.next (secondPulse s) = _
      rw [secondPulse, if_neg (by simp [hheld]), if_pos hm]
    refine ⟨_, hexec, (takeInstants_timely _).time, ?_, fun i => mem_dueInstants, fun hd => ?_⟩
    · exact runsThrough_foldl _ fun i hd v => takeInstant_exec hd v
    · rw [takeInstants, hd, List.foldl_nil]
  · show Host.Outcome.next (secondPulse s) = _
    rw [secondPulse, if_neg (by simp [hheld]), if_neg (by omega), pulsed_early hm]
  · exact (step_keeps_inv (fun i rest h => (hp i rest h).1) hi hst).2 fun i rest h =>
    (hp i rest h).2

/-! ### The counted millisecond -/

theorem bumpIf_eq (b : Bool) (n : Nat) : bumpIf b n = if b = true then n + 1 else n := rfl

theorem countMs_watch (t : TimeUnit) : (countMs t).watch = min 1500 (t.watch + 1) := rfl

theorem countMs_holding {t : TimeUnit} (h : 0 < t.hold) :
    countMs t = { t with hold := t.hold - 1, watch := min 1500 (t.watch + 1) } := by
  rw [countMs, if_pos h]

theorem countMs_counting {t : TimeUnit} (h : t.hold = 0) :
    countMs t = { advance t with watch := min 1500 (t.watch + 1) } := by
  rw [countMs, if_neg (by omega)]

theorem advance_ms {t : TimeUnit} (h : t.ms < 999) : advance t = { t with ms := t.ms + 1 } :=
  if_pos h

theorem advance_sec {t : TimeUnit} (h : t.ms = 999) (hs : t.sec < lastSecond) :
    advance t = { t with sec := t.sec + 1, ms := 0 } := by
  rw [advance, if_neg (by omega), if_pos hs]

theorem advance_end {t : TimeUnit} (h : t.ms = 999) (hs : t.sec = lastSecond) :
    advance t = t := by
  rw [advance, if_neg (by omega), if_neg (by omega)]

theorem advance_free (t : TimeUnit) : (advance t).free = t.free := by
  unfold advance
  split
  · rfl
  · split <;> rfl

theorem countMs_free (t : TimeUnit) : (countMs t).free = t.free := by
  by_cases h : 0 < t.hold
  · rw [countMs_holding h]
  · rw [countMs_counting (by omega)]
    exact advance_free t

theorem tickCell_eq (x : Cell) : tickCell x = { x with
    holdRun := if (x.state = .stow ∨ x.lastStow.isSome = true) ∧ workingEntries x ≠ [] then
      x.holdRun + 1 else x.holdRun
    settleRun := if x.state = .settle then x.settleRun + 1 else x.settleRun } := by
  simp [tickCell, bumpIf_eq]

/-- Settles O2: the three branches of `idle`; a run counts under the condition of its `bumpIf`. -/
theorem emptyQueueCountsAMillisecond : Obligations.EmptyQueueCountsAMillisecond := by
  intro s hp
  have hst : step s = .next (idle s) := by unfold step; rw [hp]
  rw [hst]
  refine ⟨fun hh => ?_, fun hh hd => ?_, fun hh hd => ?_⟩
  · rw [idle, if_pos hh]
  · rw [idle, if_neg (by simp [hh])]
    split
    · exact absurd ‹_› hd
    · rfl
  · have hidle : idle s = (tick s).withPending (dueRuns (tick s) ++ dueInstants (tick s)) := by
      rw [idle, if_neg (by simp [hh]), hd]
    rw [hidle]
    refine ⟨_, rfl, ?_⟩
    simp only [withPending_pending, withPending_time, withPending_pins, withPending_keepOut,
      withPending_lock, withPending_axis, withPending_report, withPending_seq, withPending_line,
      withPending_peers, withPending_compact, withPending_sensor, withPending_wind,
      withPending_heater, withPending_share, show (tick s).time = countMs s.time from rfl]
    refine ⟨countMs_watch s.time, countMs_free s.time, fun h => ?_, fun h hm => ?_,
      fun h hm hs => ?_, fun h hm hs => ?_, rfl, rfl, rfl, rfl, rfl, rfl, trivial, ?_, ?_,
      rfl, ?_, ?_, ?_, rfl, ?_, ?_, rfl, rfl⟩
    · rw [countMs_holding h]; exact ⟨rfl, rfl, rfl⟩
    · rw [countMs_counting h, advance_ms hm]; exact ⟨rfl, rfl, h⟩
    · rw [countMs_counting h, advance_sec hm hs]; exact ⟨rfl, rfl, h⟩
    · rw [countMs_counting h, advance_end hm hs]; exact ⟨rfl, rfl, h⟩
    · simp [tick, tickSeq, bump, bumpIf_eq]
    · rfl
    · simp [tick, tickAxis, bumpIf_eq]
    · simp [tick, tickLock, bump, bumpIf_eq]
    · have hrun : ∀ r : CompactRecord, bumpIf (!isLive r) r.terminalRun =
          if isLive r then r.terminalRun else r.terminalRun + 1 := fun r => by
        cases isLive r <;> rfl
      simp [tick, tickCompact, hrun]
    · simp [tick, tickCell_eq]
    · simp [tick, tickHeater, bumpIf_eq]

end Sys2Proof.Machine
end

section
/-! PROOFS. The transmit queue while it has room: what the settlement of the power account, and the
frames of other kinds, leave of the frames of a kind (R68 to R73). -/

namespace Sys2Proof.Machine

variable {s t u : State} {p : Frame → Bool} {n m : Nat}

/-! ### Free slots -/

/-- Where fewer frames wait than there are slots in a range, one of the slots is free. -/
theorem exists_freeSlot {q : List TxEntry} {lo n : Nat} (h : q.length < n) :
    ∃ k, freeSlot q lo n = some k := by
  refine Option.isSome_iff_exists.1 (List.find?_isSome.2 ?_)
  by_contra hall
  have hsub : List.range' lo n ⊆ q.map (·.slot) := fun k hk => by
    by_contra hq
    refine hall ⟨k, hk, ?_⟩
    simpa using fun x hx => fun he => hq (List.mem_map.2 ⟨x, hx, he⟩)
  have := ((List.nodup_range' (step := 1)).subperm hsub).length_le
  simp at this
  omega

/-- The ages of the frames held are different, and lower than the next (R68). -/
def Aged (l : LineUnit) : Prop :=
  (l.queue.map (·.age)).Nodup ∧ ∀ e ∈ l.queue, e.age < l.nextAge

theorem Aged.nil {l : LineUnit} (h : l.queue = []) : Aged l := by simp [Aged, h]

theorem Aged.eq_of_age {l : LineUnit} (h : Aged l) {a b : TxEntry} (ha : a ∈ l.queue)
    (hb : b ∈ l.queue) (hab : a.age = b.age) : a = b :=
  List.inj_on_of_nodup_map h.1 ha hb hab

theorem Aged.append {l : LineUnit} (h : Aged l) (k : Nat) (e : TxEntry) : Aged (l.append k e) := by
  refine ⟨?_, fun x hx => ?_⟩
  · simp only [LineUnit.append, List.map_append, List.map_cons, List.map_nil]
    refine List.nodup_append.2 ⟨h.1, List.nodup_singleton _, ?_⟩
    simpa using fun a ha => (h.2 a ha).ne
  · rcases List.mem_append.1 hx with hx | hx
    · exact Nat.lt_succ_of_lt (h.2 x hx)
    · simp only [List.mem_singleton] at hx
      exact hx ▸ Nat.lt_succ_self _

theorem Aged.filter {l : LineUnit} (h : Aged l) (f : TxEntry → Bool) :
    Aged { l with queue := l.queue.filter f } :=
  ⟨h.1.sublist (List.filter_sublist.map _), fun e he => h.2 e (List.mem_of_mem_filter he)⟩

theorem Aged.map {l : LineUnit} (h : Aged l) {f : TxEntry → TxEntry}
    (hf : ∀ e, (f e).age = e.age) : Aged { l with queue := l.queue.map f } := by
  refine ⟨by simpa [List.map_map, Function.comp_def, hf] using h.1, fun e he => ?_⟩
  obtain ⟨x, hx, rfl⟩ := List.mem_map.1 he
  exact (hf x).symm ▸ h.2 x hx

/-! ### What stands of the frames of a kind -/

/-- The frames held of a kind, in order of age. -/
def heldOf (p : Frame → Bool) (s : State) : List TxEntry :=
  s.line.queue.filter fun e => p e.frame

/-- While there is room for `n` frames more, at most `n` are queued, and the frames held of a kind
stand. -/
def Spares (p : Frame → Bool) (n : Nat) (s t : State) : Prop :=
  Aged s.line → s.line.queue.length + n ≤ 8 →
    Aged t.line ∧ t.line.queue.length ≤ s.line.queue.length + n ∧ heldOf p t = heldOf p s

/-- The kind holds no frame of the power account's own: no SHARE_ASK and no INRUSH. -/
structure ShareBlind (p : Frame → Bool) : Prop where
  ask : ∀ a, p (.shareAsk a) = false
  inrush : ∀ x z, p (.inrush x z) = false

theorem Spares.of_line (h : t.line = s.line) : Spares p 0 s t := fun ha _ => by
  simp only [heldOf, h]
  exact ⟨ha, Nat.le_refl _, trivial⟩

theorem Spares.refl (s : State) : Spares p 0 s s := .of_line rfl

theorem Spares.trans (h : Spares p n s t) (k : Spares p m t u) : Spares p (n + m) s u :=
  fun ha hr => by
    obtain ⟨hb, hl, he⟩ := h ha (by omega)
    obtain ⟨hc, hl', he'⟩ := k hb (by omega)
    exact ⟨hc, by omega, he'.trans he⟩

theorem Spares.mono (h : Spares p n s t) (hnm : n ≤ m) : Spares p m s t := fun ha hr => by
  obtain ⟨hb, hl, he⟩ := h ha (by omega)
  exact ⟨hb, by omega, he⟩

theorem heldOf_append (k : Nat) (e : TxEntry) (hp : p e.frame = true) :
    heldOf p (s.withLine (s.line.append k e)) = heldOf p s ++
      [{ e with slot := k, age := s.line.nextAge, attempts := 0, started := false }] := by
  simp [heldOf, LineUnit.append, hp]

theorem append_spares (k : Nat) {e : TxEntry} (hp : p e.frame = false) :
    Spares p 1 s (s.withLine (s.line.append k e)) := fun ha _ =>
  ⟨ha.append k e, by simp [LineUnit.append], by simp [heldOf, LineUnit.append, hp]⟩

theorem withdrawFrames_spares {w : TxEntry → Bool} (hw : ∀ e, w e = true → p e.frame = false) :
    Spares p 0 s (withdrawFrames s w) := fun ha _ => by
  refine ⟨ha.filter _, List.length_filter_le _ _, ?_⟩
  simp only [heldOf, withdrawFrames, LineUnit.withdraw, withLine_line, List.filter_filter]
  refine List.filter_congr fun e _ => ?_
  cases hwe : w e
  · simp
  · simp [hw e hwe]

theorem reviseFrames_spares {f : TxEntry → TxEntry}
    (hf : ∀ e, p e.frame = true ∧ f e = e ∨ p e.frame = false ∧ p (f e).frame = false) :
    Spares p 0 s (reviseFrames s f) := fun ha _ => by
  refine ⟨ha.map fun e => by split <;> rfl, by simp [reviseFrames, LineUnit.revise], ?_⟩
  simp only [heldOf, reviseFrames, LineUnit.revise, withLine_line]
  induction s.line.queue with
  | nil => rfl
  | cons e l ih =>
    rcases hf e with ⟨hp, he⟩ | ⟨hp, hq⟩
    · simp [hp, he, ih]
    · by_cases hs : e.started <;> simp [hs, hp, hq, ih]

/-- A COORD or ROUTINE frame placed while a general slot is free. -/
theorem place_spares {e : TxEntry} {l : LineUnit} (hl : s.line.place e = some l)
    (hp : p e.frame = false) : Spares p 1 s (s.withLine l) := fun ha hr => by
  obtain ⟨k, hk⟩ := exists_freeSlot (q := s.line.queue) (lo := 0) (n := 8) (by omega)
  rw [place_free hk] at hl
  exact Option.some.inj hl ▸ append_spares k hp ha hr

theorem claimFromNone_spares (hp : ShareBlind p) : Spares p 1 s (claimFromNone s) := by
  have hidle : ∀ x : ShareUnit, Spares p 1 s (s.withShare x) := fun _ =>
    (Spares.of_line rfl).mono (Nat.zero_le 1)
  unfold claimFromNone
  dsimp only
  split
  · split
    · exact Spares.trans (n := 0) (.of_line rfl) (place_spares (s := s.withShare _) ‹_›
      (hp.inrush _ _))
    · exact hidle _
  · exact hidle _

theorem reviseInrush_spares (hp : ShareBlind p) : Spares p 0 s (reviseInrush s) :=
  reviseFrames_spares fun e => by
    split
    case h_1 he => exact .inr ⟨he ▸ hp.inrush _ _, hp.inrush _ _⟩
    case h_2 => cases p e.frame <;> simp

theorem updateClaim_spares (hp : ShareBlind p) : Spares p 1 s (updateClaim s) := by
  unfold updateClaim
  split
  · split
    · exact claimFromNone_spares hp
    · exact (Spares.refl s).mono (Nat.zero_le 1)
  · split
    · refine Spares.mono (n := 0 + 0) (.trans (withdrawFrames_spares fun e he => ?_)
        (.of_line rfl)) (Nat.zero_le 1)
      split at he
      case h_1 he' => exact he' ▸ hp.inrush _ _
      case h_2 => cases he
    · exact (reviseInrush_spares hp).mono (Nat.zero_le 1)
  · exact (Spares.refl s).mono (Nat.zero_le 1)

theorem heaterNotice_spares (hp : ShareBlind p) : Spares p 1 s (heaterNotice s) := by
  unfold heaterNotice
  dsimp only
  split
  · exact (Spares.refl s).mono (Nat.zero_le 1)
  · refine Spares.trans (n := 0) ?_ (updateClaim_spares (s := s.withShare _) hp)
    exact .of_line rfl

theorem topUp_spares (hp : ShareBlind p) : Spares p 1 s (topUp s) := by
  unfold topUp
  split
  · refine Spares.trans (n := 0) ?_ (heaterNotice_spares (s := s.withHeater _) hp)
    exact .of_line rfl
  · exact (Spares.refl s).mono (Nat.zero_le 1)

/-- A frame of another kind, whose group is of another kind too, is queued. -/
theorem enqueueEntry_spares {e : TxEntry} (hp : p e.frame = false)
    (hg : ∀ f, sameGroup f e.frame = true → p f = false) : Spares p 1 s (enqueueEntry s e) :=
  fun ha hr => by
    by_cases ht : transmits s = true
    · cases hm : s.line.groupMate e.frame with
      | none =>
        obtain ⟨k, hk⟩ := exists_freeSlot (q := s.line.queue) (lo := 0) (n := 8) (by omega)
        by_cases hc : frameClass e.frame = .safety
        · obtain ⟨j, hj⟩ : ∃ j, (freeSlot s.line.queue 8 4 <|> freeSlot s.line.queue 0 8) =
              some j := by
            cases freeSlot s.line.queue 8 4 with
            | none => exact ⟨k, hk⟩
            | some j => exact ⟨j, rfl⟩
          rw [enqueueEntry_safety ht hm hc hj]
          exact append_spares j hp ha hr
        · rw [enqueueEntry_general ht hm hc hk]
          exact append_spares k hp ha hr
      | some old =>
        have hold : old ∈ s.line.queue := List.mem_of_find?_eq_some hm
        have hpo : p old.frame = false := hg _ (by
          have := List.find?_some hm
          simp only [Bool.and_eq_true] at this
          exact this.2)
        have he : enqueueEntry s e = s.withLine (s.line.coalesce old.age e.frame) := by
          rw [enqueueEntry, if_pos ht, hm]
        rw [he]
        refine ⟨ha.map fun x => by split <;> rfl, by simp [LineUnit.coalesce], ?_⟩
        simp only [heldOf, LineUnit.coalesce, withLine_line, List.filter_map]
        have hkeep : s.line.queue.filter ((fun x => p x.frame) ∘ fun x =>
            if x.age == old.age then { x with frame := e.frame } else x) =
            s.line.queue.filter fun x => p x.frame := by
          refine List.filter_congr fun x hx => ?_
          by_cases hxo : x.age = old.age
          · simp [ha.eq_of_age hx hold hxo, hp, hpo]
          · simp [hxo]
        rw [hkeep]
        refine (List.map_congr_left fun x hx => ?_).trans (List.map_id _)
        by_cases hxo : x.age = old.age
        · have hpx := (List.mem_filter.1 hx).2
          rw [ha.eq_of_age (List.mem_filter.1 hx).1 hold hxo, hpo] at hpx
          cases hpx
        · simp [hxo]
    · rw [enqueueEntry, if_neg ht]
      exact (Spares.refl s).mono (Nat.zero_le 1) ha hr

theorem enqueue_spares {f : Frame} (hp : p f = false)
    (hg : ∀ x, sameGroup x f = true → p x = false) : Spares p 1 s (enqueue s f) :=
  enqueueEntry_spares (e := TxEntry.fresh f) hp hg

theorem queueAsk_spares (hp : ShareBlind p) : Spares p 1 s (queueAsk s) := by
  refine Spares.trans (m := 0) (enqueue_spares (hp.ask _) fun x hx => ?_) (.of_line rfl)
  cases x <;> cases hx

theorem updateAsk_spares (hp : ShareBlind p) : Spares p 1 s (updateAsk s) := by
  have hisAsk : ∀ e, isAsk e = true → p e.frame = false := fun e he => by
    unfold isAsk at he
    split at he
    case h_1 he' => exact he' ▸ hp.ask _
    case h_2 => cases he
  have hrevise : Spares p 0 s (reviseFrames s fun e =>
      if isAsk e then { e with frame := .shareAsk (askAmount s) } else e) :=
    reviseFrames_spares fun e => by
      cases he : isAsk e
      · cases hpe : p e.frame <;> simp [hpe]
      · exact .inr ⟨hisAsk e he, by simp [hp.ask]⟩
  unfold updateAsk
  split
  · split
    · exact (withdrawFrames_spares hisAsk).mono (Nat.zero_le 1)
    · dsimp only
      split
      · split
        · exact hrevise.mono (Nat.zero_le 1)
        · exact hrevise.trans (queueAsk_spares hp)
      · exact hrevise.trans (queueAsk_spares hp)
  · exact (Spares.refl s).mono (Nat.zero_le 1)

theorem settlePower_spares (hp : ShareBlind p) (before : State) :
    Spares p 2 s (settlePower before s) := by
  unfold settlePower
  split
  · exact (topUp_spares hp).trans (updateAsk_spares hp)
  · exact (updateAsk_spares hp).mono (by decide)

/-! ### Queueing -/

/-- A ROUTINE frame stands in a general slot (R68), so that R71 looks through all of them. -/
theorem find_displaceable {l : LineUnit} (ok : LineOk l) :
    (l.queue.find? fun v => isDisplaceable v && v.slot < 8) = l.queue.find? isDisplaceable := by
  obtain ⟨-, hplaced, -⟩ := ok
  have hgen : ∀ v ∈ l.queue, (isDisplaceable v && v.slot < 8) = isDisplaceable v := fun v hv => by
    cases hd : isDisplaceable v
    · rfl
    · have hc : frameClass v.frame ≠ .safety := by
        simp only [isDisplaceable, Bool.and_eq_true, beq_iff_eq] at hd
        simp [hd.1.2]
      simp [(hplaced v hv).2.2 hc]
  clear hplaced
  generalize l.queue = q at hgen
  induction q with
  | nil => rfl
  | cons v q ih =>
    rw [List.find?_cons, List.find?_cons, hgen v List.mem_cons_self,
      ih fun w hw => hgen w (List.mem_cons_of_mem v hw)]

/-- No frame is placed where every general slot is occupied and none gives way (R71). -/
theorem place_none {l : LineUnit} (hk : freeSlot l.queue 0 8 = none)
    (hd : l.queue.find? isDisplaceable = none) (e : TxEntry) : l.place e = none := by
  have hno : (l.queue.find? fun v => isDisplaceable v && v.slot < 8) = none :=
    List.find?_eq_none.2 fun v hv => by simp [List.find?_eq_none.1 hd v hv]
  rw [LineUnit.place, hk, hno]

/-- The frame of a displaced one's slot leaves every general slot occupied. -/
theorem freeSlot_displaced {l : LineUnit} (ok : LineOk l) {v : TxEntry} (hv : v ∈ l.queue)
    (hk : freeSlot l.queue 0 8 = none) (e : TxEntry) :
    freeSlot ((l.remove v.age).append v.slot e).queue 0 8 = none := by
  refine List.find?_eq_none.2 fun k hmem => ?_
  have hall := List.find?_eq_none.1 hk k hmem
  simp only [Bool.not_eq_true', Bool.not_eq_false, List.any_eq_true, beq_iff_eq] at hall ⊢
  obtain ⟨x, hx, hxk⟩ := hall
  simp only [LineUnit.append, LineUnit.remove, List.mem_append, List.mem_filter,
    List.mem_singleton, bne_iff_ne]
  by_cases hxv : x.age = v.age
  · exact ⟨_, .inr rfl, ok.same hx hv (.inr hxv) ▸ hxk⟩
  · exact ⟨x, .inl ⟨hx, hxv⟩, hxk⟩

/-- The owner of a frame of another class does nothing at its loss. -/
theorem onLost_of_not_coord {v : TxEntry} (h : frameClass v.frame ≠ .coord) (s : State) :
    onLost s v = s := by
  unfold onLost
  split <;> first | rfl | (rename_i hf; exact absurd (by rw [hf]; rfl) h)

/-- The owner of a lost frame that finds no room gives up the claim of an INRUSH, as at its refusal,
and queues none other again (R177; log 26). -/
theorem onLost_full {v : TxEntry} (hfull : ∀ e, s.line.place e = none) :
    onLost s v = onRefused s v := by
  unfold onLost onRefused queueAgain claimFromNone
  cases v.frame <;> simp [hfull]

theorem onRefused_inrush {v : TxEntry} {x : ATime} {z : Nat} (h : v.frame = .inrush x z) :
    onRefused s v = s.withShare { s.share with claim := .none } := by
  rw [onRefused, h]

theorem onRefused_of_ne_inrush {v : TxEntry} (h : ∀ x z, v.frame ≠ .inrush x z) :
    onRefused s v = s := by
  unfold onRefused
  split
  · exact absurd ‹_› (h _ _)
  · rfl

theorem onRefused_line (s : State) (v : TxEntry) : (onRefused s v).line = s.line := by
  unfold onRefused
  split <;> rfl

/-- A COORD or ROUTINE frame of no waiting group is placed, or refused (R71). -/
theorem enqueueEntry_placed {e : TxEntry} {l : LineUnit} (ht : transmits s = true)
    (hm : s.line.groupMate e.frame = none) (hc : frameClass e.frame ≠ .safety)
    (hl : s.line.place e = some l) : enqueueEntry s e = s.withLine l := by
  rw [enqueueEntry, if_pos ht, hm]
  cases hcl : frameClass e.frame
  · exact absurd hcl hc
  all_goals simp [enqueueNew, hcl, hl]

theorem enqueueEntry_refused {e : TxEntry} (ht : transmits s = true)
    (hm : s.line.groupMate e.frame = none) (hc : frameClass e.frame ≠ .safety)
    (hl : s.line.place e = none) : enqueueEntry s e = onRefused s e := by
  rw [enqueueEntry, if_pos ht, hm]
  cases hcl : frameClass e.frame
  · exact absurd hcl hc
  all_goals simp [enqueueNew, hcl, hl]

/-- Settles O12: the branches of `enqueueEntry`, `LineUnit.place` and `LineUnit.placeSafety`; the
owner of the frame that makes room finds every general slot occupied. -/
theorem queueingPlacesAFrame : Obligations.QueueingPlacesAFrame := by
  intro s e ht ok
  refine ⟨fun old ho => ?_, fun hm hc => ⟨fun k hk => enqueueEntry_general ht hm hc hk,
    fun hk => ⟨fun v hv => ?_, fun hv => ?_⟩⟩, fun hm hc k hk => ?_,
      fun hm hc hr hk v u hv hu => ?_⟩
  · rw [enqueueEntry, if_pos ht, ho]
    rfl
  · refine enqueueEntry_placed ht hm hc ?_
    rw [LineUnit.place, hk, find_displaceable ok, hv]
    rfl
  · rw [enqueueEntry_refused ht hm hc (place_none hk hv e), onRefused_line]
  · refine enqueueEntry_safety ht hm hc ?_
    rcases hk with h | ⟨h, h'⟩
    · rw [h]; rfl
    · rw [h]; exact h'
  · have hvq : v ∈ s.line.queue := LineUnit.victim_mem ((makesRoom_iff _ _).1 hv)
    have hlost : enqueueEntry s e = onLost u v := by
      rw [enqueueEntry_displaces ht hm hc hr hk hv, hu]
      rfl
    rw [hlost]
    by_cases hco : frameClass v.frame = .coord
    · have hd : s.line.queue.find? isDisplaceable = none := by
        rcases hv with h | ⟨h, -⟩
        · have := List.find?_some h
          simp [isDisplaceable, hco] at this
        · exact h
      have hfull : ∀ x, u.line.place x = none := by
        subst hu
        refine place_none (freeSlot_displaced ok hvq hk e) (List.find?_eq_none.2 fun x hx => ?_)
        rcases List.mem_append.1 hx with hx | hx
        · exact List.find?_eq_none.1 hd x (List.mem_of_mem_filter hx)
        · simp only [List.mem_singleton] at hx
          simp [hx, isDisplaceable, hc]
      rw [onLost_full hfull]
      exact ⟨onRefused_of_ne_inrush, fun x z hf => (onRefused_inrush hf).trans (by rw [hu]; rfl)⟩
    · rw [onLost_of_not_coord hco]
      exact ⟨fun _ => rfl, fun x z hf => absurd (by rw [hf]; rfl) hco⟩

end Sys2Proof.Machine
end

section
/-! PROOFS. The fate of own frames and of faulty ones: hand-over, success, failure, QUIET and the
veto counter, and the source of array time (R63 to R69, R73, R75, R78 to R80). -/

namespace Sys2Proof.Machine

variable {s t u : State} {e : TxEntry}

/-! ### Success and arbitration -/

theorem succeeded_of_sending (h : sendingEntry s = some e) :
    succeeded s = completed s (s.withLine { s.line with
      queue := s.line.queue.filter fun x => x.age != e.age
      sending := none, txErrors := s.line.txErrors - 1 }) e := by
  unfold succeeded
  rw [h]
  rfl

/-- The completion of a frame that acts on no block. -/
theorem completed_plain (h : isPlain e.frame = true) (s t : State) : completed s t e = t := by
  unfold completed
  split <;> first | rfl | (rename_i hf; rw [hf] at h; cases h)

/-- Settles O14: the completion by the kind of the frame. -/
theorem attemptsEnd : Obligations.AttemptsEnd := by
  refine ⟨fun s e he => ⟨fun hp => ?_, fun b hb => ?_⟩, fun _ => rfl⟩
  · exact congrArg Host.Outcome.next ((succeeded_of_sending he).trans (completed_plain hp _ _))
  · refine congrArg Host.Outcome.next ((succeeded_of_sending he).trans ?_)
    unfold completed
    rw [hb]
    cases hf : b.startFlag <;> simp [hf] <;> rfl

/-! ### What a flag set leaves -/

/-- A flag set leaves the counters and the states of the Line Unit. -/
theorem setFlag_line (s : State) (n d x : Nat) :
    (setFlag s n d x).line = { s.line with
      queue := (setFlag s n d x).line.queue, nextAge := (setFlag s n d x).line.nextAge } :=
  (setFlag_silent s n d x).counters

/-! ### Frames at fault -/

theorem vetoFrame_counts {raw : RawFrame} (hv : vetoes s = true) (hf : formatFault raw = true)
    (hp : s.line.passive = false) (h : s.line.vetoCount + 1 < 8) :
    vetoFrame s raw = s.withLine { s.line with vetoCount := s.line.vetoCount + 1 } := by
  have : s.line.vetoCount ≠ 7 := by omega
  simp [vetoFrame, hv, hf, hp, this]

theorem vetoFrame_eighth {raw : RawFrame} (hv : vetoes s = true) (hf : formatFault raw = true)
    (hp : s.line.passive = false) (h : s.line.vetoCount = 7) :
    vetoFrame s raw = setFlag (s.withLine { s.line with vetoCount := 8, passive := true })
      flagLineFault 1 0 := by
  simp [vetoFrame, hv, hf, hp, h]
  rfl

/-- Settles O16: the branches of `vetoFrame`; LINE_FAULT leaves the counters as they are. -/
theorem vetoesAreCounted : Obligations.VetoesAreCounted := by
  refine fun s => ⟨fun raw h => congrArg Host.Outcome.next ?_, fun raw hv hf hp =>
    ⟨fun h => ?_, fun h hl => ?_⟩, fun n hr => congrArg Host.Outcome.next ?_⟩
  · rcases h with h | h <;> simp [vetoFrame, h]
  · exact congrArg Host.Outcome.next (vetoFrame_counts hv hf hp h)
  · have hs := setFlag_silent (s.withLine { s.line with vetoCount := 8, passive := true })
      flagLineFault 1 0
    have hr := setFlag_records
      (s := s.withLine { s.line with vetoCount := 8, passive := true }) (n := flagLineFault)
      hl (by decide) 1 0
    refine ⟨_, congrArg Host.Outcome.next (vetoFrame_eighth hv hf hp h), ?_, ?_, hr.1, hr.2,
      hs.axis,
      hs.lock, hs.compact, hs.peers, hs.time⟩
    · exact congrArg LineUnit.vetoCount hs.counters
    · exact congrArg LineUnit.passive hs.counters
  · simp [vetoedElsewhere, hr, cleanRead]

/-! ### Failure and QUIET -/

theorem failed_of_sending (h : sendingEntry s = some e) (hx : s.line.txErrors ≤ 63) :
    failed s = enterQuiet (countFailure (s.withLine { s.line with
      sending := none, txErrors := s.line.txErrors + 1 }) e) := by
  have hm : min 64 (s.line.txErrors + 1) = s.line.txErrors + 1 := by omega
  rw [failed, h]
  simp only [hm]

theorem enterQuiet_below (h : s.line.txErrors ≠ 64) : enterQuiet s = s := by
  simp [enterQuiet, h]

theorem enterQuiet_at (h : s.line.txErrors = 64) (hq : s.line.quiet = false) :
    enterQuiet s = setFlag (s.withLine { s.line with quiet := true, quietRun := 0 })
      flagLineFault 2 0 := by
  simp [enterQuiet, h, hq]

/-- The entry into QUIET: its fields, and LINE_FAULT with detail QUIET. -/
theorem enterQuiet_effect (h : s.line.txErrors = 64) (hq : s.line.quiet = false)
    (hl : s.report.flags.length = 16) :
    (enterQuiet s).line.quiet = true ∧ (enterQuiet s).line.quietRun = 0 ∧
      (enterQuiet s).line.txErrors = 64 ∧ (enterQuiet s).line.sending = s.line.sending ∧
      flagRecord (enterQuiet s) flagLineFault = ⟨true, 2, 0, now s⟩ ∧
      (∀ n, n ≠ flagLineFault → flagRecord (enterQuiet s) n = flagRecord s n) ∧
      Silent (recordFlag (s.withLine { s.line with quiet := true, quietRun := 0 })
        flagLineFault 2 0) (enterQuiet s) := by
  rw [enterQuiet_at h hq]
  have hline := setFlag_line (s.withLine { s.line with quiet := true, quietRun := 0 })
    flagLineFault 2 0
  have hr := setFlag_records (s := s.withLine { s.line with quiet := true, quietRun := 0 })
    (n := flagLineFault) hl (by decide) 2 0
  exact ⟨(congrArg LineUnit.quiet hline).trans rfl, (congrArg LineUnit.quietRun hline).trans rfl,
    (congrArg LineUnit.txErrors hline).trans h, (congrArg LineUnit.sending hline).trans rfl, hr.1,
      hr.2,
    setFlag_silent _ _ _ _⟩

/-- A frame that is not dropped at its failed attempt. -/
theorem countFailure_kept (h : frameClass e.frame = .safety ∨ e.attempts + 1 < 8) (s : State) :
    countFailure s e = changeTx s e.age fun x => { x with attempts := x.attempts + 1 } := by
  have : ¬ (frameClass e.frame ≠ .safety ∧ 8 ≤ e.attempts + 1) := by
    rintro ⟨hc, ha⟩
    rcases h with h | h
    · exact hc h
    · omega
  simp only [countFailure, bne_iff_ne, Bool.and_eq_true, decide_eq_true_eq]
  rw [if_neg this]

theorem countFailure_dropped (hc : frameClass e.frame ≠ .safety) (ha : 8 ≤ e.attempts + 1)
    (s : State) : countFailure s e = settlePower s (onLost (dropTx s e.age) e) := by
  simp only [countFailure, bne_iff_ne, Bool.and_eq_true, decide_eq_true_eq]
  rw [if_pos ⟨hc, ha⟩]

/-- Settles O15: the frame is counted or dropped, then the counter is looked at; the owner's frame
and the account leave the counters. -/
theorem aFailedAttemptIsCounted : Obligations.AFailedAttemptIsCounted := by
  refine ⟨fun s => ⟨fun hq hr => congrArg Host.Outcome.next ?_, fun h =>
    congrArg Host.Outcome.next ?_, fun hq p => congrArg Host.Outcome.next ?_⟩,
    fun s e he => ⟨fun hk => ⟨fun hx => ?_, fun hx hq hl => ?_⟩, fun hc ha u v w hu hv hw => ?_⟩⟩
  · simp [quietOver, hq, hr]
  · rcases h with h | h
    · simp [quietOver, h]
    · simp [quietOver, Nat.not_le.2 h]
  · simp [handOver, mayHandOver, hq]
  · refine congrArg Host.Outcome.next ?_
    rw [failed_of_sending he (by omega), countFailure_kept hk]
    exact enterQuiet_below (by show s.line.txErrors + 1 ≠ 64; omega)
  · have hf := failed_of_sending he (by omega : s.line.txErrors ≤ 63)
    rw [countFailure_kept hk] at hf
    obtain ⟨h1, h2, h3, h4, h5, h6, hs⟩ := enterQuiet_effect (s := changeTx (s.withLine
      { s.line with sending := none, txErrors := s.line.txErrors + 1 }) e.age
        fun x => { x with attempts := x.attempts + 1 })
      (by show s.line.txErrors + 1 = 64; omega) hq hl
    rw [← hf] at h1 h2 h3 h4 h5 h6 hs
    exact ⟨_, rfl, h1, h2, h3, h4, h5, h6, hs.axis, hs.lock, hs.compact, hs.sensor, hs.time⟩
  · have hlost : onLost v e = w :=
      onLost_of_followUp (by rw [hv]; rfl) (by rw [hv]; rfl) (by rw [hv]; rfl) (by rw [hv]; rfl) hw
    have hs : Silent v (settlePower u w) :=
      hlost ▸ settlePower_silent (onLost_silent (.refl v) e) u
    have hf : s.line.txErrors ≤ 63 → failed s = enterQuiet (settlePower u w) := fun hx => by
      rw [failed_of_sending he hx, countFailure_dropped hc ha, ← hlost, hu, hv]
      rfl
    have hcount : (settlePower u w).line.txErrors = s.line.txErrors + 1 := by
      rw [hs.counters, hv]; rfl
    refine ⟨fun hx => congrArg Host.Outcome.next ?_, fun hx hq hl => ?_⟩
    · rw [hf (by omega)]
      exact enterQuiet_below (by omega)
    · have hq' : (settlePower u w).line.quiet = false := by rw [hs.counters, hv]; exact hq
      have hsend : (settlePower u w).line.sending = none := by rw [hs.counters, hv]; rfl
      have hrep : (settlePower u w).report = s.report := by rw [hs.report, hv]; rfl
      have hnow : now (settlePower u w) = now s := by unfold now; rw [hs.time, hv]; rfl
      have hx' : (settlePower u w).line.txErrors = 64 := by omega
      obtain ⟨h1, h2, h3, h4, h5, h6, -⟩ := enterQuiet_effect hx' hq' (hrep ▸ hl)
      refine ⟨_, congrArg Host.Outcome.next (hf (by omega)), enterQuiet_at hx' hq', h1, h2, h3,
        h4.trans hsend, h5.trans (by rw [hnow]), fun n hn => (h6 n hn).trans ?_⟩
      unfold flagRecord
      rw [hrep]

/-! ### Hand-over -/

/-- The attempt of a frame that carries no mask but the present one begins as the frame is. -/
theorem beginAttempt_asIs {age : Nat} (h : ∀ x ∈ s.line.queue, x.age = age →
    ∀ b, x.frame = .beacon b → b.mask = lockMask s) :
    beginAttempt s age = s.withLine { s.line with sending := some age } := by
  have hq : (s.line.queue.map fun x => if x.age == age then
      (match x.frame with
      | .beacon p => { x with frame := .beacon { p with mask := lockMask s } }
      | _ => x) else x) = s.line.queue := by
    refine (List.map_congr_left fun x hx => ?_).trans (List.map_id _)
    by_cases ha : x.age = age
    · rw [if_pos (beq_iff_eq.2 ha)]
      split
      · rename_i b hb
        obtain ⟨_, frame, _⟩ := x
        subst hb
        simp [← h _ hx ha b rfl]
      · rfl
    · rw [if_neg (by simpa using ha)]
      rfl
  unfold beginAttempt changeTx
  dsimp only [withLine_line]
  refine Eq.trans ?_ (congrArg
    (fun q => s.withLine { s.line with queue := q, sending := some age }) hq)
  rfl

/-- The attempt of a started BEACON begins with the present lock mask in it. -/
theorem beginAttempt_beacon (ok : LineOk s.line) (he : e ∈ s.line.queue) {b : BeaconPayload}
    (hf : e.frame = .beacon b) : beginAttempt s e.age = s.withLine { s.line with
      queue := s.line.queue.map fun x =>
        if x.age == e.age then { x with frame := .beacon { b with mask := lockMask s } } else x
      sending := some e.age } := by
  have hq : (s.line.queue.map fun x => if x.age == e.age then
      (match x.frame with
      | .beacon p => { x with frame := .beacon { p with mask := lockMask s } }
      | _ => x) else x) = s.line.queue.map fun x =>
        if x.age == e.age then { x with frame := .beacon { b with mask := lockMask s } } else
          x := by
    refine List.map_congr_left fun x hx => ?_
    by_cases ha : x.age = e.age
    · rw [ok.same hx he (.inr ha), hf]
    · rw [if_neg (by simpa using ha), if_neg (by simpa using ha)]
  exact congrArg (fun q => s.withLine { s.line with queue := q, sending := some e.age }) hq

theorem handOverN_started {k : Nat} (h : firstInOrder s.line.queue = some e)
    (hs : e.started = true) : handOverN (k + 1) s = beginAttempt s e.age := by
  rw [handOverN, h]
  exact if_pos hs

theorem handOverN_starts {k : Nat} {f : Frame} (h : firstInOrder s.line.queue = some e)
    (hs : e.started = false) (hf : atStartNotice s e = some f) :
    handOverN (k + 1) s = settlePower s (beginAttempt (claimAtStart
      (changeTx s e.age fun x => { x with frame := f, started := true }) f true) e.age) := by
  rw [handOverN, h]
  simp only [hs, hf]
  rfl

theorem handOverN_withdrawn {k : Nat} (h : firstInOrder s.line.queue = some e)
    (hs : e.started = false) (hf : atStartNotice s e = none) :
    handOverN (k + 1) s = handOverN k (claimAtStart (dropTx s e.age) e.frame false) := by
  rw [handOverN, h]
  simp only [hs, hf]
  rfl

theorem handOver_of_may (h : mayHandOver s = true) (p : Encoders) :
    handOver s p = handOverN (s.line.queue.length + 1) (readEncoders s p) := by
  rw [handOver, if_pos h]
  rfl

/-- The claim of an INRUSH that has started is not the account's to change (R177). -/
theorem updateClaim_sent (h : s.share.claim = .sent) : updateClaim s = s := by
  rw [updateClaim, h]

theorem heaterNotice_sent (h : s.share.claim = .sent) :
    (heaterNotice s).share.claim = .sent := by
  unfold heaterNotice
  dsimp only
  split
  · exact h
  · rw [updateClaim_sent]
    · exact h
    · exact h

theorem enqueueEntry_claim {x : TxEntry} (h : ∀ a z, x.frame ≠ .inrush a z)
    (hc : frameClass x.frame ≠ .safety) : (enqueueEntry s x).share = s.share := by
  unfold enqueueEntry
  split
  · split
    · rfl
    · unfold enqueueNew
      split
      · exact absurd ‹_› hc
      · split
        · rfl
        · rw [onRefused_of_ne_inrush h]
  · rfl

theorem updateAsk_claim (s : State) : (updateAsk s).share.claim = s.share.claim := by
  have hq : ∀ u : State, (queueAsk u).share.claim = u.share.claim := fun u => by
    show (enqueueEntry u (TxEntry.fresh (.shareAsk (askAmount u)))).share.claim = _
    rw [enqueueEntry_claim (fun _ _ h => by cases h) (fun h => by cases h)]
  unfold updateAsk
  split
  · split
    · rfl
    · dsimp only
      split
      · split
        · rfl
        · exact hq _
      · exact hq _
  · rfl

theorem settlePower_sent (h : s.share.claim = .sent) (before : State) :
    (settlePower before s).share.claim = .sent := by
  have ht : (topUp s).share.claim = .sent := by
    unfold topUp
    split
    · exact heaterNotice_sent h
    · exact h
  unfold settlePower
  split
  · exact (updateAsk_claim _).trans ht
  · exact (updateAsk_claim _).trans h

/-- Where the free shares have not risen, the settlement is the ask's alone (R167, R171). -/
theorem settlePower_of_le {before : State} (h : freeShares s ≤ freeShares before) :
    settlePower before s = updateAsk s := by
  rw [settlePower, if_neg (Nat.not_lt.2 h)]

theorem withdrawFrames_none {p : TxEntry → Bool}
    (h : ∀ x ∈ s.line.queue, p x = false ∨ x.started = true) : withdrawFrames s p = s := by
  have hq : s.line.queue.filter (fun x => x.started || !p x) = s.line.queue :=
    List.filter_eq_self.2 fun x hx => by rcases h x hx with hp | hp <;> simp [hp]
  exact congrArg (fun q => s.withLine { s.line with queue := q }) hq

theorem updateAsk_of_not_ready (h : s.seq.station ≠ .ready) : updateAsk s = s := by
  rw [updateAsk, if_neg (by simpa [isReady] using h)]

/-- Without a shortfall, and without an ask that waits, the ask is left (R171). -/
theorem updateAsk_settled (hs : shortfall s = 0)
    (h : ∀ x ∈ s.line.queue, isAsk x = false ∨ x.started = true) : updateAsk s = s := by
  by_cases hr : isReady s = true
  · rw [updateAsk, if_pos hr, if_pos (by simp [hs])]
    exact withdrawFrames_none h
  · rw [updateAsk, if_neg hr]

/-- What becomes of a started frame's amounts: the own SHARE_GRANTs that have started are not
lowered by a start (R166). -/
theorem grantsStarted_start {f : Frame} (ok : LineOk s.line) (he : e ∈ s.line.queue)
    (hs : e.started = false) : grantsStarted s ≤
      grantsStarted (changeTx s e.age fun x => { x with frame := f, started := true }) := by
  unfold grantsStarted changeTx
  simp only [withLine_line, List.map_map]
  refine List.sum_le_sum fun x hx => ?_
  by_cases ha : x.age = e.age
  · rw [ok.same hx he (.inr ha), hs]
    split <;> exact Nat.zero_le _
  · simp [ha]

/-- The state in which an unstarted frame has been started as `f`. -/
def startedAs (s : State) (e : TxEntry) (f : Frame) : State :=
  s.withLine { s.line with
    queue := s.line.queue.map fun x =>
      if x.age == e.age then { x with frame := f, started := true } else x
    sending := some e.age }

theorem startedAs_freeShares (ok : LineOk s.line) (he : e ∈ s.line.queue)
    (hs : e.started = false) (f : Frame) : freeShares (startedAs s e f) ≤ freeShares s := by
  have hg : grantsStarted s ≤ grantsStarted (startedAs s e f) := grantsStarted_start ok he hs
  show heldShares (startedAs s e f) - committedShares s ≤ _
  refine Nat.sub_le_sub_right (Nat.sub_le_sub_left (Nat.add_le_add_left hg _) _) _

theorem startedAs_lineOk (ok : LineOk s.line) (he : e ∈ s.line.queue) {f : Frame}
    (hf : atStartNotice s e = some f) : LineOk (startedAs s e f).line := by
  obtain ⟨hclass, hgroup⟩ := atStartNotice_class hf
  have hsame : ∀ x ∈ s.line.queue, (x.age == e.age) = true → x = e := fun x hx ha =>
    ok.same hx he (.inr (beq_iff_eq.1 ha))
  refine ok.map (fun x => if x.age == e.age then { x with frame := f, started := true } else x)
    (fun x _ => ?_) (fun x _ => ?_) (fun x _ => ?_) (fun x hx => ?_) fun x hx y => ?_
  · split <;> rfl
  · split <;> rfl
  · split
    · exact fun h => by cases h
    · exact id
  · split
    · exact hsame x hx ‹_› ▸ hclass
    · rfl
  · split
    · exact hsame x hx ‹_› ▸ hgroup y
    · exact ⟨rfl, rfl⟩

theorem atStartNotice_mask {b : BeaconPayload} (h : atStartNotice s e = some (.beacon b)) :
    b.mask = lockMask s := by
  unfold atStartNotice at h
  split at h
  · cases h; rfl
  · obtain ⟨_, -, h⟩ := Option.map_eq_some_iff.1 h
    cases h
  · split at h <;> cases h
  · exact absurd (Option.some.inj h) (by simp_all)

theorem atStartNotice_inrush {f : Frame} (h : atStartNotice s e = some f) :
    (∃ w z, f = .inrush w z) ↔ ∃ w z, e.frame = .inrush w z := by
  unfold atStartNotice at h
  split at h
  case h_1 he => cases h; simp [he]
  case h_2 he =>
    obtain ⟨_, -, rfl⟩ := Option.map_eq_some_iff.1 h
    simp [he]
  case h_3 he =>
    split at h
    · cases h
    · cases h; simp [he]
  case h_4 => cases h; rfl

/-- A frame started as its owner leaves it begins its attempt as it is. -/
theorem beginAttempt_start {f : Frame} (hf : atStartNotice s e = some f) :
    beginAttempt (claimAtStart (changeTx s e.age fun x => { x with frame := f, started := true })
      f true) e.age = claimAtStart (startedAs s e f) f true := by
  have hline : ∀ u : State, (claimAtStart u f true).line = u.line ∧
      lockMask (claimAtStart u f true) = lockMask u := fun u => by
    unfold claimAtStart
    split <;> exact ⟨rfl, rfl⟩
  rw [beginAttempt_asIs fun x hx ha b hb => ?_]
  · unfold claimAtStart
    split <;> rfl
  · rw [(hline _).1] at hx
    obtain ⟨y, hy, rfl⟩ := List.mem_map.1 hx
    have hye : y.age = e.age := by split at ha <;> exact ha
    rw [if_pos (beq_iff_eq.2 hye)] at hb
    cases hb
    exact (atStartNotice_mask hf).trans (hline _).2.symm

/-- The start of an unstarted frame that its owner leaves. -/
theorem handOver_start {p : Encoders} {f : Frame} (hm : mayHandOver s = true)
    (hq : firstInOrder s.line.queue = some e) (hs : e.started = false)
    (hf : atStartNotice (readEncoders s p) e = some f) :
    handOver s p = settlePower (readEncoders s p)
      (claimAtStart (startedAs (readEncoders s p) e f) f true) := by
  rw [handOver_of_may hm, handOverN_starts (s := readEncoders s p) hq hs hf,
    beginAttempt_start hf]

/-- A queue without one of its frames is shorter by 1. -/
theorem length_without (ok : LineOk s.line) (he : e ∈ s.line.queue) :
    s.line.queue.length = (s.line.queue.filter fun x => x.age != e.age).length + 1 := by
  have hnodup : s.line.queue.Nodup := ok.1.imp fun h heq => h.1 (congrArg TxEntry.slot heq)
  have herase : (s.line.queue.filter fun x => x.age != e.age) = s.line.queue.erase e := by
    rw [hnodup.erase_eq_filter]
    refine List.filter_congr fun x hx => ?_
    by_cases hxe : x = e
    · subst hxe
      rw [bne_self_eq_false, bne_self_eq_false]
    · have : x.age ≠ e.age := fun ha => hxe (ok.same hx he (.inr ha))
      exact (bne_iff_ne.2 this).trans (bne_iff_ne.2 hxe).symm
  rw [herase, List.length_erase_of_mem he]
  have := List.length_pos_of_mem he
  omega

/-- The withdrawal of an unstarted frame at its start notice: the next frame is taken. -/
theorem handOver_withdrawn {p : Encoders} (hm : mayHandOver s = true) (ok : LineOk s.line)
    (hq : firstInOrder s.line.queue = some e) (hs : e.started = false)
    (hf : atStartNotice (readEncoders s p) e = none) (hu : mayHandOver u = true)
    (hrest : u.line.queue = s.line.queue.filter fun x => x.age != e.age)
    (heq : readEncoders u p = claimAtStart (dropTx (readEncoders s p) e.age) e.frame false) :
    handOver s p = handOver u p := by
  rw [handOver_of_may hm, handOver_of_may hu,
    handOverN_withdrawn (s := readEncoders s p) hq hs hf, ← heq,
    length_without ok (firstInOrder_mem hq), hrest]

/-- What the owner makes of an unstarted frame, by its kind (R90, R172, R177). -/
theorem atStartNotice_eq {f : Frame}
    (hbeacon : ∀ b, e.frame = .beacon b → f = .beacon (buildBeacon s))
    (hgrant : ∀ b a x, e.frame = .shareGrant b a x → mayGrant s b = true ∧ isPresent s b = true ∧
      min a (min e.stillWanted (spareShares s)) ≠ 0 ∧
      f = .shareGrant b (min a (min e.stillWanted (spareShares s)))
        (s.time.sec + (cfg s).loanTerm))
    (hinrush : ∀ w z, e.frame = .inrush w z →
      s.share.claimCount ≠ 0 ∧ f = .inrush (inrushStart s) s.share.claimCount)
    (hother : (∀ b, e.frame ≠ .beacon b) → (∀ b a x, e.frame ≠ .shareGrant b a x) →
      (∀ w z, e.frame ≠ .inrush w z) → f = e.frame) : atStartNotice s e = some f := by
  unfold atStartNotice
  split
  case h_1 b hf => rw [hbeacon b hf]
  case h_2 b a x hf =>
    obtain ⟨hg, hp, hn, rfl⟩ := hgrant b a x hf
    simp [grantAtStart, hg, hp, hn]
  case h_3 w z hf =>
    obtain ⟨hn, rfl⟩ := hinrush w z hf
    simp [hn]
  case h_4 hb hg hi => rw [hother hb hg hi]

theorem atStartNotice_grant_none {b a x : Nat} (hf : e.frame = .shareGrant b a x)
    (h : mayGrant s b = false ∨ isPresent s b = false ∨
      min a (min e.stillWanted (spareShares s)) = 0) : atStartNotice s e = none := by
  have hno : grantAtStart s b a e.stillWanted = none := by
    rcases h with h | h | h <;> simp [grantAtStart, h]
  rw [atStartNotice, hf]
  simp [hno]

theorem atStartNotice_inrush_none {w : ATime} {z : Nat} (hf : e.frame = .inrush w z)
    (h : s.share.claimCount = 0) : atStartNotice s e = none := by
  rw [atStartNotice, hf]
  simp [h]

theorem claimAtStart_of_inrush {f : Frame} (h : ∃ w z, f = .inrush w z) (b : Bool) :
    claimAtStart s f b = s.withShare { s.share with claim := if b then .sent else .none } := by
  obtain ⟨w, z, rfl⟩ := h
  rfl

theorem claimAtStart_of_not_inrush {f : Frame} (h : ∀ w z, f ≠ .inrush w z) (b : Bool) :
    claimAtStart s f b = s := by
  unfold claimAtStart
  split
  · exact absurd rfl (h _ _)
  · rfl

theorem claimAtStart_line (s : State) (f : Frame) (b : Bool) :
    (claimAtStart s f b).line = s.line := by
  unfold claimAtStart
  split <;> rfl

/-- The claim set at a start notice changes nothing outside the Share Unit. -/
theorem claimAtStart_silent (s : State) (f : Frame) (b : Bool) :
    Silent s (claimAtStart s f b) := by
  unfold claimAtStart
  split
  · exact (Silent.refl s).withShare rfl rfl rfl
  · exact .refl s

/-- Settles O13: the first frame by what its owner makes of it at its start notice. -/
theorem handOverStartsTheFirstFrame : Obligations.HandOverStartsTheFirstFrame := by
  intro s p e ok hm hq
  have he := firstInOrder_mem hq
  refine ⟨fun hs hb => congrArg Host.Outcome.next ?_, fun hs f hbeacon hgrant hinrush hother => ?_,
    fun b hs hb => congrArg Host.Outcome.next ?_, fun hs u hu => ⟨fun b a x hf hno =>
      congrArg Host.Outcome.next ?_, fun w z hf hno => congrArg Host.Outcome.next ?_⟩⟩
  · rw [handOver_of_may hm, handOverN_started (s := readEncoders s p) hq hs, beginAttempt_asIs]
    · rfl
    · intro x hx ha b hxb
      exact absurd (ok.same hx he (.inr ha) ▸ hxb) (hb b)
  · have hf : atStartNotice (readEncoders s p) e = some f :=
      atStartNotice_eq hbeacon hgrant hinrush hother
    have hstart := handOver_start hm hq hs hf
    have hlineOk : LineOk (claimAtStart (startedAs (readEncoders s p) e f) f true).line := by
      rw [claimAtStart_line]
      exact startedAs_lineOk (s := readEncoders s p) ok he hf
    have hclaim := claimAtStart_silent (startedAs (readEncoders s p) e f) f true
    have hsil := settlePower_silent hclaim (readEncoders s p)
    have hentry : { e with frame := f, started := true } ∈
        (claimAtStart (startedAs (readEncoders s p) e f) f true).line.queue := by
      rw [claimAtStart_line]
      exact List.mem_map.2 ⟨e, he, if_pos (beq_self_eq_true _)⟩
    refine ⟨_, congrArg Host.Outcome.next hstart, ?_, ?_, hsil.axis, hsil.compact, hsil.lock,
      hsil.peers, hsil.time, hsil.sensor, hsil.wind, hsil.report, fun hi => ?_,
      fun hi u hu => ?_⟩
    · rw [hsil.counters]
      rfl
    · exact (settlePower_stays (.refl _) _).started hlineOk _ hentry rfl
    · rw [claimAtStart_of_inrush ((atStartNotice_inrush hf).2 hi)]
      exact settlePower_sent rfl _
    · have hfi : ∀ w z, f ≠ .inrush w z := fun w z h => by
        obtain ⟨w', z', h'⟩ := (atStartNotice_inrush hf).1 ⟨w, z, h⟩
        exact hi w' z' h'
      have hu' : startedAs (readEncoders s p) e f = u := hu.symm
      have hle := startedAs_freeShares (s := readEncoders s p) ok he hs f
      rw [hu'] at hle
      rw [claimAtStart_of_not_inrush hfi, hu', settlePower_of_le hle]
      exact ⟨rfl, fun hr => updateAsk_of_not_ready (by rw [hu]; exact hr), updateAsk_settled⟩
  · rw [handOver_of_may hm, handOverN_started (s := readEncoders s p) hq hs,
      beginAttempt_beacon (s := readEncoders s p) ok he hb]
    rfl
  · have hnone := atStartNotice_grant_none (s := readEncoders s p) hf hno
    refine handOver_withdrawn hm ok hq hs hnone (by rw [hu]; exact hm) (by rw [hu]; rfl) ?_
    rw [hf, hu]
    rfl
  · have hnone := atStartNotice_inrush_none (s := readEncoders s p) hf hno
    refine handOver_withdrawn hm ok hq hs hnone (by rw [hu]; exact hm) (by rw [hu]; rfl) ?_
    rw [hf, hu]
    rfl

/-! ### The source of array time, and the EVENT of a flag -/

theorem watchOver_reached (hw : 1500 ≤ s.time.watch) (hf : s.time.free = false) :
    watchOver s = setFlag (s.withTime { s.time with free := true }) flagTimeFreerun 1 0 := by
  simp [watchOver, hw, hf]

theorem clockStops_running (hr : s.pins.refclk = true) (hh : s.seq.held = false) :
    clockStops s = setFlag (s.withPins { s.pins with refclk := false }) flagTimeFreerun 2 0 := by
  simp [clockStops, hr, hh]

/-- The frames of the Report Unit. -/
def ofReport (f : Frame) : Bool := frameOwner f == .report

theorem ofReport_shareBlind : ShareBlind ofReport := ⟨fun _ => rfl, fun _ _ => rfl⟩

theorem flagRecord_recordFlag {n : Nat} (hl : s.report.flags.length = 16) (hn : n < 16)
    (d x : Nat) : flagRecord (recordFlag s n d x) n = ⟨true, d, x, now s⟩ := by
  simp [flagRecord, recordFlag, State.withReport, hl, hn]

/-- The slot that the EVENT of a flag takes in an empty queue (R68, R190). -/
def eventSlot (n : Nat) : Nat := if isFaultFlag n then 8 else 0

theorem enqueue_event_empty {n d : Nat} {x : ATime} (ht : transmits s = true)
    (hq : s.line.queue = []) : enqueue s (.event n d x) =
      s.withLine (s.line.append (eventSlot n) (TxEntry.fresh (.event n d x))) := by
  have hm : s.line.groupMate (.event n d x) = none := by simp [LineUnit.groupMate, hq]
  unfold eventSlot
  by_cases hc : isFaultFlag n = true
  · rw [if_pos hc]
    refine enqueueEntry_safety ht hm ?_ (by rw [hq]; rfl)
    simp [TxEntry.fresh, frameClass, hc]
  · rw [if_neg hc]
    refine enqueueEntry_general ht hm ?_ (by rw [hq]; rfl)
    simp [TxEntry.fresh, frameClass, hc]

/-- A flag that queues no EVENT: set already, or not selected, or ID_CLASH, or of a station that
does not transmit (R76, R190). -/
theorem setFlagRaw_silentFlag {n d x : Nat} (h : flagOn s n = true ∨ transmits s = false ∨
    (reportMask s).getLsbD n = false ∨ n = flagIdClash) :
    (setFlagRaw s n d x).line = s.line := by
  unfold setFlagRaw
  split
  · rfl
  · rename_i hoff
    unfold queueEvent
    split
    · rename_i hsel
      have ht : transmits (recordFlag s n d x) = false := by
        simp only [Bool.and_eq_true, bne_iff_ne] at hsel
        rcases h with h | h | h | h
        · exact absurd h hoff
        · exact h
        · exact absurd (h ▸ hsel.1) (by decide)
        · exact absurd h hsel.2
      unfold enqueue enqueueEntry
      rw [ht]
      rfl
    · rfl

/-- A flag set from clear, selected, in an empty queue: its EVENT alone is queued (R190). -/
theorem setFlagRaw_event {n d x : Nat} (hl : s.report.flags.length = 16) (hn : n < 16)
    (hq : s.line.queue = []) (hoff : flagOn s n = false) (ht : transmits s = true)
    (hsel : (reportMask s).getLsbD n = true) (hc : n ≠ flagIdClash) :
    (setFlagRaw s n d x).line = s.line.append (eventSlot n)
      (TxEntry.fresh (.event n d (now s))) := by
  have hs : ((reportMask (recordFlag s n d x)).getLsbD n && n != flagIdClash) = true := by
    rw [Bool.and_eq_true, bne_iff_ne]
    exact ⟨hsel, hc⟩
  rw [setFlagRaw, if_neg (by simp [hoff]), queueEvent, if_pos hs, flagRecord_recordFlag hl hn]
  exact congrArg State.line (enqueue_event_empty (s := recordFlag s n d x) ht hq)

theorem aged_setFlagRaw_of_empty {n d x : Nat} (hl : s.report.flags.length = 16) (hn : n < 16)
    (hq : s.line.queue = []) : Aged (setFlagRaw s n d x).line ∧
      (setFlagRaw s n d x).line.queue.length ≤ 1 := by
  by_cases h : flagOn s n = true ∨ transmits s = false ∨
      (reportMask s).getLsbD n = false ∨ n = flagIdClash
  · rw [setFlagRaw_silentFlag h]
    exact ⟨.nil hq, by simp [hq]⟩
  · simp only [not_or, Bool.not_eq_true, Bool.not_eq_false] at h
    obtain ⟨hoff, ht, hsel, hc⟩ := h
    rw [setFlagRaw_event hl hn hq hoff ht hsel hc]
    exact ⟨(Aged.nil hq).append _ _, by simp [LineUnit.append, hq]⟩

/-- The account's frames that follow a flag set in an empty queue leave its EVENT (R158, R171). -/
theorem heldOf_setFlag {n d x : Nat} (hl : s.report.flags.length = 16) (hn : n < 16)
    (hq : s.line.queue = []) :
    heldOf ofReport (setFlag s n d x) = heldOf ofReport (setFlagRaw s n d x) := by
  obtain ⟨ha, hlen⟩ := aged_setFlagRaw_of_empty (d := d) (x := x) hl hn hq
  exact (settlePower_spares ofReport_shareBlind s ha (by omega)).2.2

/-- Settles O6: `setFlag` over the state with the source's mark or the pin changed; the EVENT in an
empty queue stands through the settlement of the power account. -/
theorem theTimeSourceIsWatched : Obligations.TheTimeSourceIsWatched := by
  refine ⟨fun s hl => ⟨fun hh h0 => congrArg Host.Outcome.next ?_, fun hw hf => ?_⟩,
    fun s hl => ⟨fun hr hh => ?_, rfl⟩, fun s n d x hn hl hq => ⟨_, rfl, ?_, ?_, ?_, ?_, ?_⟩⟩
  · simp [holdOver, hh, h0]
  · have hs := setFlag_silent (s.withTime { s.time with free := true }) flagTimeFreerun 1 0
    have hr := setFlag_records (s := s.withTime { s.time with free := true })
      (n := flagTimeFreerun) hl (by decide) 1 0
    exact ⟨_, congrArg Host.Outcome.next (watchOver_reached hw hf), hs.time, hr.1, hr.2, hs.axis,
      hs.lock, hs.compact, hs.sensor, hs.wind, hs.peers, hs.pins⟩
  · have hs := setFlag_silent (s.withPins { s.pins with refclk := false }) flagTimeFreerun 2 0
    have hrec := setFlag_records (s := s.withPins { s.pins with refclk := false })
      (n := flagTimeFreerun) hl (by decide) 2 0
    exact ⟨_, congrArg Host.Outcome.next (clockStops_running hr hh), hs.pins, hs.time, hrec.1,
      hrec.2, hs.axis, hs.lock, hs.compact, hs.sensor, hs.wind, hs.peers⟩
  · rintro rfl rfl rfl v rfl hw hf
    exact congrArg Host.Outcome.next (watchOver_reached hw hf)
  · exact (setFlag_records hl hn d x).1
  · exact (setFlag_records hl hn d x).2
  · intro hoff ht hsel hc
    have hheld := heldOf_setFlag (d := d) (x := x) hl hn hq
    have hslot : eventSlot n = if n ∈ [0, 1, 2, 3, 4, 5, 7, 8] then 8 else 0 := by
      have : isFaultFlag n = true ↔ n ∈ [0, 1, 2, 3, 4, 5, 7, 8] := by
        have : n ≠ 15 := hc
        simp [isFaultFlag, this]
      simp only [eventSlot, this]
    rw [← hslot]
    show (heldOf ofReport (setFlag s n d x)).map _ = _
    rw [hheld, heldOf, setFlagRaw_event hl hn hq hoff ht hsel hc]
    simp [LineUnit.append, hq, ofReport, frameOwner, TxEntry.fresh]
  · intro h y hy hown
    have hheld := heldOf_setFlag (d := d) (x := x) hl hn hq
    have hnone : heldOf ofReport (setFlag s n d x) = [] := by
      rw [hheld, heldOf, setFlagRaw_silentFlag h, hq]
      rfl
    have hmem : y ∈ heldOf ofReport (setFlag s n d x) :=
      List.mem_filter.2 ⟨hy, (beq_iff_eq.2 hown : (frameOwner y.frame == .report) = true)⟩
    exact List.not_mem_nil (hnone ▸ hmem)

end Sys2Proof.Machine
end

section
/-! PROOFS. The Axis Engine's shared operations: what the work of the Compact Unit leaves of the
engine, the flush and the entry into HALTED (R5, R15, R18, R27). -/

namespace Sys2Proof.Machine

variable {s s0 t u : State}

/-! ### The work on records, as the engine sees it -/

/-- The queue holds no JOINT entry (R5). -/
def NoJoint (a : AxisUnit) : Prop := ∀ e ∈ a.queue, e.origin ≠ .joint

/-- The motion commit stands, and the engine too where its queue holds no JOINT entry. -/
structure Worked (s t : State) : Prop where
  motion : t.share.motion = s.share.motion
  axis : NoJoint s.axis → t.axis = s.axis

theorem Worked.refl (s : State) : Worked s s := ⟨rfl, fun _ => rfl⟩

theorem Worked.trans (h : Worked s t) (k : Worked t u) : Worked s u :=
  ⟨k.motion.trans h.motion, fun hn =>
    (k.axis (by rw [h.axis hn]; exact hn)).trans (h.axis hn)⟩

theorem Silent.worked (h : Silent s t) : Worked s t := ⟨h.motion, fun _ => h.axis⟩

theorem setFlag_worked (s : State) (n d x : Nat) : Worked s (setFlag s n d x) :=
  ⟨(setFlag_silent s n d x).motion, fun _ => (setFlag_silent s n d x).axis⟩

theorem queueFrame_worked (s : State) (f : Frame) : Worked s (queueFrame s f) :=
  (queueFrame_silent (.refl s) f).worked

theorem judgeBlocked_axis (s : State) : (judgeBlocked s).axis = s.axis := by
  unfold judgeBlocked
  split
  · split
    · rfl
    · exact (setFlag_silent _ _ _ _).axis
  · split <;> rfl

theorem judgeBlocked_motion (s : State) : (judgeBlocked s).share.motion = s.share.motion := by
  unfold judgeBlocked
  split
  · split
    · rfl
    · exact (setFlag_silent _ _ _ _).motion
  · split <;> rfl

theorem judgeBlocked_worked (s : State) : Worked s (judgeBlocked s) :=
  ⟨judgeBlocked_motion s, fun _ => judgeBlocked_axis s⟩

theorem headIsJoint_of_noJoint (h : NoJoint s.axis) (id : Nat) : headIsJoint s id = false := by
  unfold headIsJoint
  split
  · rename_i e rest hq
    simp [h e (hq ▸ List.mem_cons_self)]
  · rfl

theorem axisWithdraw_worked (s : State) (id : Nat) : Worked s (axisWithdraw s id) := by
  refine ⟨?_, fun hn => ?_⟩
  · unfold axisWithdraw
    split
    · split
      · rfl
      · exact judgeBlocked_motion _
      · rfl
      · rfl
    · rfl
  · rw [axisWithdraw, headIsJoint_of_noJoint hn]
    rfl

theorem changeRecord_worked (s : State) (id : Nat) (f : CompactRecord → CompactRecord) :
    Worked s (changeRecord s id f) := ⟨rfl, fun _ => rfl⟩

theorem makeTerminal_worked (s : State) (r : CompactRecord) (st : CompactState) :
    Worked s (makeTerminal s r st) := by
  unfold makeTerminal
  dsimp only
  split
  · have hf := (changeRecord_worked s r.id (ended s st)).trans (setFlag_worked _ flagCompactFailed
      ‹Nat› r.id)
    split
    · exact hf.trans (axisWithdraw_worked _ _)
    · exact hf
  · exact changeRecord_worked s r.id _

theorem completionTest_worked (s : State) (id : Nat) : Worked s (completionTest s id) := by
  unfold completionTest
  split
  · split
    · split
      · exact makeTerminal_worked _ _ _
      · split
        · exact makeTerminal_worked _ _ _
        · exact .refl s
    · exact .refl s
  · exact .refl s

theorem afterLeft_worked (s : State) (id : Nat) : Worked s (afterLeft s id) := by
  unfold afterLeft
  split
  · split
    · split
      · exact completionTest_worked _ _
      · exact makeTerminal_worked _ _ _
    · exact .refl s
  · exact .refl s

theorem queueLeave_silent (s : State) (r : CompactRecord) (reason : Nat) :
    Silent s (queueLeave s r reason) := by
  unfold queueLeave
  dsimp only
  split
  · exact (queueFrame_silent (.refl s) _).trans (queueFrame_silent (.refl _) _)
  · exact queueFrame_silent (.refl s) _

theorem ownLeave_worked (s : State) (r : CompactRecord) (reason : Nat) :
    Worked s (ownLeave s r reason) :=
  (((changeRecord_worked s r.id _).trans (queueLeave_silent _ r reason).worked).trans
    (setFlag_worked _ _ _ _)).trans (afterLeft_worked _ _)

theorem Worked.foldl {α : Type} {f : State → α → State} (hf : ∀ t a, Worked t (f t a))
    (l : List α) (s : State) : Worked s (l.foldl f s) := by
  induction l generalizing s with
  | nil => exact .refl s
  | cons a l ih => exact (hf s a).trans (ih (f s a))

theorem leaveAll_worked (s : State) (reason : Nat) : Worked s (leaveAll s reason) :=
  Worked.foldl (fun _ _ => ownLeave_worked _ _ _) _ s

theorem jointWithdrawn_worked (s : State) (id cause : Nat) :
    Worked s (jointWithdrawn s id cause) := by
  unfold jointWithdrawn
  split
  · exact .refl s
  · split
    · exact ownLeave_worked _ _ _
    · exact .refl s

theorem noticeRemoved_worked (s : State) (gone : List MoveEntry) (cause : Nat) :
    Worked s (noticeRemoved s gone cause) := by
  refine Worked.foldl (fun u e => ?_) gone s
  split
  · exact jointWithdrawn_worked _ _ _
  · exact .refl u

/-! ### The flush (R5) -/

theorem flushed_noJoint (a : AxisUnit) : NoJoint (flushed a) := fun e he hj => by
  have := (List.mem_filter.1 he).2
  rw [hj] at this
  cases this

/-- The flush as a change of the engine and the notices of the entries that leave. -/
theorem flush_eq (s : State) (cause : Nat) : flush s cause = noticeRemoved
    (s.withAxis (flushed s.axis)) (s.axis.queue.filter fun e => e.origin != .stow) cause := rfl

theorem flush_axis (s : State) (cause : Nat) : (flush s cause).axis = flushed s.axis :=
  (noticeRemoved_worked (s.withAxis (flushed s.axis)) _ cause).axis (flushed_noJoint s.axis)

theorem flush_motionCommit (s : State) (cause : Nat) :
    (flush s cause).share.motion = s.share.motion :=
  (noticeRemoved_worked (s.withAxis (flushed s.axis)) _ cause).motion

theorem Elsewhere.refl (s : State) : Elsewhere s s := (Recs.refl s).elsewhere

theorem Elsewhere.trans (h : Elsewhere s t) (k : Elsewhere t u) : Elsewhere s u where
  pending := k.pending.trans h.pending
  pins := k.pins.trans h.pins
  seq := k.seq.trans h.seq
  time := k.time.trans h.time
  peers := k.peers.trans h.peers
  lock := k.lock.trans h.lock
  keepOut := k.keepOut.trans h.keepOut
  sensor := k.sensor.trans h.sensor
  cells := k.cells.trans h.cells
  kept := k.kept.trans h.kept

theorem withAxis_elsewhere (s : State) (a : AxisUnit) : Elsewhere s (s.withAxis a) :=
  ⟨rfl, rfl, rfl, rfl, rfl, rfl, rfl, rfl, rfl, rfl⟩

theorem Keeps.elsewhere (h : Keeps s t) : Elsewhere s t where
  pending := h.pending
  pins := h.pins
  seq := h.seq
  time := h.time
  peers := h.peers
  lock := h.lock
  keepOut := h.keepOut
  sensor := h.sensor
  cells := h.cells
  kept := h.kept

theorem flush_elsewhere (s : State) (cause : Nat) : Elsewhere s (flush s cause) :=
  (flush_keeps (.refl s) cause).elsewhere

/-! ### The commit of motion (R168) -/

theorem commitMotion_motion (s : State) (n : Nat) : (commitMotion s n).share.motion = n :=
  (settlePower_silent (.refl _) s).motion

theorem shareLegEnd_motion (s : State) : (shareLegEnd s).share.motion = 0 :=
  commitMotion_motion s 0

theorem shareLegStart_motion (s : State) (az el : Bool) : (shareLegStart s az el).share.motion =
    (if az then (cfg s).axisShares else 0) + (if el then (cfg s).axisShares else 0) :=
  commitMotion_motion s _

/-! ### HALTED (R18) -/

/-- The engine as the entry into HALTED leaves it. -/
def haltedAxis (a : AxisUnit) : AxisUnit :=
  flushed { a with
    leg := none, stop := none, motion := .halted, releasedAz := false, releasedEl := false }

/-- The state in which the flush of the entry into HALTED is taken. -/
def haltCommit (s : State) : State :=
  shareLegEnd ((s.withAxis { s.axis with
    leg := none, stop := none, motion := .halted, releasedAz := false, releasedEl := false }
    ).withReport { s.report with haltedFlags := [] })

theorem enterHalted_enters (h : s.axis.motion ≠ .halted) :
    enterHalted s = judgeBlocked (flush (haltCommit s) reasonFault) :=
  if_neg (by simpa using h)

theorem enterHalted_stays (h : s.axis.motion = .halted) : enterHalted s = s :=
  if_pos (by simp [h])

theorem enterHalted_axis (h : s.axis.motion ≠ .halted) :
    (enterHalted s).axis = haltedAxis s.axis := by
  rw [enterHalted_enters h, judgeBlocked_axis, flush_axis, haltCommit,
    (shareLegEnd_quiet (.refl _)).axis]
  rfl

theorem enterHalted_motionCommit (h : s.axis.motion ≠ .halted) :
    (enterHalted s).share.motion = 0 := by
  rw [enterHalted_enters h, judgeBlocked_motion, flush_motionCommit]
  exact shareLegEnd_motion _

theorem enterHalted_halted (s : State) : (enterHalted s).axis.motion = .halted := by
  by_cases h : s.axis.motion = .halted
  · rw [enterHalted_stays h, h]
  · rw [enterHalted_axis h]
    rfl

theorem enterHalted_pair (s : State) :
    (enterHalted s).axis.pairFaulted = s.axis.pairFaulted := by
  by_cases h : s.axis.motion = .halted
  · rw [enterHalted_stays h]
  · rw [enterHalted_axis h]
    rfl

/-- Flags set one after the other change no engine record (R189). -/
theorem setFaults_axis (s : State) (l : List (Nat × Nat)) : (setFaults s l).axis = s.axis := by
  unfold setFaults
  induction l generalizing s with
  | nil => rfl
  | cons f l ih => exact (ih _).trans (setFlag_silent _ _ _ _).axis

/-- A flag that is set stays set, and each of the list is set in the end. -/
theorem setFaults_on (hl : s.report.flags.length = 16) {l : List (Nat × Nat)} {n : Nat}
    (hall : ∀ f ∈ l, f.1 < 16) (h : flagOn s n = true ∨ ∃ d, (n, d) ∈ l) :
    flagOn (setFaults s l) n = true := by
  induction l generalizing s with
  | nil =>
    rcases h with h | ⟨d, hd⟩
    · exact h
    · cases hd
  | cons f l ih =>
    have hrec := setFlag_records hl (hall f List.mem_cons_self) f.2 0
    have hlen : (setFlag s f.1 f.2 0).report.flags.length = 16 :=
      (setFlag_quiet (.refl s) _ _ _).flags.trans hl
    refine ih hlen (fun g hg => hall g (List.mem_cons_of_mem _ hg)) ?_
    by_cases hf : n = f.1
    · left
      rw [hf, flagOn, hrec.1]
    · rcases h with h | ⟨d, hd⟩
      · left
        rw [flagOn, hrec.2 n hf]
        exact h
      · rcases List.mem_cons.1 hd with hd | hd
        · exact absurd (by rw [← hd]) hf
        · exact .inr ⟨d, hd⟩

end Sys2Proof.Machine
end

section
/-! PROOFS. Restarts, LOAD and LISTEN's end (R180 to R188). -/

namespace Sys2Proof.Machine

variable {s t u : State}

/-! ### Restarts -/

theorem exec_powerOn (s : State) (x : Straps) : exec (.powerOn x) s =
    .next (freerunIfStopped (restarted s .powerOn 0 x 0 0 [] FlagRecord.initial)) :=
  congrArg (fun t => Host.Outcome.next (freerunIfStopped t))
    (sample_restart s x .powerOn 0 0 0 [] _)

/-- TIME_FREERUN set at a restart sets no zone ON, and leaves the state of the station and of the
motion. -/
theorem freerunIfStopped_still (h : s.seq.station ≠ .ready) :
    (freerunIfStopped s).heater = s.heater ∧ Silent s (freerunIfStopped s) ∨
      (freerunIfStopped s).heater = s.heater ∧
        Silent (recordFlag s flagTimeFreerun 2 0) (freerunIfStopped s) := by
  have hn : NoTopUp s := by
    unfold NoTopUp isReady
    simp [h]
  unfold freerunIfStopped
  split
  · exact .inl ⟨rfl, .refl s⟩
  · exact .inr ⟨(setFlag_still hn (.refl s) _ _ _).heater, setFlag_silent _ _ _ _⟩

theorem freerunIfStopped_outputs (h : s.seq.station ≠ .ready) :
    (freerunIfStopped s).heater = s.heater ∧ (freerunIfStopped s).seq = s.seq ∧
      (freerunIfStopped s).axis = s.axis := by
  rcases freerunIfStopped_still h with ⟨hh, hs⟩ | ⟨hh, hs⟩
  · exact ⟨hh, hs.seq, hs.axis⟩
  · exact ⟨hh, hs.seq, hs.axis⟩

theorem restarted_station (s : State) (c : StartCause) (n : Nat) (x : Straps) (az el : Int)
    (l : List LockEntry) (f : FlagRecord) :
    (restarted s c n x az el l f).seq.station = .load ∨
      (restarted s c n x az el l f).seq.station = .faulted .number := by
  unfold restarted
  dsimp only
  split
  · exact .inl rfl
  · exact .inr rfl

/-- Restarting, every output is at its safe level (R3, R31, R152). -/
theorem restarted_outputs (s : State) (c : StartCause) (n : Nat) (x : Straps) (az el : Int)
    (l : List LockEntry) (f : FlagRecord) : ∀ t, t =
      freerunIfStopped (restarted s c n x az el l f) →
      amplifiersEnabled t = false ∧ (∀ a, brakeEngaged t a = true) ∧
        ∀ z, contactor t z = false := by
  rintro t rfl
  have hst := restarted_station s c n x az el l f
  obtain ⟨hh, hq, ha⟩ := freerunIfStopped_outputs (s := restarted s c n x az el l f) (by
    rcases hst with h | h <;> rw [h] <;> decide)
  refine ⟨?_, brakeEngaged_all (by rw [ha]; rfl) (by rw [ha]; rfl), fun z => ?_⟩
  · rcases hst with h | h <;> simp [amplifiersEnabled, mayEnable, hq, h]
  · unfold contactor
    rw [hh]
    rfl

/-- Settles O7: SAMPLE after each restart, and the outputs of its states. -/
theorem restartsBeginAnew : Obligations.RestartsBeginAnew := by
  refine ⟨fun s x => ⟨exec_powerOn s x, fun h => ?_, fun h => congrArg Host.Outcome.next ?_,
    _, exec_powerOn s x, restarted_outputs _ _ _ _ _ _ _ _ _ rfl⟩,
    fun s low => ⟨rfl, _, rfl, amplifiersEnabled_of_held rfl, brakeEngaged_all rfl rfl,
      fun _ => rfl⟩⟩
  · refine congrArg Host.Outcome.next ?_
    rw [pinResetAll, if_neg (by simp [h]), sample_restart]
    rfl
  · exact if_pos h

/-- A remote ALL reset restarts the part, as it stood before the frame was read. -/
theorem remoteReset_frameRead (s : State) (n : Nat) (x : Straps) : remoteReset (frameRead s n) n x =
    freerunIfStopped (restarted s .remote n x s.axis.posAz s.axis.posEl
      (s.lock.list.filter isRemote) (flagRecord s flagIdClash)) := by
  rw [remoteReset, sample_restart]
  rfl

/-- Settles O8: a RESET is delivered of a console alone, and its scope and target are looked at. -/
theorem remoteAllResetRestarts : Obligations.RemoteAllResetRestarts := by
  refine ⟨fun s n target scope x h => ⟨congrArg Host.Outcome.next (takeConsoleFrame_dish h.1 h.2 _),
    congrArg Host.Outcome.next (takeConsoleFrame_dish h.1 h.2 _),
    congrArg Host.Outcome.next (takeConsoleFrame_dish h.1 h.2 _)⟩,
    fun s n target scope x h => ⟨fun ht hs => congrArg Host.Outcome.next ?_,
      fun hno => congrArg Host.Outcome.next ?_⟩⟩
  · rw [takeConsoleFrame_known h]
    have hus : (target == (frameRead s n).seq.number && scope == 1) = true := by
      rw [Bool.and_eq_true, beq_iff_eq, beq_iff_eq]
      exact ⟨ht, hs⟩
    exact (if_pos hus).trans (remoteReset_frameRead s n x)
  · rw [takeConsoleFrame_known h]
    refine if_neg fun hyes => ?_
    simp only [Bool.and_eq_true, beq_iff_eq] at hyes
    obtain ⟨ht, hs⟩ := hyes
    exact hno.elim (fun h => h ht) fun h => h hs

/-! ### LOAD -/

theorem reading_iff (s : State) : reading s = true ↔
    s.seq.held = false ∧ s.seq.station = .load ∧ s.seq.pauseRun = none := by
  simp [reading, and_assoc]

theorem attemptFailed_again (h : s.seq.failedAttempts + 1 < 3) (cause : ConfigFault) :
    attemptFailed s cause = s.withSeq { s.seq with
      failedAttempts := s.seq.failedAttempts + 1, pauseRun := some 0 } := by
  have : ¬ 3 ≤ s.seq.failedAttempts + 1 := by omega
  rw [attemptFailed]
  exact if_neg this

theorem attemptFailed_third (h : s.seq.failedAttempts = 2) (cause : ConfigFault) :
    attemptFailed s cause =
      enterConfigFault (s.withSeq { s.seq with failedAttempts := 3 }) cause := by
  simp [attemptFailed, h]

theorem busTimeout_reading (h : reading s = true) (bytes : List Byte) :
    busTimeout s bytes = attemptFailed (keepRaw s bytes) .read := if_pos h

theorem attemptEnded_unread (h : reading s = true) {acked : Bool} {bytes : List Byte}
    (hu : acked = false ∨ bytes.length ≠ 143) :
    attemptEnded s acked bytes = attemptFailed (keepRaw s bytes) .read := by
  rw [attemptEnded, if_pos h]
  refine if_pos ?_
  rcases hu with hu | hu <;> simp [hu]

theorem attemptEnded_unchecked (h : reading s = true) {bytes : List Byte}
    (hl : bytes.length = 143) (hc : recordCheck bytes = false) :
    attemptEnded s true bytes = attemptFailed (keepRaw s bytes) .check := by
  simp [attemptEnded, h, hl, hc]

theorem attemptEnded_invalid (h : reading s = true) {bytes : List Byte} {k : Nat}
    (hl : bytes.length = 143) (hc : recordCheck bytes = true)
    (hv : validate bytes s.seq.number = some k) :
    attemptEnded s true bytes = enterConfigFault (keepRaw s bytes) (.value k) := by
  simp [attemptEnded, h, hl, hc, hv]

theorem attemptEnded_valid (h : reading s = true) {bytes : List Byte}
    (hl : bytes.length = 143) (hc : recordCheck bytes = true)
    (hv : validate bytes s.seq.number = none) :
    attemptEnded s true bytes = loadSucceeded (keepRaw s bytes) (recordOf bytes) := by
  simp [attemptEnded, h, hl, hc, hv]

/-! ### FAULTED of kind CONFIG -/

/-- The state in which the frames of the entry into FAULTED of kind CONFIG are queued. -/
def configFaulted (s : State) (cause : ConfigFault) : State :=
  beginChecking (s.withSeq { s.seq with station := .faulted .config, configFault := some cause })

theorem enterConfigFault_eq (s : State) (cause : ConfigFault) :
    enterConfigFault s cause = queueEvents (queueBeacon (configFaulted s cause)) := rfl

theorem enterConfigFault_silent (s : State) (cause : ConfigFault) :
    Silent ((configFaulted s cause).withPeers { s.peers with beaconRun := some 0 })
      (enterConfigFault s cause) :=
  (queueBeacon_silent (configFaulted s cause)).trans (queueEvents_silent _)

/-- Where no flag is set, no EVENT is queued (R190). -/
theorem queueEvents_none (h : ∀ n, flagOn s n = false) : queueEvents s = s := by
  unfold queueEvents
  induction List.range 16 with
  | nil => rfl
  | cons n l ih =>
    rw [List.foldl_cons, if_neg (by simp [h])]
    exact ih

/-- A station that is not READY asks for nothing and begins no zone. -/
theorem settlePower_not_ready (h : isReady s = false) (before : State) :
    settlePower before s = s := by
  have ht : topUp s = s := by simp [topUp, h]
  have ha : updateAsk s = s := by simp [updateAsk, h]
  simp [settlePower, ht, ha]

/-- The BEACON queued in an empty queue. -/
theorem queueBeacon_empty (ht : transmits s = true) (hr : isReady s = false)
    (hq : s.line.queue = []) : (queueBeacon s).line.queue.map (fun x => (x.frame, x.started)) =
      [(.beacon (buildBeacon s), false)] := by
  have he : enqueue s (.beacon (buildBeacon s)) =
      s.withLine (s.line.append 0 (TxEntry.fresh (.beacon (buildBeacon s)))) :=
    enqueueEntry_general ht (by simp [LineUnit.groupMate, hq]) (fun h => by cases h)
      (by rw [hq]; rfl)
  show (queueFrame s _).line.queue.map _ = _
  rw [queueFrame, he, settlePower_not_ready (by exact hr)]
  simp [LineUnit.append, hq, TxEntry.fresh]

/-- Settles O9: the attempts by their outcome; the third failure and a record at fault enter FAULTED
of kind CONFIG. -/
theorem loadFailures : Obligations.LoadFailures := by
  refine ⟨fun s bytes hh hs => ⟨fun hp hn => ?_, fun r hr h10 => congrArg Host.Outcome.next ?_⟩,
    fun s i bytes cause hh hs hp hi => ?_⟩
  · have hread := (reading_iff s).2 ⟨hh, hs, hp⟩
    refine ⟨fun acked hbad => congrArg Host.Outcome.next ?_, congrArg Host.Outcome.next ?_⟩
    · by_cases hu : acked = false ∨ bytes.length ≠ 143
      · rw [attemptEnded_unread hread hu, attemptFailed_again (s := keepRaw s bytes) hn]
        rfl
      · simp only [not_or, Bool.not_eq_false, ne_eq, not_not] at hu
        obtain ⟨rfl, hl⟩ := hu
        have hc : recordCheck bytes = false := by
          rcases hbad with h | h | h
          · cases h
          · exact absurd hl h
          · exact h
        rw [attemptEnded_unchecked hread hl hc, attemptFailed_again (s := keepRaw s bytes) hn]
        rfl
    · rw [busTimeout_reading hread, attemptFailed_again (s := keepRaw s bytes) hn]
      rfl
  · simp [pauseOver, hr, h10]
  · have hread := (reading_iff s).2 ⟨hh, hs, hp⟩
    have hexec : ∃ n, exec i s = .next (enterConfigFault
        (s.withSeq { s.seq with raw := asRead bytes, failedAttempts := n }) cause) := by
      rcases hi with ⟨rfl, hl, ⟨hc, hf, rfl⟩ | ⟨hc, k, hv, rfl⟩⟩ | ⟨hf, rfl, rfl | rfl⟩
      · exact ⟨3, congrArg Host.Outcome.next ((attemptEnded_unchecked hread hl hc).trans
          (attemptFailed_third (s := keepRaw s bytes) hf _))⟩
      · exact ⟨_, congrArg Host.Outcome.next (attemptEnded_invalid hread hl hc hv)⟩
      · exact ⟨3, congrArg Host.Outcome.next ((busTimeout_reading hread bytes).trans
          (attemptFailed_third (s := keepRaw s bytes) hf _))⟩
      · exact ⟨3, congrArg Host.Outcome.next ((attemptEnded_unread hread (.inl rfl)).trans
          (attemptFailed_third (s := keepRaw s bytes) hf _))⟩
    obtain ⟨n, hexec⟩ := hexec
    have hsil := enterConfigFault_silent
      (s.withSeq { s.seq with raw := asRead bytes, failedAttempts := n }) cause
    refine ⟨_, hexec, by rw [hsil.seq]; rfl, by rw [hsil.seq]; rfl, by rw [hsil.seq]; rfl,
      by rw [hsil.seq]; rfl, hsil.lock, hsil.peers, hsil.time, hsil.axis, hsil.compact,
      hsil.sensor, hsil.wind, hsil.report, ?_, fun hq hno b hb => ?_⟩
    · unfold amplifiersEnabled mayEnable
      rw [hsil.seq]
      simp [configFaulted, beginChecking]
    · rw [hsil.seq] at hb
      subst hb
      refine ⟨?_, rfl, rfl, rfl, rfl⟩
      have hrep := (queueBeacon_silent (configFaulted (s.withSeq
        { s.seq with raw := asRead bytes, failedAttempts := n }) cause)).report
      rw [enterConfigFault_eq, queueEvents_none fun k => ?_]
      · refine queueBeacon_empty ?_ rfl hq
        show (!s.seq.held && _) = true
        rw [hh]
        rfl
      · have hk := hno k
        unfold flagOn flagRecord at hk ⊢
        rw [hrep]
        exact hk

/-! ### The way into SELFCHECK -/

/-- The brakes engaged, IDLE and the elevation reference stand. -/
structure AxisHolds (a b : AxisUnit) : Prop where
  refEl : b.refEl = a.refEl
  brakes : a.releasedAz = false ∧ a.releasedEl = false → b.releasedAz = false ∧ b.releasedEl = false
  idle : a.motion = .idle → b.motion = .idle

theorem AxisHolds.refl (a : AxisUnit) : AxisHolds a a := ⟨rfl, id, id⟩

theorem AxisHolds.trans {a b c : AxisUnit} (h : AxisHolds a b) (k : AxisHolds b c) :
    AxisHolds a c :=
  ⟨k.refEl.trans h.refEl, fun hb => k.brakes (h.brakes hb), fun hm => k.idle (h.idle hm)⟩

theorem Withdrawn.holds {a b : AxisUnit} (h : Withdrawn a b) : AxisHolds a b := by
  refine ⟨h.refEl, fun hb => ?_, fun hm => ?_⟩
  · rcases h.motion with ⟨-, hz, he⟩ | ⟨-, -, hz, he⟩
    · exact ⟨hz.trans hb.1, he.trans hb.2⟩
    · exact ⟨hz, he⟩
  · rcases h.motion with ⟨hb, -, -⟩ | ⟨-, hb, -⟩
    · exact hb.trans hm
    · exact hb

theorem flush_holds (s : State) (cause : Nat) : AxisHolds s.axis (flush s cause).axis := by
  rw [flush_axis]
  exact ⟨rfl, id, id⟩

theorem addReason_holds (s : State) (r : StopReason) : AxisHolds s.axis (addReason s r).axis := by
  unfold addReason
  split
  · exact ⟨rfl, id, id⟩
  · exact .refl _

theorem beginStop_holds (hm : s.axis.motion ≠ .idle) (r : StopReason) :
    AxisHolds s.axis (beginStop s r).axis := by
  rw [beginStop, judgeBlocked_axis]
  exact ⟨rfl, id, fun h => absurd h hm⟩

/-- The engine starts no leg outside READY (R11). -/
theorem tryStart_not_ready (h : isReady s = false) : tryStart s = s := by
  have hl : legMayStart s = false := by simp [legMayStart, h]
  simp [tryStart, tryStartN, hl]

theorem axisMaskNotice_holds (h : isReady s = false) (old new : Scope) :
    AxisHolds s.axis (axisMaskNotice s old new).axis := by
  unfold axisMaskNotice
  dsimp only
  split
  · split
    · exact (beginStop_holds (by simp_all) _).trans (flush_holds _ _)
    · exact (beginStop_holds (by simp_all) _).trans (flush_holds _ _)
    · exact (addReason_holds _ _).trans (flush_holds _ _)
    · exact flush_holds _ _
    · split
      · exact beginStop_holds (by simp_all) _
      · exact .refl _
    · exact .refl _
  · rw [tryStart_not_ready h]
    exact .refl _

/-- The Heater Unit of a station that has begun no zone (R164). -/
structure HeaterIdle (u : HeaterUnit) : Prop where
  zones : ∀ z ∈ u.zones, z.state = .off
  claims : u.claims = []
  onOrder : u.onOrder = []
  admitted : u.admitted = 0

theorem HeaterIdle.cleared {u : HeaterUnit} (h : HeaterIdle u) :
    { u with claims := [], onOrder := [], admitted := 0 } = u := by
  obtain ⟨zones, pointer, next, duty, claims, order, admitted, run⟩ := u
  obtain ⟨-, rfl, rfl, rfl⟩ := h
  rfl

theorem allOff_idle (hn : NoTopUp s) (hi : HeaterIdle s.heater) (c : OffCause) :
    (allOff s c).heater = s.heater := by
  have hz : s.heater.zones.map (zoneOff c) = s.heater.zones := by
    refine (List.map_congr_left fun z hz => ?_).trans (List.map_id _)
    simp [zoneOff, hi.zones z hz]
  rw [allOff_heater hn, hz]
  exact hi.cleared

theorem shed_idle (hi : HeaterIdle s.heater) (n : Nat) : Still s (shed s n) := by
  have hz : ∀ f, changeZones s.heater.zones [] f = s.heater.zones := fun f =>
    List.ext_getElem (by simp [changeZones]) (by simp [changeZones])
  unfold shed
  split
  · exact .refl s
  · refine heaterNotice_still ?_
    simp only [hi.claims, hi.onOrder, List.reverse_nil, shedPick, hz, List.filter_nil,
      endIfNone_nil]
    exact ⟨hi.cleared, rfl, rfl, rfl⟩

theorem NoTopUp.of_not_ready (h : isReady s = false) : NoTopUp s := by simp [NoTopUp, h]

theorem axisMaskNotice_still (hr : isReady s = false) (old new : Scope) :
    Still s (axisMaskNotice s old new) := by
  have hn := NoTopUp.of_not_ready hr
  have hreason : ∀ r, Still s (addReason s r) := fun r => by
    unfold addReason
    split
    · exact (Still.refl s).withAxis _
    · exact .refl s
  unfold axisMaskNotice
  dsimp only
  split
  · split
    · exact flush_still hn (beginStop_still hn (.refl s) _) _
    · exact flush_still hn (beginStop_still hn (.refl s) _) _
    · exact flush_still hn (hreason _) _
    · exact flush_still hn (.refl s) _
    · split
      · exact beginStop_still hn (.refl s) _
      · exact .refl s
    · exact .refl s
  · rw [tryStart_not_ready hr]
    exact .refl s

theorem reviseBeaconMask_silent (s : State) : Silent s (reviseBeaconMask s) := by
  refine reviseFrames_silent (.refl s) (fun e => ?_) fun e x => ?_
  · split
    case h_1 he => rw [he]; rfl
    case h_2 => rfl
  · split
    case h_1 he => rw [he]; cases x <;> exact ⟨rfl, rfl⟩
    case h_2 => exact ⟨rfl, rfl⟩

theorem compactMaskNotice_recs (s : State) (old new : Scope) :
    Recs s (compactMaskNotice s old new) := by
  unfold compactMaskNotice
  split
  · exact leaveAll_recs (.refl s) _
  · exact .refl s

/-- What follows the Axis Engine's part of a change of the lock mask. -/
theorem maskChanged_recs (s : State) (old new : Scope) :
    Recs (axisMaskNotice s old new) (maskChanged s old new) := by
  have hheater := (heaterMaskNotice_silent (.refl (axisMaskNotice s old new)) old new).quiet.recs
  have hjudged := judgeBlocked_recs (hheater.trans (compactMaskNotice_recs _ old new))
  exact queueFrame_recs (hjudged.trans (reviseBeaconMask_silent _).quiet.recs) _

/-- A change of the lock mask outside READY starts no leg (R25). -/
theorem maskChanged_holds (hr : isReady s = false) (old new : Scope) :
    AxisHolds s.axis (maskChanged s old new).axis :=
  (axisMaskNotice_holds hr old new).trans (maskChanged_recs s old new).axis.holds

/-- A change of the lock mask outside READY moves no zone of an idle Heater Unit (R44). -/
theorem maskChanged_heater (hr : isReady s = false) (hi : HeaterIdle s.heater) (old new : Scope) :
    (maskChanged s old new).heater = s.heater := by
  have hn := NoTopUp.of_not_ready hr
  have ha := axisMaskNotice_still hr old new
  have hh : (heaterMaskNotice (axisMaskNotice s old new) old new).heater = s.heater := by
    unfold heaterMaskNotice
    split
    · rw [allOff_idle (ha.noTopUp hn) (ha.heater ▸ hi), ha.heater]
    · exact ha.heater
  have hseq := (heaterMaskNotice_silent (.refl (axisMaskNotice s old new)) old new).seq
  have hn' : NoTopUp (heaterMaskNotice (axisMaskNotice s old new) old new) := by
    refine .of_not_ready ?_
    rw [isReady, hseq, ha.seq]
    exact hr
  have hleave : Still (heaterMaskNotice (axisMaskNotice s old new) old new)
      (compactMaskNotice (heaterMaskNotice (axisMaskNotice s old new) old new) old new) := by
    unfold compactMaskNotice
    split
    · exact leaveAll_still hn' (.refl _) _
    · exact .refl _
  exact (queueFrame_still hn' ((judgeBlocked_still hn' hleave).withLine _) _).heater.trans hh

/-! ### The inputs read afresh -/

/-- The inputs show no fault condition where they are clear (R19, R31). -/
theorem faultsPresent_eq_nil (s : State) : faultsPresent s = [] ↔ InputsClear s := by
  unfold faultsPresent InputsClear elUpperCounts
  cases s.pins.azLower <;> cases s.pins.azUpper <;> cases s.pins.elLower <;>
    cases s.pins.elUpper <;> cases s.axis.refEl <;> simp

/-- The state in which the flags of the inputs' faults are set in SELFCHECK (R31). -/
theorem readInputsAfresh_faults (h : ¬ InputsClear s) :
    readInputsAfresh s = setFaults (enterHalted (markPair s)) (faultsPresent s) := by
  unfold readInputsAfresh
  split
  · exact absurd ((faultsPresent_eq_nil s).1 ‹_›) h
  · rfl

theorem readInputsAfresh_clear (h : InputsClear s) : readInputsAfresh s = s := by
  rw [readInputsAfresh, (faultsPresent_eq_nil s).2 h]

theorem markPair_axis (s : State) : (markPair s).axis = { s.axis with
    pairFaulted := s.axis.pairFaulted || s.pins.elLower && s.pins.elUpper } := by
  unfold markPair
  split
  · rename_i h
    rw [h, Bool.or_true]
    rfl
  · rename_i h
    rw [Bool.not_eq_true] at h
    rw [h, Bool.or_false]

/-- The engine where the inputs read afresh show a fault. -/
theorem readInputsAfresh_halted (h : ¬ InputsClear s) :
    (readInputsAfresh s).axis.motion = .halted ∧
      (readInputsAfresh s).axis.pairFaulted =
        (s.axis.pairFaulted || s.pins.elLower && s.pins.elUpper) := by
  rw [readInputsAfresh_faults h, setFaults_axis]
  exact ⟨enterHalted_halted _, by rw [enterHalted_pair, markPair_axis]⟩

theorem enterHalted_brakes (hb : s.axis.releasedAz = false ∧ s.axis.releasedEl = false) :
    (enterHalted s).axis.releasedAz = false ∧ (enterHalted s).axis.releasedEl = false := by
  by_cases h : s.axis.motion = .halted
  · rw [enterHalted_stays h]
    exact hb
  · rw [enterHalted_axis h]
    exact ⟨rfl, rfl⟩

theorem readInputsAfresh_brakes (hb : s.axis.releasedAz = false ∧ s.axis.releasedEl = false) :
    (readInputsAfresh s).axis.releasedAz = false ∧
      (readInputsAfresh s).axis.releasedEl = false := by
  by_cases h : InputsClear s
  · rw [readInputsAfresh_clear h]
    exact hb
  · rw [readInputsAfresh_faults h, setFaults_axis]
    exact enterHalted_brakes (by rw [markPair_axis]; exact hb)

theorem shareLegEnd_still {s0 : State} (hn : NoTopUp s0) (h : Still s0 s)
    (hi : HeaterIdle s.heater) : Still s0 (shareLegEnd s) := by
  unfold shareLegEnd commitMotion
  exact settlePower_still hn ((h.trans (shed_idle hi _)).withShare _) _

theorem enterHalted_heater (hn : NoTopUp s) (hi : HeaterIdle s.heater) :
    (enterHalted s).heater = s.heater := by
  by_cases h : s.axis.motion = .halted
  · rw [enterHalted_stays h]
  · have hbegin := ((Still.refl s).withAxis { s.axis with
      leg := none, stop := none, motion := .halted
      releasedAz := false, releasedEl := false }).withReport { s.report with haltedFlags := [] }
    have hend : Still s (haltCommit s) :=
      shareLegEnd_still hn hbegin (hbegin.heater ▸ hi)
    rw [enterHalted_enters h]
    exact (judgeBlocked_still hn (flush_still hn hend _)).heater

theorem setFaults_heater (hn : NoTopUp s) (l : List (Nat × Nat)) :
    (setFaults s l).heater = s.heater :=
  (Still.foldl (fun _ _ h => setFlag_still hn h _ _ _) (.refl s) l).heater

theorem readInputsAfresh_heater (hr : isReady s = false) (hi : HeaterIdle s.heater) :
    (readInputsAfresh s).heater = s.heater := by
  by_cases h : InputsClear s
  · rw [readInputsAfresh_clear h]
  · have hm : (markPair s).seq = s.seq ∧ (markPair s).heater = s.heater := by
      unfold markPair
      split <;> exact ⟨rfl, rfl⟩
    have hmr : isReady (markPair s) = false := by
      rw [isReady, hm.1]
      exact hr
    have hhr : isReady (enterHalted (markPair s)) = false := by
      rw [isReady, (enterHalted_keeps (.refl _)).seq, hm.1]
      exact hr
    rw [readInputsAfresh_faults h, setFaults_heater (.of_not_ready hhr),
      enterHalted_heater (.of_not_ready hmr) (hm.2 ▸ hi), hm.2]

/-- The condition that a pair of limit inputs shows (R17, R19). -/
def limitFaults (both lower upper : Bool) (db dl du : Nat) : List (Nat × Nat) :=
  if both then [(flagAxisLimit, db)] else if lower then [(flagAxisLimit, dl)]
  else if upper then [(flagAxisLimit, du)] else []

theorem limitFaults_flag {both lower upper : Bool} {db dl du : Nat} {f : Nat × Nat}
    (h : f ∈ limitFaults both lower upper db dl du) : f.1 = flagAxisLimit := by
  cases both <;> cases lower <;> cases upper <;> simp_all [limitFaults]

theorem limitFaults_mem {both lower upper : Bool} (db dl du : Nat)
    (h : both = true ∨ lower = true ∨ upper = true) :
    ∃ d, (flagAxisLimit, d) ∈ limitFaults both lower upper db dl du := by
  cases both <;> cases lower <;> cases upper <;> simp_all [limitFaults]

theorem faultsPresent_eq (s : State) : faultsPresent s =
    limitFaults (s.pins.azLower && s.pins.azUpper) s.pins.azLower s.pins.azUpper 5 1 2 ++
    limitFaults (s.pins.elLower && s.pins.elUpper) s.pins.elLower (elUpperCounts s) 6 3 4 ++
    (if s.pins.azFault then [(flagDriveFault, 1)] else []) ++
    (if s.pins.elFault then [(flagDriveFault, 2)] else []) ++
    (if s.pins.azValid then [] else [(flagEncoderFault, 1)]) ++
    (if s.pins.elValid then [] else [(flagEncoderFault, 2)]) := rfl

theorem faultsPresent_flag (s : State) : ∀ f ∈ faultsPresent s,
    f.1 = flagAxisLimit ∨ f.1 = flagDriveFault ∨ f.1 = flagEncoderFault := by
  intro f hf
  rw [faultsPresent_eq] at hf
  simp only [List.mem_append] at hf
  rcases hf with ((((hf | hf) | hf) | hf) | hf) | hf
  · exact .inl (limitFaults_flag hf)
  · exact .inl (limitFaults_flag hf)
  all_goals
    split at hf <;> simp at hf
    simp [hf]

theorem faultsPresent_lt (s : State) : ∀ f ∈ faultsPresent s, f.1 < 16 := fun f hf => by
  rcases faultsPresent_flag s f hf with h | h | h <;> rw [h] <;> decide

/-- The flags of the inputs' faults (R19, R31). -/
theorem faultsPresent_mem (s : State) :
    ((s.pins.azLower = true ∨ s.pins.azUpper = true ∨ s.pins.elLower = true ∨
      s.pins.elUpper = true ∧ s.axis.refEl = true) → ∃ d, (flagAxisLimit, d) ∈ faultsPresent s) ∧
    ((s.pins.azFault = true ∨ s.pins.elFault = true) →
      ∃ d, (flagDriveFault, d) ∈ faultsPresent s) ∧
    ((s.pins.azValid = false ∨ s.pins.elValid = false) →
      ∃ d, (flagEncoderFault, d) ∈ faultsPresent s) := by
  rw [faultsPresent_eq]
  simp only [List.mem_append]
  refine ⟨fun h => ?_, fun h => ?_, fun h => ?_⟩
  · have hpair : (s.pins.azLower = true ∨ s.pins.azUpper = true) ∨
        (s.pins.elLower = true ∨ elUpperCounts s = true) := by
      simp only [elUpperCounts, Bool.and_eq_true, Bool.or_eq_true]
      tauto
    rcases hpair with h | h
    · obtain ⟨d, hd⟩ := limitFaults_mem 5 1 2 (.inr h)
      exact ⟨d, .inl (.inl (.inl (.inl (.inl hd))))⟩
    · obtain ⟨d, hd⟩ := limitFaults_mem 6 3 4 (.inr h)
      exact ⟨d, .inl (.inl (.inl (.inl (.inr hd))))⟩
  · rcases h with h | h
    · exact ⟨1, .inl (.inl (.inl (.inr (by simp [h]))))⟩
    · exact ⟨2, .inl (.inl (.inr (by simp [h])))⟩
  · rcases h with h | h
    · exact ⟨1, .inl (.inr (by simp [h]))⟩
    · exact ⟨2, .inr (by simp [h])⟩

theorem readInputsAfresh_flag (hl : s.report.flags.length = 16) {n d : Nat}
    (h : (n, d) ∈ faultsPresent s) : flagOn (readInputsAfresh s) n = true := by
  have hbad : ¬ InputsClear s := fun hc => by
    rw [(faultsPresent_eq_nil s).2 hc] at h
    cases h
  rw [readInputsAfresh_faults hbad]
  refine setFaults_on ?_ (faultsPresent_lt s) (.inr ⟨d, h⟩)
  exact ((enterHalted_keeps (markPair_keeps (.refl s))).flags).trans hl

/-! ### LOAD succeeds -/

/-- The state in which the key scopes of a configuration are taken. -/
def loadTables (s : State) (c : ConfigRecord) : State :=
  beginChecking (((s.withSeq { s.seq with station := .selfcheck, config := some c }).withKeepOut
    (keepTable c)).withHeater { s.heater with zones := zoneTable c })

theorem loadSucceeded_eq (s : State) (c : ConfigRecord) : loadSucceeded s c =
    beginScan (readInputsAfresh (takeKeyScopes (loadTables s c) c.keyScopes)) := rfl

theorem setLockList_holds (hr : isReady s = false) (l : List LockEntry) :
    AxisHolds s.axis (setLockList s l).axis := by
  unfold setLockList
  dsimp only
  split
  · exact .refl _
  · exact maskChanged_holds (s := s.withLock { s.lock with list := l }) hr _ _

theorem setLockList_heater (hr : isReady s = false) (hi : HeaterIdle s.heater)
    (l : List LockEntry) : (setLockList s l).heater = s.heater := by
  unfold setLockList
  dsimp only
  split
  · rfl
  · exact maskChanged_heater (s := s.withLock { s.lock with list := l }) hr hi _ _

/-- The keys with the configured scopes taken (R34). -/
def withKeyScopes (s : State) (scopes : List Scope) : State :=
  s.withLock { s.lock with
    keys := s.lock.keys.mapIdx fun i m => { m with scope := scopes.getD i Scope.none } }

/-- The Lockout List with the configured scopes taken (R34). -/
def scopedList (s : State) (scopes : List Scope) : List LockEntry :=
  (s.lock.list.map (rescope scopes)).filter fun e => isRemote e || !scopeEmpty e.scope

theorem takeKeyScopes_eq (s : State) (scopes : List Scope) : takeKeyScopes s scopes =
    setLockList (withKeyScopes s scopes) (scopedList s scopes) := rfl

theorem zoneTable_off (c : ConfigRecord) : ∀ z ∈ zoneTable c, z.state = .off := by
  intro z hz
  obtain ⟨i, hi, rfl⟩ := List.mem_mapIdx.1 hz
  rfl

/-- Settles O10: the key scopes are taken outside READY, where a change of the mask starts no leg
and moves no zone; the inputs are then read. -/
theorem loadSuccessEntersSelfcheck : Obligations.LoadSuccessEntersSelfcheck := by
  intro s bytes hh hs hp hl hc hv
  have hexec := attemptEnded_valid ((reading_iff s).2 ⟨hh, hs, hp⟩) hl hc hv
  have hraw : keepRaw s bytes = s.withSeq { s.seq with raw := bytes } := by
    rw [keepRaw, asRead_full hl]
  rw [loadSucceeded_eq, hraw] at hexec
  generalize hu : loadTables (s.withSeq { s.seq with raw := bytes }) (recordOf bytes) = u at hexec
  have hur : isReady u = false := by rw [← hu]; rfl
  rw [takeKeyScopes_eq] at hexec
  have hscope := setLockList_keeps (withKeyScopes u (recordOf bytes).keyScopes)
    (scopedList u (recordOf bytes).keyScopes)
  have hheld := setLockList_holds (s := withKeyScopes u (recordOf bytes).keyScopes) hur
    (scopedList u (recordOf bytes).keyScopes)
  have hzone := fun hi => setLockList_heater (s := withKeyScopes u (recordOf bytes).keyScopes)
    hur hi
    (scopedList u (recordOf bytes).keyScopes)
  generalize hv : setLockList (withKeyScopes u (recordOf bytes).keyScopes)
    (scopedList u (recordOf bytes).keyScopes) = v at hexec hscope hheld hzone
  have hkeep := readInputsAfresh_keeps (.refl v)
  have hvr : isReady v = false := by rw [isReady, hscope.seq]; exact hur
  have haxis : (withKeyScopes u (recordOf bytes).keyScopes).axis = s.axis := by rw [← hu]; rfl
  have hpins : v.pins = s.pins := by rw [hscope.pins, ← hu]; rfl
  have href : v.axis.refEl = s.axis.refEl := hheld.refEl.trans (by rw [haxis])
  have hseq : (readInputsAfresh v).seq =
      { s.seq with station := .selfcheck, config := some (recordOf bytes), raw := bytes } := by
    rw [hkeep.seq, hscope.seq, ← hu]
    rfl
  have hclear : InputsClear v ↔ InputsClear s := by unfold InputsClear; rw [hpins, href]
  have hflags : s.report.flags.length = 16 → v.report.flags.length = 16 := fun h => by
    rw [hscope.flags, ← hu]
    exact h
  have hmem := faultsPresent_mem v
  rw [hpins, href] at hmem
  obtain ⟨hlimit, hdrive, hencoder⟩ := hmem
  refine ⟨_, congrArg Host.Outcome.next hexec, hseq, ?_, ?_, rfl, rfl, ?_, ?_, ?_, ?_,
    fun hz he => ?_, fun hi => ?_, fun hi hm => ?_, fun hi => ?_, fun hlo hup => ?_,
    fun hf => ⟨fun h => ?_, fun h => ?_, fun h => ?_⟩⟩
  · exact hkeep.keepOut.trans (hscope.keepOut.trans (by rw [← hu]; rfl))
  · exact hkeep.lock.trans (hscope.lock.trans (by rw [← hu]; rfl))
  · exact hkeep.time.trans (hscope.time.trans (by rw [← hu]; rfl))
  · exact hkeep.pins.trans hpins
  · exact hkeep.peers.trans (hscope.peers.trans (by rw [← hu]; rfl))
  · show (mayEnable (readInputsAfresh v).seq && _) = _
    rw [hseq]
    simp only [mayEnable, hh]
    simp [bne, beq_eq_decide]
  · have hb := readInputsAfresh_brakes (hheld.brakes (by rw [haxis]; exact ⟨hz, he⟩))
    exact brakeEngaged_all hb.1 hb.2
  · have hidle : HeaterIdle (withKeyScopes u (recordOf bytes).keyScopes).heater := by
      rw [← hu]
      show HeaterIdle { s.heater with zones := zoneTable (recordOf bytes) }
      rw [hi]
      exact ⟨zoneTable_off _, rfl, rfl, rfl⟩
    refine (readInputsAfresh_heater hvr (hzone hidle ▸ hidle)).trans ((hzone hidle).trans ?_)
    rw [← hu]
    show { s.heater with zones := zoneTable (recordOf bytes) } = _
    rw [hi]
    rfl
  · show (readInputsAfresh v).axis.motion = _
    rw [readInputsAfresh_clear (hclear.2 hi)]
    exact hheld.idle (by rw [haxis]; exact hm)
  · exact (readInputsAfresh_halted (mt hclear.1 hi)).1
  · have hbad : ¬ InputsClear s := fun h => by
      have := h.2.2.1
      rw [hlo] at this
      cases this
    refine (readInputsAfresh_halted (mt hclear.1 hbad)).2.trans ?_
    rw [hpins, hlo, hup]
    exact Bool.or_true _
  · obtain ⟨d, hd⟩ := hlimit h
    exact readInputsAfresh_flag (hflags hf) hd
  · obtain ⟨d, hd⟩ := hdrive h
    exact readInputsAfresh_flag (hflags hf) hd
  · obtain ⟨d, hd⟩ := hencoder h
    exact readInputsAfresh_flag (hflags hf) hd

end Sys2Proof.Machine
end

section
/-! PROOFS. LISTEN's end: the frames of the blocks at READY, queued where there is room (R185). -/

namespace Sys2Proof.Machine

variable {s t u : State} {fs gs : List Frame} {n m : Nat}

/-! ### Frames queued where there is room -/

/-- The frames held in the general slots (R68). -/
def generalCount (s : State) : Nat := (s.line.queue.filter fun e => decide (e.slot < 8)).length

/-- The station transmits, wants no share more than it has, and no ask waits (R171). -/
structure Settled (s : State) : Prop where
  transmits : transmits s = true
  shortfall : shortfall s = 0
  noAsk : ∀ x ∈ s.line.queue, isAsk x = false ∨ x.started = true

theorem Settled.congr (h : Settled s) (hq : t.seq = s.seq) (hl : t.line = s.line)
    (hs : t.share = s.share) : Settled t where
  transmits := by
    have := h.transmits
    unfold Machine.transmits isReady isConfigFault at this ⊢
    rwa [hq]
  shortfall := by
    have := h.shortfall
    unfold Machine.shortfall freeShares heldShares lentShares borrowedShares loanSum committedShares
      grantsStarted cfg at this ⊢
    rwa [hq, hl, hs]
  noAsk := by
    rw [hl]
    exact h.noAsk

/-- Frames have joined the queue at its end, at most `n` of them in general slots, and the account
stands. -/
structure Queued (fs : List Frame) (n : Nat) (s t : State) : Prop where
  frames : t.line.queue.map (·.frame) = s.line.queue.map (·.frame) ++ fs
  waiting : ∀ e ∈ t.line.queue, e ∈ s.line.queue ∨ e.started = false
  count : generalCount t ≤ generalCount s + n
  low : (∀ f ∈ fs, frameClass f ≠ .safety) → (∀ e ∈ s.line.queue, e.slot < 8) →
    ∀ e ∈ t.line.queue, e.slot < 8
  heater : t.heater = s.heater
  share : t.share = s.share
  settled : Settled t

theorem Queued.of_line (h : Settled s) (hq : t.seq = s.seq) (hl : t.line = s.line)
    (hh : t.heater = s.heater) (hs : t.share = s.share) : Queued [] 0 s t where
  frames := by rw [hl, List.append_nil]
  waiting e he := .inl (hl ▸ he)
  count := by unfold generalCount; rw [hl]; exact Nat.le_refl _
  low _ hlow := by rw [hl]; exact hlow
  heater := hh
  share := hs
  settled := h.congr hq hl hs

theorem Queued.trans (h : Queued fs n s t) (k : Queued gs m t u) :
    Queued (fs ++ gs) (n + m) s u where
  frames := by rw [k.frames, h.frames, List.append_assoc]
  waiting e he := by
    rcases k.waiting e he with he | he
    · exact h.waiting e he
    · exact .inr he
  count := by
    have := h.count
    have := k.count
    omega
  low hf hlow := k.low (fun f hg => hf f (List.mem_append_right _ hg))
    (h.low (fun f hg => hf f (List.mem_append_left _ hg)) hlow)
  heater := k.heater.trans h.heater
  share := k.share.trans h.share
  settled := k.settled

/-- A change of another block after the frames have joined. -/
theorem Queued.after (h : Queued fs n s t) (hq : u.seq = t.seq) (hl : u.line = t.line)
    (hh : u.heater = t.heater) (hs : u.share = t.share) : Queued fs n s u := by
  have := h.trans (.of_line h.settled hq hl hh hs)
  rwa [List.append_nil, Nat.add_zero] at this

/-- A change of another block before the frames join. -/
theorem Queued.before (h : Queued fs n t u) (hs : Settled s) (hq : t.seq = s.seq)
    (hl : t.line = s.line) (hh : t.heater = s.heater) (hsh : t.share = s.share) :
    Queued fs n s u := by
  have := (Queued.of_line hs hq hl hh hsh).trans h
  rwa [List.nil_append, Nat.zero_add] at this

/-- Where fewer than 8 frames stand in the general slots, one of these is free (R68). -/
theorem exists_generalSlot (h : generalCount s < 8) :
    ∃ k, freeSlot s.line.queue 0 8 = some k := by
  refine Option.isSome_iff_exists.1 (List.find?_isSome.2 ?_)
  by_contra hall
  have hsub : List.range' 0 8 ⊆
      (s.line.queue.filter fun e => decide (e.slot < 8)).map (·.slot) := fun k hk => by
    by_contra hq
    refine hall ⟨k, hk, ?_⟩
    have hk8 : k < 8 := by simpa [List.mem_range'] using hk
    simpa using fun x hx => fun he => hq (List.mem_map.2
      ⟨x, List.mem_filter.2 ⟨hx, by simpa [he] using hk8⟩, he⟩)
  have := ((List.nodup_range' (step := 1)).subperm hsub).length_le
  simp only [List.length_range', List.length_map] at this
  unfold generalCount at h
  omega

/-- Of a fresh frame the account knows nothing yet: a SHARE_GRANT counts from its start (R166). -/
theorem grantsStarted_append (k : Nat) (f : Frame) :
    grantsStarted (s.withLine (s.line.append k (TxEntry.fresh f))) = grantsStarted s := by
  unfold grantsStarted
  simp only [LineUnit.append, withLine_line, List.map_append, List.map_cons, List.map_nil,
    List.sum_append, TxEntry.fresh, List.sum_cons, List.sum_nil]
  cases f <;> rfl

theorem freeShares_append (k : Nat) (f : Frame) :
    freeShares (s.withLine (s.line.append k (TxEntry.fresh f))) = freeShares s := by
  have h := grantsStarted_append (s := s) k f
  unfold freeShares heldShares lentShares
  rw [h]
  rfl

/-- A frame that joins the queue in a settled account changes nothing but the queue. -/
theorem queueFrame_append (hs : Settled s) {f : Frame} {k : Nat} (ha : ∀ a, f ≠ .shareAsk a)
    (hq : enqueue s f = s.withLine (s.line.append k (TxEntry.fresh f))) :
    queueFrame s f = s.withLine (s.line.append k (TxEntry.fresh f)) ∧
      Settled (s.withLine (s.line.append k (TxEntry.fresh f))) := by
  have hfree := freeShares_append (s := s) k f
  have hshort : shortfall (s.withLine (s.line.append k (TxEntry.fresh f))) = 0 := by
    unfold shortfall
    rw [hfree]
    exact hs.shortfall
  have hask : ∀ x ∈ (s.line.append k (TxEntry.fresh f)).queue,
      isAsk x = false ∨ x.started = true := fun x hx => by
    rcases List.mem_append.1 hx with hx | hx
    · exact hs.noAsk x hx
    · simp only [List.mem_singleton] at hx
      subst hx
      left
      unfold isAsk
      split
      · exact absurd ‹_› (ha _)
      · rfl
  refine ⟨?_, hs.transmits, hshort, hask⟩
  rw [queueFrame, hq, settlePower_of_le (Nat.le_of_eq hfree)]
  exact updateAsk_settled hshort hask

theorem append_queued (hs : Settled s) {f : Frame} {k : Nat} (ha : ∀ a, f ≠ .shareAsk a)
    (hq : enqueue s f = s.withLine (s.line.append k (TxEntry.fresh f)))
    (hk : k < 8 ∨ frameClass f = .safety) :
    Queued [f] (if k < 8 then 1 else 0) s (queueFrame s f) := by
  obtain ⟨he, hset⟩ := queueFrame_append hs ha hq
  rw [he]
  refine ⟨?_, fun e hm => ?_, ?_, fun hf hlow e hm => ?_, rfl, rfl, hset⟩
  · simp [LineUnit.append, TxEntry.fresh]
  · rcases List.mem_append.1 hm with hm | hm
    · exact .inl hm
    · simp only [List.mem_singleton] at hm
      exact .inr (hm ▸ rfl)
  · unfold generalCount
    by_cases hlt : k < 8 <;> simp [LineUnit.append, hlt]
  · rcases List.mem_append.1 hm with hm | hm
    · exact hlow e hm
    · simp only [List.mem_singleton] at hm
      rw [hm]
      exact hk.resolve_right (hf f List.mem_cons_self)

theorem groupMate_none {l : LineUnit} {f : Frame}
    (h : ∀ g ∈ l.queue.map (·.frame), sameGroup g f = false) : l.groupMate f = none := by
  refine List.find?_eq_none.2 fun e he => ?_
  simp [h e.frame (List.mem_map_of_mem he)]

/-- A COORD or ROUTINE frame of no waiting group takes a general slot. -/
theorem queueFrame_general (hs : Settled s) {f : Frame} (ha : ∀ a, f ≠ .shareAsk a)
    (hg : ∀ g ∈ s.line.queue.map (·.frame), sameGroup g f = false)
    (hc : frameClass f ≠ .safety) (hn : generalCount s < 8) : Queued [f] 1 s (queueFrame s f) := by
  obtain ⟨k, hk⟩ := exists_generalSlot hn
  have hk8 : k < 8 := by
    have := (freeSlot_free hk).2.2
    omega
  have h := append_queued hs ha (enqueueEntry_general (e := TxEntry.fresh f) hs.transmits
    (groupMate_none hg) hc hk) (.inl hk8)
  rwa [if_pos hk8] at h

/-- A SAFETY frame of no waiting group takes a reserved slot while none of these is taken. -/
theorem queueFrame_reserved (hs : Settled s) {f : Frame}
    (hg : ∀ g ∈ s.line.queue.map (·.frame), sameGroup g f = false)
    (hc : frameClass f = .safety) (hlow : ∀ e ∈ s.line.queue, e.slot < 8) :
    Queued [f] 0 s (queueFrame s f) := by
  have hk : freeSlot s.line.queue 8 4 = some 8 := by
    have : (s.line.queue.any fun e => e.slot == 8) = false := by
      simp only [List.any_eq_false, beq_iff_eq]
      intro e he heq
      have := hlow e he
      omega
    simp [freeSlot, List.range', this]
  have ha : ∀ a, f ≠ .shareAsk a := fun a h => by rw [h] at hc; cases hc
  exact append_queued (k := 8) hs ha (enqueueEntry_safety (e := TxEntry.fresh f) hs.transmits
    (groupMate_none hg) hc (by rw [hk]; rfl)) (.inr hc)

/-- The frame is of no group of R70, of another class than SAFETY, and no ask. -/
structure Loose (f : Frame) : Prop where
  group : ∀ g, sameGroup g f = false
  cls : frameClass f ≠ .safety
  ask : ∀ a, f ≠ .shareAsk a

theorem answer_loose (c s t o : Nat) (v : Option AnswerValue) : Loose (.answer c s t o v) :=
  ⟨fun g => by cases g <;> rfl, fun h => (nomatch h), fun _ h => (nomatch h)⟩

theorem reply_loose (id v r : Nat) : Loose (.reply id v r) :=
  ⟨fun g => by cases g <;> rfl, fun h => (nomatch h), fun _ h => (nomatch h)⟩

theorem queueFrames_queued {α : Type} {f : α → Frame} (hf : ∀ a, Loose (f a)) (l : List α)
    (hs : Settled s) (hn : generalCount s + l.length ≤ 8) :
    Queued (l.map f) l.length s (l.foldl (fun v a => queueFrame v (f a)) s) := by
  induction l generalizing s with
  | nil => exact .of_line hs rfl rfl rfl rfl
  | cons a l ih =>
    rw [List.length_cons] at hn
    have h1 := queueFrame_general hs (hf a).ask (fun g _ => (hf a).group g) (hf a).cls (by omega)
    have hcount := h1.count
    have h := h1.trans (ih h1.settled (by omega))
    rw [Nat.add_comm] at h
    exact h

/-! ### The blocks at READY -/

theorem lockReady_silent (s : State) :
    Silent (s.withLock { s.lock with pending := [] }) (lockReady s) :=
  (queueFrames_silent (s.withLock { s.lock with pending := [] })
    (fun _ (a : LockAnswer) => .answer a.console a.subject a.token a.outcome none)
    s.lock.pending).trans (queueFrame_silent (.refl _) _)

theorem compactReady_silent (s : State) :
    Silent (s.withCompact { s.compact with pending := [] }) (compactReady s) :=
  queueFrames_silent _ (fun _ id => .reply id 1 reasonNotReady) s.compact.pending

theorem reportReady_silent (s : State) :
    Silent (s.withReport { s.report with pending := [] }) (reportReady s) :=
  (queueFrames_silent _ (fun _ (q : PendingQuery) =>
    .answer q.console q.subject q.key outcomeNotReady none) s.report.pending).trans
    (queueEvents_silent _)

/-- The answers to MOVEs that the Axis Engine kept in LISTEN are queued (R6). -/
def answersSent (s : State) : State :=
  s.axis.pendingAnswers.foldl (fun u a => answerMove u a.1 a.2 outcomeNotReady)
    (s.withAxis { s.axis with pendingAnswers := [] })

theorem answersSent_silent (s : State) :
    Silent (s.withAxis { s.axis with pendingAnswers := [] }) (answersSent s) :=
  queueFrames_silent _ (fun _ (a : Nat × Nat) => .answer a.1 subjectMove a.2 outcomeNotReady none)
    s.axis.pendingAnswers

theorem axisReady_eq (s : State) : axisReady s =
    if warning (tryStart (answersSent s)) then warningRaised (tryStart (answersSent s))
    else tryStart (answersSent s) := rfl

theorem axisReady_keeps (s : State) :
    Keeps (s.withAxis { s.axis with pendingAnswers := [] }) (axisReady s) := by
  have h := tryStart_keeps (answersSent_silent s).quiet.keeps
  rw [axisReady_eq]
  split
  · exact warningRaised_keeps h
  · exact h

/-- An engine in IDLE with no entry, and no warning, only queues the answers it kept. -/
theorem axisReady_idle (hm : s.axis.motion = .idle) (hq : s.axis.queue = [])
    (hw : warning s = false) : axisReady s = answersSent s := by
  have hs := answersSent_silent s
  have htry : tryStart (answersSent s) = answersSent s := by
    have hq' : (answersSent s).axis.queue = [] := by rw [hs.axis]; exact hq
    have hm' : (answersSent s).axis.motion = .idle := by rw [hs.axis]; exact hm
    unfold tryStart
    rw [hq', List.length_nil, tryStartN]
    split
    · simp [hq', hm']
    · rfl
  have hw' : warning (answersSent s) = false := by
    unfold warning
    rw [hs.pins]
    exact hw
  rw [axisReady_eq, htry, hw']
  rfl

/-! ### The obeyed cells at READY -/

/-- Only cells that the station does not obey have changed. -/
structure CellsOnly (s t : State) : Prop where
  only : t = s.withWind { s.wind with cells := t.wind.cells }
  obeyed : ∀ c ∈ obeyed s, cellAt t c = cellAt s c

theorem CellsOnly.refl (s : State) : CellsOnly s s := ⟨rfl, fun _ _ => rfl⟩

theorem CellsOnly.trans (h : CellsOnly s t) (k : CellsOnly t u) : CellsOnly s u := by
  refine ⟨k.only.trans ?_, fun c hc => ?_⟩
  · rw [h.only]
    rfl
  · have ht : Machine.obeyed t = Machine.obeyed s := by rw [h.only]; rfl
    exact (k.obeyed c (ht ▸ hc)).trans (h.obeyed c hc)

theorem cellAt_changeCell_ne (s : State) {c d : Nat} (h : d ≠ c) (f : Cell → Cell) :
    cellAt (changeCell s c f) d = cellAt s d := by
  simp [cellAt, changeCell, List.getD_eq_getElem?_getD, Ne.symm h]

theorem changeCell_cellsOnly {c : Nat} (h : obeys s c = false) (f : Cell → Cell) :
    CellsOnly s (changeCell s c f) :=
  ⟨rfl, fun d hd => cellAt_changeCell_ne s (fun he => by
    simp [obeys] at h
    exact h (he ▸ hd)) f⟩

theorem judgeNoSensor_notObeyed {c : Nat} (h : obeys s c = false) (o : Bool) :
    CellsOnly s (judgeNoSensor o s c) := by
  unfold judgeNoSensor
  split
  · rw [h]
    exact changeCell_cellsOnly h _
  · exact .refl s

theorem calmFor_notObeyed {c : Nat} (h : obeys s c = false) : calmFor s c = s := by
  simp [calmFor, h]

theorem judgeLevels_notObeyed {c : Nat} (h : obeys s c = false) :
    CellsOnly s (judgeLevels s c) := by
  have hcalm : ∀ f, calmFor (changeCell s c f) c = changeCell s c f := fun f => calmFor_notObeyed h
  unfold judgeLevels
  dsimp only
  split
  · split
    · exact changeCell_cellsOnly h _
    · exact .refl s
  · split
    · rw [hcalm]
      exact changeCell_cellsOnly h _
    · split
      · exact changeCell_cellsOnly h _
      · exact .refl s
  · split
    · rw [hcalm]
      exact changeCell_cellsOnly h _
    · exact .refl s
  · exact .refl s

/-- Every obeyed cell is CALM with a working entry (R144, R146). -/
def AllCalm (s : State) : Prop :=
  ∀ c ∈ obeyed s, (cellAt s c).state = .calm ∧ workingEntries (cellAt s c) ≠ []

theorem CellsOnly.allCalm (h : CellsOnly s t) (hc : AllCalm s) : AllCalm t := fun c hm => by
  have ht : Machine.obeyed t = Machine.obeyed s := by rw [h.only]; rfl
  rw [ht] at hm
  rw [h.obeyed c hm]
  exact hc c hm

theorem judgeCell_calm (h : AllCalm s) (o : Bool) (c : Nat) : CellsOnly s (judgeCell o s c) := by
  unfold judgeCell
  cases ho : obeys s c
  · have h1 := judgeNoSensor_notObeyed ho o
    refine h1.trans (judgeLevels_notObeyed ?_)
    rw [h1.only]
    exact ho
  · have hcell := h c (by simpa [obeys] using ho)
    have h1 : judgeNoSensor o s c = s := by simp [judgeNoSensor, hcell.2]
    have h2 : judgeLevels s c = s := by simp [judgeLevels, hcell.1]
    rw [h1, h2]
    exact .refl s

theorem judgeCells_calm (h : AllCalm s) (o : Bool) : CellsOnly s (judgeCells s o) := by
  unfold judgeCells
  generalize List.range 8 = l
  induction l generalizing s with
  | nil => exact .refl s
  | cons c l ih =>
    have h1 := judgeCell_calm h o c
    exact h1.trans (ih (h1.allCalm h))

theorem windHolds_calm (h : AllCalm s) : windHolds s = false := by
  unfold windHolds
  refine List.any_eq_false.2 fun c hc => ?_
  simp [(h c hc).1]

/-- At READY, with every obeyed cell CALM and no sensor of its own, no order is given (R147). -/
theorem windReady_calm (h : AllCalm s) (hs : (cfg s).sensor = false) :
    CellsOnly s (windReady s) := by
  have ha : addOwnEntry s = s := by simp [addOwnEntry, hs]
  have hj := judgeCells_calm h false
  unfold windReady orderIfStowed
  rw [ha]
  dsimp only
  rw [windHolds_calm (hj.allCalm h)]
  exact hj

theorem windReady_queued (h : AllCalm s) (hs : (cfg s).sensor = false) (hset : Settled s) :
    Queued [] 0 s (windReady s) := by
  have ho := (windReady_calm h hs).only
  exact .of_line hset ((congrArg State.seq ho).trans (withWind_seq s _))
    ((congrArg State.line ho).trans (withWind_line s _))
    ((congrArg State.heater ho).trans (withWind_heater s _))
    ((congrArg State.share ho).trans (withWind_share s _))

/-! ### The whole queue at READY -/

theorem queueBeacon_queued (hs : Settled s) (hq : s.line.queue = []) :
    Queued [.beacon (buildBeacon s)] 1 s (queueBeacon s) := by
  have h := queueFrame_general hs (f := .beacon (buildBeacon s)) (fun _ h => nomatch h)
    (by simp [hq]) (fun h => nomatch h) (by simp [generalCount, hq])
  exact h.after rfl rfl rfl rfl

/-- The frames of the Lockout Unit at READY: the answers kept, and the LOCK_NOTICE in a reserved
slot. -/
theorem lockReady_queued (hs : Settled s) (hlow : ∀ e ∈ s.line.queue, e.slot < 8)
    (hg : ∀ g ∈ s.line.queue.map (·.frame), sameGroup g (lockNoticeFrame s) = false)
    (hn : generalCount s + s.lock.pending.length ≤ 8) :
    Queued (s.lock.pending.map (fun a => .answer a.console a.subject a.token a.outcome none) ++
      [lockNoticeFrame s]) s.lock.pending.length s (lockReady s) := by
  have h1 := (queueFrames_queued (s := s.withLock { s.lock with pending := [] })
    (f := fun a : LockAnswer => .answer a.console a.subject a.token a.outcome none)
    (fun _ => answer_loose _ _ _ _ _) s.lock.pending
    (hs.congr rfl rfl rfl) hn).before hs rfl rfl rfl rfl
  have hsil := queueFrames_silent (s.withLock { s.lock with pending := [] })
    (fun _ (a : LockAnswer) => .answer a.console a.subject a.token a.outcome none) s.lock.pending
  have hnotice : lockNoticeFrame (s.lock.pending.foldl (fun u a => queueFrame u
      (.answer a.console a.subject a.token a.outcome none))
      (s.withLock { s.lock with pending := [] })) = lockNoticeFrame s := by
    unfold lockNoticeFrame lockMask
    rw [hsil.lock]
    rfl
  have h2 := queueFrame_reserved h1.settled (f := lockNoticeFrame s) (fun g hm => ?_) rfl
    (h1.low (fun f hf => ?_) hlow)
  · have h := h1.trans h2
    rw [lockReady, hnotice]
    exact h
  · rw [h1.frames] at hm
    rcases List.mem_append.1 hm with hm | hm
    · exact hg g hm
    · obtain ⟨a, -, rfl⟩ := List.mem_map.1 hm
      rfl
  · obtain ⟨a, -, rfl⟩ := List.mem_map.1 hf
    exact fun h => nomatch h

theorem compactReady_queued (hs : Settled s)
    (hn : generalCount s + s.compact.pending.length ≤ 8) :
    Queued (s.compact.pending.map fun id => .reply id 1 13) s.compact.pending.length s
      (compactReady s) :=
  (queueFrames_queued (s := s.withCompact { s.compact with pending := [] })
    (f := fun id => .reply id 1 reasonNotReady) (fun _ => reply_loose _ _ _) s.compact.pending
    (hs.congr rfl rfl rfl) hn).before hs rfl rfl rfl rfl

theorem answersSent_queued (hs : Settled s)
    (hn : generalCount s + s.axis.pendingAnswers.length ≤ 8) :
    Queued (s.axis.pendingAnswers.map fun a => .answer a.1 3 a.2 2 none)
      s.axis.pendingAnswers.length s (answersSent s) :=
  (queueFrames_queued (s := s.withAxis { s.axis with pendingAnswers := [] })
    (f := fun a : Nat × Nat => .answer a.1 subjectMove a.2 outcomeNotReady none)
    (fun _ => answer_loose _ _ _ _ _) s.axis.pendingAnswers
    (hs.congr rfl rfl rfl) hn).before hs rfl rfl rfl rfl

theorem reportReady_queued (hs : Settled s) (hf : ∀ n, flagOn s n = false)
    (hn : generalCount s + s.report.pending.length ≤ 8) :
    Queued (s.report.pending.map fun q => .answer q.console q.subject q.key 2 none)
      s.report.pending.length s (reportReady s) := by
  have hsil := queueFrames_silent (s.withReport { s.report with pending := [] })
    (fun _ (q : PendingQuery) => .answer q.console q.subject q.key outcomeNotReady none)
    s.report.pending
  have h := (queueFrames_queued (s := s.withReport { s.report with pending := [] })
    (f := fun q : PendingQuery => .answer q.console q.subject q.key outcomeNotReady none)
    (fun _ => answer_loose _ _ _ _ _) s.report.pending
    (hs.congr rfl rfl rfl) hn).before hs rfl rfl rfl rfl
  rw [reportReady]
  dsimp only
  rw [queueEvents_none fun k => ?_]
  · exact h
  · unfold flagOn flagRecord
    rw [hsil.report]
    exact hf k

/-- The state in which the blocks take their actions at READY (R185). -/
def madeReady (s : State) : State :=
  (s.withSeq { s.seq with station := .ready }).withHeater { s.heater with
    nextBoundary := some ((s.time.sec / (cfg s).heaterPeriod + 1) * (cfg s).heaterPeriod) }

theorem exec_listenEnd (hl : s.seq.station = .listen) (hr : 1500 ≤ s.seq.listenRun) :
    exec .listenEnd s = .next (reportReady (windReady (sensorReady (axisReady (compactReady
      (lockReady (queueBeacon (madeReady s)))))))) := by
  refine congrArg Host.Outcome.next (if_pos ?_)
  simp [hl, hr]

theorem sensorReady_silent (s : State) :
    ∃ r, Silent (s.withSensor { s.sensor with windRun := r }) (sensorReady s) := by
  unfold sensorReady
  split
  · exact ⟨_, queueWind_silent s _⟩
  · split
    · exact ⟨_, queueWind_silent s _⟩
    · exact ⟨s.sensor.windRun, .refl s⟩

/-- What the blocks' actions at READY leave, and the answers that have been sent (R185). -/
theorem listenEnd_effect (hl : s.seq.station = .listen) (hr : 1500 ≤ s.seq.listenRun) :
    ∃ t, exec .listenEnd s = .next t ∧ t.seq = { s.seq with station := .ready } ∧
      t.lock = { s.lock with pending := [] } ∧ t.report.pending = [] ∧
      t.peers = { s.peers with beaconRun := some 0 } ∧ t.time = s.time ∧ t.pins = s.pins ∧
      t.keepOut = s.keepOut := by
  have ha := queueBeacon_silent (madeReady s)
  rw [exec_listenEnd hl hr]
  generalize queueBeacon (madeReady s) = a at ha ⊢
  have hb := lockReady_silent a
  generalize lockReady a = b at hb ⊢
  have hc := compactReady_silent b
  generalize compactReady b = c at hc ⊢
  have hd := axisReady_keeps c
  generalize axisReady c = d at hd ⊢
  obtain ⟨r, he⟩ := sensorReady_silent d
  generalize sensorReady d = e at he ⊢
  have hf := windReady_sways (.refl e)
  generalize windReady e = f at hf ⊢
  have hg := reportReady_silent f
  refine ⟨_, rfl, ?_, ?_, ?_, ?_, ?_, ?_, ?_⟩
  · simp [hg.seq, hf.seq, he.seq, hd.seq, hc.seq, hb.seq, ha.seq, madeReady]
  · simp [hg.lock, hf.lock, he.lock, hd.lock, hc.lock, hb.lock, ha.lock, madeReady]
  · simp [hg.report]
  · simp [hg.peers, hf.peers, he.peers, hd.peers, hc.peers, hb.peers, ha.peers, madeReady]
  · simp [hg.time, hf.time, he.time, hd.time, hc.time, hb.time, ha.time, madeReady]
  · simp [hg.pins, hf.pins, he.pins, hd.pins, hc.pins, hb.pins, ha.pins, madeReady]
  · simp [hg.keepOut, hf.keepOut, he.keepOut, hd.keepOut, hc.keepOut, hb.keepOut, ha.keepOut,
      madeReady]

/-- Settles O11: the blocks' actions in their order; where nothing else is due, each joins its
frames to a queue that has room for them. -/
theorem listenEndsInReady : Obligations.ListenEndsInReady := by
  intro s hl hr
  refine ⟨listenEnd_effect hl hr, fun u hu => hu ▸ exec_listenEnd hl hr,
    fun hh hq hm haq hw hf hsens hcalm hshort hroom => ?_⟩
  have hs : Settled (madeReady s) := by
    refine ⟨?_, hshort, by rw [show (madeReady s).line.queue = [] from hq]; simp⟩
    show (!s.seq.held && _) = true
    rw [hh]
    rfl
  have ha := queueBeacon_silent (madeReady s)
  have qa := queueBeacon_queued hs hq
  rw [exec_listenEnd hl hr]
  generalize queueBeacon (madeReady s) = a at ha qa ⊢
  have hb := lockReady_silent a
  have hcount : generalCount (madeReady s) = 0 := by simp [generalCount, madeReady, hq]
  have hlow : ∀ e ∈ a.line.queue, e.slot < 8 :=
    qa.low (fun f hf => by
      rw [List.mem_singleton.1 hf]
      exact fun h => nomatch h) (by rw [show (madeReady s).line.queue = [] from hq]; simp)
  have hca := qa.count
  have hlocka : a.lock = s.lock := by simp [ha.lock, madeReady]
  have qb := lockReady_queued qa.settled hlow (fun g hg => by
    rw [qa.frames, show (madeReady s).line.queue = [] from hq] at hg
    have hb : g = .beacon (buildBeacon (madeReady s)) := by simpa using hg
    rw [hb]
    rfl) (by rw [hlocka]; omega)
  have hnotice : lockNoticeFrame a = lockNoticeFrame s := by
    unfold lockNoticeFrame lockMask
    rw [hlocka]
  rw [hlocka, hnotice] at qb
  have qab := qa.trans qb
  generalize lockReady a = b at hb qb qab ⊢
  have hc := compactReady_silent b
  have hcb := qab.count
  have hcompactb : b.compact = s.compact := by simp [hb.compact, ha.compact, madeReady]
  have qc := compactReady_queued qb.settled (by rw [hcompactb]; omega)
  rw [hcompactb] at qc
  have qac := qab.trans qc
  generalize compactReady b = c at hc qc qac ⊢
  have haxisc : c.axis = s.axis := by simp [hc.axis, hb.axis, ha.axis, madeReady]
  have hpinsc : c.pins = s.pins := by simp [hc.pins, hb.pins, ha.pins, madeReady]
  rw [axisReady_idle (haxisc ▸ hm) (haxisc ▸ haq)
    (by unfold warning at hw ⊢; rw [hpinsc]; exact hw)]
  have hd := answersSent_silent c
  have hcc := qac.count
  have qd := answersSent_queued qc.settled (by rw [haxisc]; omega)
  rw [haxisc] at qd
  have qad := qac.trans qd
  generalize answersSent c = d at hd qd qad ⊢
  have hseqd : d.seq = { s.seq with station := .ready } := by
    simp [hd.seq, hc.seq, hb.seq, ha.seq, madeReady]
  have hwindd : d.wind = s.wind := by simp [hd.wind, hc.wind, hb.wind, ha.wind, madeReady]
  have hreportd : d.report = s.report := by
    simp [hd.report, hc.report, hb.report, ha.report, madeReady]
  have hcfg : cfg d = cfg s := by unfold cfg; rw [hseqd]
  have hobeyed : obeyed d = obeyed s := by unfold obeyed; rw [hseqd]
  have hsensor : sensorReady d = d := by simp [sensorReady, hcfg, hsens]
  have hcalmd : AllCalm d := fun k hk => by
    rw [hobeyed] at hk
    unfold cellAt
    rw [hwindd]
    exact hcalm k hk
  have hsensd : (cfg d).sensor = false := hcfg ▸ hsens
  have qe := windReady_queued hcalmd hsensd qd.settled
  have he := (windReady_calm hcalmd hsensd).only
  have qae := qad.trans qe
  rw [hsensor]
  generalize windReady d = f at he qe qae ⊢
  have hreportf : f.report = s.report := by rw [he, withWind_report, hreportd]
  have hcf := qae.count
  have qf := reportReady_queued qe.settled (fun k => by
    have := hf k
    unfold flagOn flagRecord at this ⊢
    rwa [hreportf]) (by rw [hreportf]; omega)
  rw [hreportf] at qf
  have q := qae.trans qf
  have hg := reportReady_silent f
  have haxisf : f.axis = { s.axis with pendingAnswers := [] } := by
    rw [he, withWind_axis, hd.axis, withAxis_axis, haxisc]
  have hcompactf : f.compact = { s.compact with pending := [] } := by
    rw [he, withWind_compact, hd.compact, withAxis_compact, hc.compact, withCompact_compact,
      hcompactb]
  refine ⟨_, _, rfl, rfl, rfl, rfl, ?_, fun x hx => ?_, q.heater, ?_, ?_, q.share⟩
  · have hbeacon : buildBeacon (madeReady s) =
        buildBeacon (s.withSeq { s.seq with station := .ready }) := rfl
    rw [q.frames, show (madeReady s).line.queue = [] from hq, hbeacon]
    simp
  · rcases q.waiting x hx with hx | hx
    · rw [show (madeReady s).line.queue = [] from hq] at hx
      cases hx
    · exact hx
  · rw [hg.axis, withReport_axis, haxisf]
  · rw [hg.compact, withReport_compact, hcompactf]

end Sys2Proof.Machine
end

section
/-! PROOFS. The bytes of a frame: fields written are read back (4.2, 4.10, R62). -/

namespace Sys2Proof.Machine

/-! ### Numbers in bytes -/

@[simp] theorem beBytes_length (k v : Nat) : (beBytes k v).length = k := by
  induction k with
  | zero => rfl
  | succ k ih => rw [beBytes, List.length_cons, ih]

@[simp] theorem beInt_length (k : Nat) (x : Int) : (beInt k x).length = k := beBytes_length _ _

theorem ofBe_foldl (l : List Byte) (a : Nat) :
    l.foldl (fun acc b => acc * 256 + b.toNat) a = a * 256 ^ l.length + ofBe l := by
  unfold ofBe
  induction l generalizing a with
  | nil => simp
  | cons b l ih =>
    rw [List.foldl_cons, List.foldl_cons, ih, ih (0 * 256 + b.toNat), List.length_cons, pow_succ]
    ring

/-- The number that the bytes written hold. -/
theorem ofBe_beBytes (k v : Nat) : ofBe (beBytes k v) = v % 256 ^ k := by
  induction k with
  | zero => simp [beBytes, ofBe, Nat.mod_one]
  | succ k ih =>
    have hb : (BitVec.ofNat 8 (v / 256 ^ k)).toNat = v / 256 ^ k % 256 := by simp
    have h := ofBe_foldl (beBytes k v) (v / 256 ^ k % 256)
    rw [beBytes_length, ih] at h
    rw [beBytes, ofBe, List.foldl_cons, hb, Nat.zero_mul, Nat.zero_add, h, pow_succ,
      Nat.mod_mul, Nat.add_comm, Nat.mul_comm]

theorem ofBe_beBytes_of_lt {k v : Nat} (h : v < 256 ^ k) : ofBe (beBytes k v) = v := by
  rw [ofBe_beBytes, Nat.mod_eq_of_lt h]

/-! ### Fields -/

theorem field_head {k v : Nat} (h : v < 256 ^ k) (l : List Byte) :
    field (beBytes k v ++ l) 0 k = v := by
  rw [field, List.drop_zero, List.take_left' (beBytes_length k v), ofBe_beBytes_of_lt h]

theorem field_last {k v : Nat} (h : v < 256 ^ k) : field (beBytes k v) 0 k = v := by
  have := field_head h []
  rwa [List.append_nil] at this

theorem field_skip {k i : Nat} (h : k ≤ i) (v n : Nat) (l : List Byte) :
    field (beBytes k v ++ l) i n = field l (i - k) n := by
  rw [field, field, List.drop_append, beBytes_length,
    List.drop_eq_nil_of_le (by rw [beBytes_length]; exact h), List.nil_append]

theorem fieldInt_skip {k i : Nat} (h : k ≤ i) (v n : Nat) (l : List Byte) :
    fieldInt (beBytes k v ++ l) i n = fieldInt l (i - k) n := by
  rw [fieldInt, fieldInt, List.drop_append, beBytes_length,
    List.drop_eq_nil_of_le (by rw [beBytes_length]; exact h), List.nil_append]

/-- A signed field of four bytes is read back. -/
theorem fieldInt_head {x : Int} (h : wfSigned x = true) (l : List Byte) :
    fieldInt (beInt 4 x ++ l) 0 4 = x := by
  have hx : -2147483648 ≤ x ∧ x < 2147483648 := of_decide_eq_true h
  have hlt : (x % (256 ^ 4 : Nat)).toNat < 256 ^ 4 := by omega
  rw [fieldInt, List.drop_zero, List.take_left' (beInt_length 4 x), ofBeInt, beInt_length, beInt,
    ofBe_beBytes_of_lt hlt]
  split <;> omega

theorem field_skipInt {k i : Nat} (h : k ≤ i) (x : Int) (n : Nat) (l : List Byte) :
    field (beInt k x ++ l) i n = field l (i - k) n := field_skip h _ _ _

/-- An elevation field is read back. -/
theorem field_elevation {x : Int} (h : wfElevation x = true) (l : List Byte) :
    (field (beInt 3 x ++ l) 0 3 : Int) = x := by
  have hx : 0 ≤ x ∧ x < 16777216 := of_decide_eq_true h
  rw [beInt, field_head (by omega)]
  omega

theorem field_elevation_last {x : Int} (h : wfElevation x = true) :
    (field (beInt 3 x) 0 3 : Int) = x := by
  have := field_elevation h []
  rwa [List.append_nil] at this

/-! ### The frame around a payload -/

/-- The length of a payload is one its kind may have (4.10). -/
def kindFits (kind len : Nat) : Bool :=
  match kindTable kind with
  | some (classes, lo, hi) =>
    classes.contains (kindClass kind) &&
      decide (kindClass kind < 3 ∧ lo ≤ len ∧ len ≤ hi ∧ hi < 256)
  | none => false

theorem kindFits_iff (kind len : Nat) : kindFits kind len = true ↔ ∃ classes lo hi,
    kindTable kind = some (classes, lo, hi) ∧ kindClass kind ∈ classes ∧ kindClass kind < 3 ∧
      lo ≤ len ∧ len ≤ hi ∧ hi < 256 := by
  unfold kindFits
  split
  · rename_i classes lo hi h
    simp [h]
  · rename_i h
    simp [h]

theorem kindTable_lt {kind : Nat} (h : (kindTable kind).isSome = true) : kind < 256 := by
  by_contra hk
  have : kindTable kind = none := by
    unfold kindTable
    split <;> first | rfl | omega
  rw [this] at h
  cases h

section Frame

variable {sender kind : Nat} {payload : List Byte}

/-- The bytes under the check of a frame. -/
def frameBody (sender cls kind : Nat) (payload : List Byte) : List Byte :=
  BitVec.ofNat 8 (cls * 64 + sender) :: BitVec.ofNat 8 kind ::
    BitVec.ofNat 8 payload.length :: payload

theorem frameBytes_eq (sender cls kind : Nat) (payload : List Byte) :
    frameBytes sender cls kind payload = BitVec.ofNat 8 (cls * 64 + sender) ::
      BitVec.ofNat 8 kind :: BitVec.ofNat 8 payload.length ::
        (payload ++ beBytes 2 (crc (frameBody sender cls kind payload)).toNat) := rfl

/-- The three bytes at the head of a frame are read as they were written. -/
theorem frame_head (hs : wfSender sender = true) (hk : kindFits kind payload.length = true) :
    (BitVec.ofNat 8 (kindClass kind * 64 + sender)).toNat = kindClass kind * 64 + sender ∧
      (BitVec.ofNat 8 kind).toNat = kind ∧
      (BitVec.ofNat 8 payload.length).toNat = payload.length := by
  obtain ⟨classes, lo, hi, htab, -, hc3, -, hhi, h256⟩ := (kindFits_iff _ _).1 hk
  obtain ⟨-, hs63⟩ := (wfSender_iff _).1 hs
  have hk256 : kind < 256 := kindTable_lt (by rw [htab]; rfl)
  simp only [BitVec.toNat_ofNat]
  omega

/-- A receiver finds no fault in the frame around a payload that fits its kind (R62). -/
theorem formatFault_frame (hs : wfSender sender = true) (hk : kindFits kind payload.length = true) :
    formatFault ⟨frameBytes sender (kindClass kind) kind payload, false⟩ = false := by
  obtain ⟨haddr, hkind, hlen⟩ := frame_head hs hk
  obtain ⟨classes, lo, hi, htab, hcls, hc3, hlo, hhi, h256⟩ := (kindFits_iff _ _).1 hk
  obtain ⟨hs1, hs63⟩ := (wfSender_iff _).1 hs
  have hdiv : (kindClass kind * 64 + sender) / 64 = kindClass kind := by omega
  have hmod : ((kindClass kind * 64 + sender) % 64 == 0) = false := beq_false_of_ne (by omega)
  have hbody : (frameBody sender (kindClass kind) kind payload).length = payload.length + 3 := rfl
  have htake : (frameBytes sender (kindClass kind) kind payload).take (payload.length + 3) =
      frameBody sender (kindClass kind) kind payload := List.take_left' hbody
  have hcrc : ofBe (beBytes 2 (crc (frameBody sender (kindClass kind) kind payload)).toNat) =
      (crc (frameBody sender (kindClass kind) kind payload)).toNat :=
    ofBe_beBytes_of_lt (BitVec.isLt _)
  rw [frameBytes_eq] at htake ⊢
  unfold formatFault
  simp only [hkind, htab, haddr, hlen, hdiv, hmod, htake, List.drop_left, hcrc, bne_self_eq_false,
    Bool.false_or, Bool.or_false, List.length_append, beBytes_length,
    decide_eq_false (Nat.not_lt.2 hlo), decide_eq_false (Nat.not_lt.2 hhi)]
  simpa using hcls

/-- The command of the frame around a payload that fits its kind is that of the payload. -/
theorem frameCommand_frame (hs : wfSender sender = true)
    (hk : kindFits kind payload.length = true) (straps : Straps) (p : Encoders) :
    frameCommand straps p ⟨frameBytes sender (kindClass kind) kind payload, false⟩ =
      payloadCommand straps p sender kind payload := by
  obtain ⟨haddr, hkind, hlen⟩ := frame_head hs hk
  obtain ⟨-, hs63⟩ := (wfSender_iff _).1 hs
  have hmod : (kindClass kind * 64 + sender) % 64 = sender := by omega
  unfold frameCommand
  rw [formatFault_frame hs hk, frameBytes_eq]
  simp only [haddr, hkind, hlen, hmod, List.take_left]
  rfl

end Frame

/-! ### The payloads -/

/-- The payload that a command stands for fits its kind and gives the command back. -/
structure Carried (i : Instr) (f : Nat × Nat × List Byte) : Prop where
  sender : wfSender f.1 = true
  fits : kindFits f.2.1 f.2.2.length = true
  command : ∃ straps p, payloadCommand straps p f.1 f.2.1 f.2.2 = some i

theorem bit_scopeByte (m : Scope) : scopeOf (scopeByte m) = m := by
  obtain ⟨az, el, heat⟩ := m
  cases az <;> cases el <;> cases heat <;> rfl

theorem scopeByte_lt (m : Scope) : scopeByte m < 256 := by
  obtain ⟨az, el, heat⟩ := m
  cases az <;> cases el <;> cases heat <;> decide

/-- The inputs that stand while a frame is taken, where its command has none. -/
def someStraps : Straps := ⟨0, false⟩

/-- The positions that stand while a frame is taken, where its command has none. -/
def somePosition : Encoders := ⟨0, 0⟩

theorem beacon_bits6 {c st : Nat} (a d : Bool) (hc : c < 8) (hst : st < 4) :
    bitNat a * 128 + c * 16 + bitNat d * 4 + st < 256 ∧
      bit (bitNat a * 128 + c * 16 + bitNat d * 4 + st) 7 = a ∧
      bits (bitNat a * 128 + c * 16 + bitNat d * 4 + st) 4 3 = c ∧
      bit (bitNat a * 128 + c * 16 + bitNat d * 4 + st) 2 = d ∧
      bits (bitNat a * 128 + c * 16 + bitNat d * 4 + st) 0 2 = st := by
  cases a <;> cases d <;> simp [bitNat, bit, bits] <;> omega

theorem beacon_bits7 {w st c : Nat} (r : Bool) (hw : w < 4) (hst : st < 4) (hc : c < 8) :
    w * 64 + st * 16 + bitNat r * 8 + c < 256 ∧
      bits (w * 64 + st * 16 + bitNat r * 8 + c) 6 2 = w ∧
      bits (w * 64 + st * 16 + bitNat r * 8 + c) 4 2 = st ∧
      bit (w * 64 + st * 16 + bitNat r * 8 + c) 3 = r ∧
      bits (w * 64 + st * 16 + bitNat r * 8 + c) 0 3 = c := by
  cases r <;> simp [bitNat, bit, bits] <;> omega

theorem beacon_bits10 {m : Nat} (f b : Bool) (hm : m < 8) :
    bitNat f * 16 + bitNat b * 8 + m < 256 ∧
      bit (bitNat f * 16 + bitNat b * 8 + m) 4 = f ∧
      bit (bitNat f * 16 + bitNat b * 8 + m) 3 = b ∧
      bits (bitNat f * 16 + bitNat b * 8 + m) 0 3 = m := by
  cases f <;> cases b <;> simp [bitNat, bit, bits] <;> omega

/-- A BEACON is read back, with every field (4.10.1). -/
theorem beaconOf_beaconBytes {p : BeaconPayload} (h : wfBeacon p = true) :
    beaconOf (beaconBytes p) = p := by
  simp only [wfBeacon, Bool.and_eq_true, decide_eq_true_eq, wfQuad, wfWord, wfByte] at h
  obtain ⟨⟨⟨⟨⟨⟨⟨⟨⟨⟨⟨⟨⟨hsec, hms⟩, hcause⟩, hstate⟩, hlevel⟩, hstatus⟩, hcell⟩, hspeed⟩, hmotion⟩,
    haz⟩,
    hel⟩, hid⟩, hspare⟩, hmelt⟩ := h
  obtain ⟨b6, h67, h64, h62, h60⟩ := beacon_bits6 p.startFlag p.configFault hcause hstate
  obtain ⟨b7, h76, h74, h73, h70⟩ := beacon_bits7 p.sensorRole hlevel hstatus hcell
  obtain ⟨b10, h104, h103, h100⟩ := beacon_bits10 p.faultSummary p.stowBlocked hmotion
  have hmask := scopeByte_lt p.mask
  simp [beaconOf, beaconBytes, List.append_assoc, field_head, field_last, field_skip, field_skipInt,
    fieldInt_skip, fieldInt_head haz, field_elevation hel, bit_scopeByte, hsec,
    hms, b6, h67, h64, h62, h60, b7, h76, h74, h73, h70, hspeed, b10, h104, h103, h100, hmask, hid,
    hspare, hmelt]

/-- A CALL is read back, with every field (4.10.1). -/
theorem callOf_callBytes {p : CallPayload} (h : wfCall p = true) : callOf (callBytes p) = p := by
  simp only [wfCall, Bool.and_eq_true, wfTime, wfQuad, wfWord, wfTriple, wfByte,
    decide_eq_true_eq] at h
  obtain ⟨⟨⟨⟨⟨hid, hmode⟩, haz⟩, hel⟩, hssec, hsms⟩, hdsec, hdms⟩ := h
  have hmembers : p.members.toNat < 256 ^ 8 := p.members.isLt
  have hread := field_head hmembers (beBytes 3 p.skyAz ++ (beBytes 3 p.el ++
    (beBytes 4 p.start.sec ++ (beBytes 2 p.start.ms ++ (beBytes 4 p.deadline.sec ++
      beBytes 2 p.deadline.ms)))))
  simp [callOf, callBytes, List.append_assoc, field_head, field_last, field_skip, hread, hid, hmode,
    haz, hel, hssec, hsms, hdsec, hdms]

theorem query_carried {i : Instr} {p : Encoders} {n target item index : Nat}
    (h : wfQuery n target index = true) (hitem : item < 256)
    (hi : queryOf p n target item index = i) :
    Carried i (n, 18, beBytes 1 target ++ beBytes 1 item ++ beBytes 1 index) := by
  simp only [wfQuery, wfByte, Bool.and_eq_true, decide_eq_true_eq] at h
  obtain ⟨⟨hs, ht⟩, hx⟩ := h
  refine ⟨hs, rfl, someStraps, p, ?_⟩
  simp [payloadCommand, List.append_assoc, field_head, field_last, field_skip, ht, hitem, hx, hi]

theorem queryOf_undefined {item : Nat} (h : ¬ (2 ≤ item ∧ item ≤ 14)) (p : Encoders)
    (n target index : Nat) :
    queryOf p n target item index = .queryIdent n target item index := by
  unfold queryOf
  split <;> first | rfl | omega

theorem moveOf_undefined {n : Nat} {l : List Byte} {purpose : Nat} (hp : field l 1 1 = purpose)
    (h1 : purpose ≠ 1) (h2 : purpose ≠ 2) : moveOf n l =
      .movePoint n (field l 0 1) purpose (fieldInt l 2 4) (field l 6 3) (field l 9 2) := by
  unfold moveOf
  rw [hp]
  split <;> first | rfl | contradiction

theorem resetOf_undefined {straps : Straps} {n : Nat} {l : List Byte} {scope : Nat}
    (hp : field l 1 1 = scope) (h2 : scope ≠ 2) (h3 : scope ≠ 3) :
    resetOf straps n l = .resetAll n (field l 0 1) scope straps := by
  unfold resetOf
  rw [hp]
  split <;> first | rfl | contradiction

/-- Every command that a frame gives stands in a payload that gives it back. -/
theorem carried {i : Instr} {f : Nat × Nat × List Byte} (hwf : i.wf = true)
    (hf : framePayload i = some f) : Carried i f := by
  cases i
  case resetAll n target scope straps =>
    cases hf
    simp only [Instr.wf, Bool.and_eq_true, wfByte, decide_eq_true_eq, bne_iff_ne] at hwf
    obtain ⟨⟨⟨⟨⟨hs, ht⟩, hc⟩, h2⟩, h3⟩, -⟩ := hwf
    refine ⟨hs, rfl, straps, somePosition, congrArg some ?_⟩
    rw [resetOf_undefined (scope := scope) (by simp [field_skip, field_last, hc]) h2 h3]
    simp [field_head, ht]
  case resetMotion n target =>
    cases hf
    simp only [Instr.wf, Bool.and_eq_true, wfByte, decide_eq_true_eq] at hwf
    obtain ⟨hs, ht⟩ := hwf
    refine ⟨hs, rfl, someStraps, somePosition, ?_⟩
    simp [payloadCommand, resetOf, field_head, field_last, field_skip, ht]
  case resetHeat n target =>
    cases hf
    simp only [Instr.wf, Bool.and_eq_true, wfByte, decide_eq_true_eq] at hwf
    obtain ⟨hs, ht⟩ := hwf
    refine ⟨hs, rfl, someStraps, somePosition, ?_⟩
    simp [payloadCommand, resetOf, field_head, field_last, field_skip, ht]
  case beaconReceived n p =>
    cases hf
    obtain ⟨hs, hp⟩ := Bool.and_eq_true_iff.1 hwf
    exact ⟨hs, rfl, someStraps, somePosition,
      congrArg (fun b => some (Instr.beaconReceived n b)) (beaconOf_beaconBytes hp)⟩
  case windReceived n cell level speed cause =>
    cases hf
    simp only [Instr.wf, Bool.and_eq_true, wfByte, wfWord, decide_eq_true_eq] at hwf
    obtain ⟨⟨⟨⟨hs, hcell⟩, hlevel⟩, hspeed⟩, hcause⟩ := hwf
    refine ⟨hs, rfl, someStraps, somePosition, ?_⟩
    simp [payloadCommand, List.append_assoc, field_head, field_last, field_skip, hcell, hlevel,
      hspeed, hcause]
  case lockSet n target token scope =>
    cases hf
    simp only [Instr.wf, Bool.and_eq_true, wfByte, wfWord, decide_eq_true_eq] at hwf
    obtain ⟨⟨hs, ht⟩, hk⟩ := hwf
    refine ⟨hs, rfl, someStraps, somePosition, ?_⟩
    simp [payloadCommand, List.append_assoc, field_head, field_last, field_skip, ht, hk,
      scopeByte_lt, bit_scopeByte]
  case lockClear n target token =>
    cases hf
    simp only [Instr.wf, Bool.and_eq_true, wfByte, wfWord, decide_eq_true_eq] at hwf
    obtain ⟨⟨hs, ht⟩, hk⟩ := hwf
    refine ⟨hs, rfl, someStraps, somePosition, ?_⟩
    simp [payloadCommand, field_head, field_last, field_skip, ht, hk]
  case lockNoticeReceived n mask entries keys remotes =>
    cases hf
    simp only [Instr.wf, Bool.and_eq_true, wfByte, decide_eq_true_eq] at hwf
    obtain ⟨⟨⟨hs, he⟩, hk⟩, hr⟩ := hwf
    refine ⟨hs, rfl, someStraps, somePosition, ?_⟩
    simp [payloadCommand, List.append_assoc, field_head, field_last, field_skip, he, hk, hr,
      scopeByte_lt, bit_scopeByte]
  case call n p =>
    cases hf
    obtain ⟨hs, hp⟩ := Bool.and_eq_true_iff.1 hwf
    exact ⟨hs, rfl, someStraps, somePosition,
      congrArg (fun c => some (Instr.call n c)) (callOf_callBytes hp)⟩
  case reply n id verdict reason =>
    cases hf
    simp only [Instr.wf, Bool.and_eq_true, wfByte, wfWord, wfCompactFrame, decide_eq_true_eq] at hwf
    obtain ⟨⟨⟨hs, hid⟩, hv⟩, hr⟩ := hwf
    refine ⟨hs, rfl, someStraps, somePosition, ?_⟩
    simp [payloadCommand, List.append_assoc, field_head, field_last, field_skip, hid, hv, hr]
  case hold n id =>
    cases hf
    simp only [Instr.wf, Bool.and_eq_true, wfWord, wfCompactFrame, decide_eq_true_eq] at hwf
    obtain ⟨hs, hid⟩ := hwf
    refine ⟨hs, rfl, someStraps, somePosition, ?_⟩
    simp [payloadCommand, field_last, hid]
  case resume n id =>
    cases hf
    simp only [Instr.wf, Bool.and_eq_true, wfWord, wfCompactFrame, decide_eq_true_eq] at hwf
    obtain ⟨hs, hid⟩ := hwf
    refine ⟨hs, rfl, someStraps, somePosition, ?_⟩
    simp [payloadCommand, field_last, hid]
  case cancel n id =>
    cases hf
    simp only [Instr.wf, Bool.and_eq_true, wfWord, wfCompactFrame, decide_eq_true_eq] at hwf
    obtain ⟨hs, hid⟩ := hwf
    refine ⟨hs, rfl, someStraps, somePosition, ?_⟩
    simp [payloadCommand, field_last, hid]
  case arrive n id az el =>
    cases hf
    simp only [Instr.wf, Bool.and_eq_true, wfWord, wfCompactFrame, decide_eq_true_eq] at hwf
    obtain ⟨⟨⟨hs, hid⟩, haz⟩, hel⟩ := hwf
    refine ⟨hs, rfl, someStraps, somePosition, ?_⟩
    simp [payloadCommand, List.append_assoc, field_head, field_skip, field_skipInt, fieldInt_skip,
      fieldInt_head haz, field_elevation_last hel, hid]
  case leave n id reason =>
    cases hf
    simp only [Instr.wf, Bool.and_eq_true, wfByte, wfWord, wfCompactFrame, decide_eq_true_eq] at hwf
    obtain ⟨⟨hs, hid⟩, hr⟩ := hwf
    refine ⟨hs, rfl, someStraps, somePosition, ?_⟩
    simp [payloadCommand, field_head, field_last, field_skip, hid, hr]
  case movePoint n target purpose az el rate =>
    cases hf
    simp only [Instr.wf, Bool.and_eq_true, wfByte, wfWord, wfTriple, decide_eq_true_eq,
      bne_iff_ne] at hwf
    obtain ⟨⟨⟨⟨⟨⟨⟨hs, ht⟩, hp⟩, h1⟩, h2⟩, haz⟩, hel⟩, hr⟩ := hwf
    refine ⟨hs, rfl, someStraps, somePosition, congrArg some ?_⟩
    rw [moveOf_undefined (purpose := purpose)
      (by simp [List.append_assoc, field_head, field_skip, hp]) h1 h2]
    simp [List.append_assoc, field_head, field_last, field_skip, field_skipInt, fieldInt_skip,
      fieldInt_head haz, ht, hel, hr]
  case moveReferenceAz n target =>
    cases hf
    simp only [Instr.wf, Bool.and_eq_true, wfByte, decide_eq_true_eq] at hwf
    obtain ⟨hs, ht⟩ := hwf
    refine ⟨hs, rfl, someStraps, somePosition, ?_⟩
    simp [payloadCommand, moveOf, List.append_assoc, field_head, field_skip, ht]
  case moveReferenceEl n target =>
    cases hf
    simp only [Instr.wf, Bool.and_eq_true, wfByte, decide_eq_true_eq] at hwf
    obtain ⟨hs, ht⟩ := hwf
    refine ⟨hs, rfl, someStraps, somePosition, ?_⟩
    simp [payloadCommand, moveOf, List.append_assoc, field_head, field_skip, ht]
  case shareAsk n amount =>
    cases hf
    simp only [Instr.wf, Bool.and_eq_true, wfByte, decide_eq_true_eq] at hwf
    obtain ⟨hs, ha⟩ := hwf
    refine ⟨hs, rfl, someStraps, somePosition, ?_⟩
    simp [payloadCommand, field_last, ha]
  case shareGrant n borrower amount expiry =>
    cases hf
    simp only [Instr.wf, Bool.and_eq_true, wfByte, wfQuad, decide_eq_true_eq] at hwf
    obtain ⟨⟨⟨hs, hb⟩, ha⟩, he⟩ := hwf
    refine ⟨hs, rfl, someStraps, somePosition, ?_⟩
    simp [payloadCommand, List.append_assoc, field_head, field_last, field_skip, hb, ha, he]
  case shareBack n lender amount =>
    cases hf
    simp only [Instr.wf, Bool.and_eq_true, wfByte, decide_eq_true_eq] at hwf
    obtain ⟨⟨hs, hl⟩, ha⟩ := hwf
    refine ⟨hs, rfl, someStraps, somePosition, ?_⟩
    simp [payloadCommand, field_head, field_last, field_skip, hl, ha]
  case inrush n start zones =>
    cases hf
    simp only [Instr.wf, Bool.and_eq_true, wfByte, wfWord, wfQuad, wfTime, decide_eq_true_eq] at hwf
    obtain ⟨⟨hs, hsec, hms⟩, hz⟩ := hwf
    refine ⟨hs, rfl, someStraps, somePosition, ?_⟩
    simp [payloadCommand, List.append_assoc, field_head, field_last, field_skip, hsec, hms, hz]
  case queryIdent n target item index =>
    cases hf
    simp only [Instr.wf, Bool.and_eq_true, wfByte, Bool.not_eq_true', decide_eq_false_iff_not,
      decide_eq_true_eq] at hwf
    obtain ⟨⟨hq, hitem⟩, hno⟩ := hwf
    exact query_carried (p := somePosition) hq hitem (queryOf_undefined hno _ _ _ _)
  case queryConfig n target index =>
    cases hf
    exact query_carried (p := somePosition) hwf (by decide) rfl
  case queryLocks n target index =>
    cases hf
    exact query_carried (p := somePosition) hwf (by decide) rfl
  case queryCompacts n target index =>
    cases hf
    exact query_carried (p := somePosition) hwf (by decide) rfl
  case queryMembers n target index =>
    cases hf
    exact query_carried (p := somePosition) hwf (by decide) rfl
  case queryLoans n target index =>
    cases hf
    exact query_carried (p := somePosition) hwf (by decide) rfl
  case queryShares n target index =>
    cases hf
    exact query_carried (p := somePosition) hwf (by decide) rfl
  case queryZones n target index =>
    cases hf
    exact query_carried (p := somePosition) hwf (by decide) rfl
  case queryMelt n target index =>
    cases hf
    exact query_carried (p := somePosition) hwf (by decide) rfl
  case queryCells n target index =>
    cases hf
    exact query_carried (p := somePosition) hwf (by decide) rfl
  case queryScan n target index =>
    cases hf
    exact query_carried (p := somePosition) hwf (by decide) rfl
  case queryFlags n target index =>
    cases hf
    exact query_carried (p := somePosition) hwf (by decide) rfl
  case queryPeer n target index =>
    cases hf
    exact query_carried (p := somePosition) hwf (by decide) rfl
  case queryDish n target index p =>
    cases hf
    exact query_carried (p := p) hwf (by decide) rfl
  case clear n target flags =>
    cases hf
    simp only [Instr.wf, Bool.and_eq_true, wfByte, decide_eq_true_eq] at hwf
    obtain ⟨hs, ht⟩ := hwf
    have hread : field (beBytes 2 flags.toNat) 0 2 = flags.toNat := field_last flags.isLt
    refine ⟨hs, rfl, someStraps, somePosition, ?_⟩
    simp [payloadCommand, field_head, field_skip, ht, hread]
  all_goals cases hf

/-- Settles O17: the frame around a payload carries it, and the payload its command. -/
theorem framesCarryTheirCommands : Obligations.FramesCarryTheirCommands := by
  intro i raw hwf hraw
  obtain ⟨⟨n, kind, payload⟩, hf, rfl⟩ := Option.map_eq_some_iff.1 hraw
  obtain ⟨hs, hk, straps, p, hcommand⟩ := carried hwf hf
  exact ⟨formatFault_frame hs hk, straps, p, (frameCommand_frame hs hk straps p).trans hcommand⟩

end Sys2Proof.Machine
end

section
/-! PROOFS. A transmit queue of few frames: the power account keeps at most one SHARE_ASK and one
INRUSH in it (R171, R177), so that no COORD frame gives way in a step (R68, R71, R72). -/

namespace Sys2Proof.Machine

variable {s t u : State} {p : Frame → Bool} {n m : Nat}

/-! ### A queue of few frames -/

/-- The frame is an INRUSH. -/
def isInrush (e : TxEntry) : Bool :=
  match e.frame with
  | .inrush .. => true
  | _ => false

/-- The frame is none of the power account's own. -/
def isOther (e : TxEntry) : Bool := !isAsk e && !isInrush e

/-- The SHARE_ASKs that the ask run still lets the account queue at once (R171). -/
def askReady (u : ShareUnit) : Nat :=
  match u.askRun with
  | some r => if r < 5000 then 0 else 1
  | none => 1

/-- The INRUSHes that the claim lets stand in the queue (R177). -/
def claimRoom (u : ShareUnit) : Nat :=
  match u.claim with
  | .none => 0
  | _ => 1

/-- No frame of the queue has started; one SHARE_ASK and one INRUSH may wait, and `n` frames
else. -/
structure Modest (n : Nat) (s : State) : Prop where
  aged : Aged s.line
  waiting : ∀ e ∈ s.line.queue, e.started = false
  asks : s.line.queue.countP isAsk + askReady s.share ≤ 1
  inrushes : s.line.queue.countP isInrush ≤ claimRoom s.share
  others : s.line.queue.countP isOther ≤ n

theorem isOther_of_eq {e : TxEntry} (h : isOther e = true) :
    isAsk e = false ∧ isInrush e = false := by
  simpa [isOther] using h

theorem claimRoom_le (u : ShareUnit) : claimRoom u ≤ 1 := by
  unfold claimRoom
  split <;> simp

theorem askReady_le (u : ShareUnit) : askReady u ≤ 1 := by
  unfold askReady
  split
  · split <;> simp
  · exact Nat.le_refl 1

theorem Modest.nil (h : s.line.queue = []) : Modest 0 s where
  aged := .nil h
  waiting := by simp [h]
  asks := by simpa [h] using askReady_le s.share
  inrushes := by simp [h]
  others := by simp [h]

theorem Modest.mono (h : Modest n s) (hnm : n ≤ m) : Modest m s :=
  ⟨h.aged, h.waiting, h.asks, h.inrushes, h.others.trans hnm⟩

theorem Modest.of_eq (h : Modest n s) (hl : t.line = s.line)
    (ha : t.share.askRun = s.share.askRun) (hc : t.share.claim = s.share.claim) : Modest n t where
  aged := hl ▸ h.aged
  waiting := hl ▸ h.waiting
  asks := by
    rw [hl, askReady, ha]
    exact h.asks
  inrushes := by
    rw [hl, claimRoom, hc]
    exact h.inrushes
  others := by
    rw [hl]
    exact h.others

theorem countP_kinds (q : List TxEntry) :
    q.length ≤ q.countP isAsk + q.countP isInrush + q.countP isOther := by
  induction q with
  | nil => simp
  | cons e q ih =>
    simp only [List.length_cons, List.countP_cons, isOther]
    by_cases ha : isAsk e = true
    · simp only [ha, if_true]
      omega
    · by_cases hi : isInrush e = true
      · simp only [hi, if_true]
        omega
      · simp [ha, hi]
        omega

theorem Modest.length_le (h : Modest n s) : s.line.queue.length ≤ n + 2 := by
  have := countP_kinds s.line.queue
  have := claimRoom_le s.share
  have := h.asks
  have := h.inrushes
  have := h.others
  omega

/-! ### Changes of the queue -/

theorem countP_append (f : TxEntry → Bool) (l : LineUnit) (k : Nat) (e : TxEntry)
    (hf : f { e with slot := k, age := l.nextAge, attempts := 0, started := false } = f e) :
    (l.append k e).queue.countP f = l.queue.countP f + if f e then 1 else 0 := by
  simp [LineUnit.append, List.countP_cons, hf]

theorem waiting_append {l : LineUnit} (h : ∀ e ∈ l.queue, e.started = false) (k : Nat)
    (e : TxEntry) : ∀ x ∈ (l.append k e).queue, x.started = false := fun x hx => by
  rcases List.mem_append.1 hx with hx | hx
  · exact h x hx
  · simp only [List.mem_singleton] at hx
    rw [hx]

/-- Another frame joins the queue. -/
theorem Modest.append (h : Modest n s) (k : Nat) {e : TxEntry} (he : isOther e = true) :
    Modest (n + 1) (s.withLine (s.line.append k e)) := by
  obtain ⟨ha, hi⟩ := isOther_of_eq he
  refine ⟨h.aged.append k e, waiting_append h.waiting k e, ?_, ?_, ?_⟩
  · rw [withLine_line, countP_append _ _ _ _ rfl, ha]
    exact h.asks
  · rw [withLine_line, countP_append _ _ _ _ rfl, hi]
    exact h.inrushes
  · rw [withLine_line, countP_append _ _ _ _ rfl, he]
    exact Nat.add_le_add_right h.others 1

/-- Frames leave the queue. -/
theorem Modest.filter (h : Modest n s) (f : TxEntry → Bool) :
    Modest n (s.withLine { s.line with queue := s.line.queue.filter f }) where
  aged := h.aged.filter f
  waiting e he := h.waiting e (List.mem_of_mem_filter he)
  asks := (Nat.add_le_add_right (List.filter_sublist.countP_le) _).trans h.asks
  inrushes := List.filter_sublist.countP_le.trans h.inrushes
  others := List.filter_sublist.countP_le.trans h.others

/-- Frames of the queue are rewritten, each within its kind. -/
theorem Modest.map (h : Modest n s) {f : TxEntry → TxEntry}
    (hf : ∀ e ∈ s.line.queue, (f e).age = e.age ∧ (f e).started = e.started ∧
      isAsk (f e) = isAsk e ∧ isInrush (f e) = isInrush e) :
    Modest n (s.withLine { s.line with queue := s.line.queue.map f }) := by
  have hcount : ∀ g : TxEntry → Bool, (∀ e ∈ s.line.queue, g (f e) = g e) →
      (s.line.queue.map f).countP g = s.line.queue.countP g := fun g hg => by
    rw [List.countP_map]
    exact List.countP_congr fun e he => by simp [hg e he]
  refine ⟨⟨?_, fun e he => ?_⟩, fun e he => ?_, ?_, ?_, ?_⟩
  · rw [withLine_line, List.map_map]
    exact (List.map_congr_left fun e he => (hf e he).1).symm ▸ h.aged.1
  · obtain ⟨x, hx, rfl⟩ := List.mem_map.1 he
    exact (hf x hx).1.symm ▸ h.aged.2 x hx
  · obtain ⟨x, hx, rfl⟩ := List.mem_map.1 he
    exact (hf x hx).2.1.trans (h.waiting x hx)
  · rw [withLine_line, hcount _ fun e he => (hf e he).2.2.1]
    exact h.asks
  · rw [withLine_line, hcount _ fun e he => (hf e he).2.2.2]
    exact h.inrushes
  · rw [withLine_line, hcount isOther fun e he => by
      rw [isOther, isOther, (hf e he).2.2.1, (hf e he).2.2.2]]
    exact h.others

/-! ### What stands of COORD frames -/

/-- The kind holds COORD frames that are none of the power account's own. -/
structure CoordKind (p : Frame → Bool) : Prop where
  cls : ∀ f, p f = true → frameClass f = .coord
  inrush : ∀ x z, p (.inrush x z) = false

theorem CoordKind.not_of_class (hp : CoordKind p) {f : Frame} (h : frameClass f ≠ .coord) :
    p f = false := Bool.eq_false_iff.2 fun hf => h (hp.cls f hf)

/-- A step that queues at most `n` frames of other kinds, besides those of the power account. -/
def Frugal (p : Frame → Bool) (n : Nat) (s t : State) : Prop :=
  ∀ m, m + n ≤ 10 → Modest m s → Modest (m + n) t ∧ heldOf p t = heldOf p s

theorem Frugal.of_eq (hl : t.line = s.line) (ha : t.share.askRun = s.share.askRun)
    (hc : t.share.claim = s.share.claim) : Frugal p 0 s t := fun _ _ hm =>
  ⟨hm.of_eq hl ha hc, by rw [heldOf, hl, heldOf]⟩

theorem Frugal.refl (s : State) : Frugal p 0 s s := .of_eq rfl rfl rfl

theorem Frugal.trans (h : Frugal p n s t) (k : Frugal p m t u) : Frugal p (n + m) s u :=
  fun j hj hs => by
    obtain ⟨ht, he⟩ := h j (by omega) hs
    obtain ⟨hu, he'⟩ := k (j + n) (by omega) ht
    exact ⟨Nat.add_assoc j n m ▸ hu, he'.trans he⟩

theorem Frugal.mono (h : Frugal p n s t) (hnm : n ≤ m) : Frugal p m s t := fun j hj hs => by
  obtain ⟨ht, he⟩ := h j (by omega) hs
  exact ⟨ht.mono (by omega), he⟩

/-- A change of other blocks before a step. -/
theorem Frugal.before (h : Frugal p n t u) (hl : t.line = s.line)
    (ha : t.share.askRun = s.share.askRun) (hc : t.share.claim = s.share.claim) :
    Frugal p n s u := by
  have := Frugal.trans (.of_eq hl ha hc) h
  rwa [Nat.zero_add] at this

/-- A step that queues nothing of its own after another. -/
theorem Frugal.step (h : Frugal p n s t) (k : Frugal p 0 t u) : Frugal p n s u := h.trans k

theorem heldOf_append_of_not (k : Nat) {e : TxEntry} (hp : p e.frame = false) :
    heldOf p (s.withLine (s.line.append k e)) = heldOf p s := by
  simp [heldOf, LineUnit.append, hp]

theorem heldOf_filter {f : TxEntry → Bool} (hf : ∀ e, f e = false → p e.frame = false) :
    heldOf p (s.withLine { s.line with queue := s.line.queue.filter f }) = heldOf p s := by
  simp only [heldOf, withLine_line, List.filter_filter]
  refine List.filter_congr fun e _ => ?_
  cases hfe : f e
  · simp [hf e hfe]
  · simp

theorem withdrawFrames_frugal {w : TxEntry → Bool} (hw : ∀ e, w e = true → p e.frame = false) :
    Frugal p 0 s (withdrawFrames s w) := fun _ _ hs =>
  ⟨hs.filter _, heldOf_filter fun e he => hw e (by
    simp only [Bool.or_eq_false_iff, Bool.not_eq_false'] at he
    exact he.2)⟩

/-- The frames a predicate picks are rewritten within their kind, none of them of `p`. -/
theorem reviseFrames_frugal {f : TxEntry → TxEntry} (hf : ∀ e, f e = e ∨
    p e.frame = false ∧ p (f e).frame = false ∧ isAsk (f e) = isAsk e ∧
      isInrush (f e) = isInrush e) :
    Frugal p 0 s (reviseFrames s f) := fun _ _ hs => by
  refine ⟨hs.map fun e he => ?_, ?_⟩
  · rw [hs.waiting e he]
    rcases hf e with h | ⟨-, -, ha, hi⟩
    · simp only [Bool.false_eq_true, if_false, h]
      exact ⟨trivial, trivial, rfl, rfl⟩
    · exact ⟨rfl, rfl, ha, hi⟩
  · simp only [heldOf, reviseFrames, LineUnit.revise, withLine_line]
    induction s.line.queue with
    | nil => rfl
    | cons e l ih =>
      rcases hf e with he | ⟨hp, hq, -⟩
      · by_cases hpe : p e.frame = true <;> simp [he, ih, hpe]
      · by_cases hs : e.started <;> simp [hs, hp, hq, ih]

/-! ### The power account -/

/-- A frame that is placed displaces none but a ROUTINE frame that is no ANSWER (R71). -/
theorem place_modest (h : Modest n s) {e : TxEntry} {l : LineUnit} (hl : s.line.place e = some l)
    (hp : CoordKind p) : ∃ k, ∃ l' : LineUnit, l = l'.append k e ∧ Modest n (s.withLine l') ∧
      heldOf p (s.withLine l') = heldOf p s := by
  unfold LineUnit.place at hl
  split at hl
  · exact ⟨_, s.line, (Option.some.inj hl).symm, h, rfl⟩
  · split at hl
    · rename_i v hv
      refine ⟨v.slot, s.line.remove v.age, (Option.some.inj hl).symm, h.filter _, ?_⟩
      have hroutine : frameClass v.frame = .routine := by
        have := List.find?_some hv
        simp only [isDisplaceable, Bool.and_eq_true, beq_iff_eq] at this
        exact this.1.1.2
      have hpv : p v.frame = false := hp.not_of_class (by rw [hroutine]; decide)
      simp only [heldOf, withLine_line, LineUnit.remove, List.filter_filter]
      refine List.filter_congr fun x hx => ?_
      by_cases hxv : x.age = v.age
      · rw [h.aged.eq_of_age hx (List.mem_of_find?_eq_some hv) hxv, hpv]
        simp
      · simp [hxv]
    · cases hl

/-- A claim made from NONE puts its INRUSH in the queue, if any (R177). -/
theorem claimFromNone_frugal (hp : CoordKind p) (hc : s.share.claim = .none) :
    Frugal p 0 s (claimFromNone s) := fun m _ hs => by
  have hidle : Modest m (s.withShare { s.share with claim := .none }) :=
    hs.of_eq rfl rfl hc.symm
  unfold claimFromNone
  dsimp only
  split
  · split
    · rename_i l hl
      obtain ⟨k, l', rfl, hm, hheld⟩ := place_modest hs hl hp
      have hnone : l'.queue.countP isInrush = 0 := by
        have := hm.inrushes
        simpa [claimRoom, hc] using this
      refine ⟨⟨hm.aged.append _ _, waiting_append hm.waiting _ _, ?_, ?_, ?_⟩, ?_⟩
      · rw [withLine_line, countP_append _ _ _ _ rfl]
        exact hm.asks
      · rw [withLine_line, countP_append _ _ _ _ rfl, hnone]
        exact Nat.le_refl 1
      · rw [withLine_line, countP_append _ _ _ _ rfl]
        exact hm.others
      · exact (heldOf_append_of_not (s := s.withLine l') k (hp.inrush _ _)).trans hheld
    · exact ⟨hidle, rfl⟩
  · exact ⟨hidle, rfl⟩

theorem reviseInrush_frugal (hp : CoordKind p) : Frugal p 0 s (reviseInrush s) :=
  reviseFrames_frugal fun e => by
    split
    case h_1 he => exact .inr ⟨he ▸ hp.inrush _ _, hp.inrush _ _, by simp [isAsk, he],
      by simp [isInrush, he]⟩
    case h_2 => exact .inl rfl

/-- A claim withdrawn takes its INRUSH along (R177). -/
theorem claimWithdrawn_frugal (hp : CoordKind p) : Frugal p 0 s
    ((withdrawFrames s isInrush).withShare { s.share with claim := .none }) := fun m hm hs => by
  obtain ⟨hw, hheld⟩ := withdrawFrames_frugal (p := p) (s := s) (w := isInrush) (fun e he => by
    unfold isInrush at he
    split at he
    case h_1 he' => exact he' ▸ hp.inrush _ _
    case h_2 => cases he) m hm hs
  refine ⟨⟨hw.aged, hw.waiting, hw.asks, ?_, hw.others⟩, hheld⟩
  have : (withdrawFrames s isInrush).line.queue.countP isInrush = 0 := by
    refine List.countP_eq_zero.2 fun e he => ?_
    obtain ⟨he, hk⟩ := List.mem_filter.1 he
    simpa [hs.waiting e he] using hk
  exact Nat.le_of_eq this

theorem updateClaim_eq (s : State) : updateClaim s =
    match s.share.claim with
    | .none => if s.share.claimCount != 0 then claimFromNone s else s
    | .queued =>
      if s.share.claimCount == 0 then
        (withdrawFrames s isInrush).withShare { s.share with claim := .none }
      else reviseInrush s
    | _ => s := rfl

theorem updateClaim_frugal (hp : CoordKind p) : Frugal p 0 s (updateClaim s) := by
  rw [updateClaim_eq]
  split
  · split
    · exact claimFromNone_frugal hp ‹_›
    · exact .refl s
  · split
    · exact claimWithdrawn_frugal hp
    · exact reviseInrush_frugal hp
  · exact .refl s

theorem heaterNotice_frugal (hp : CoordKind p) : Frugal p 0 s (heaterNotice s) := by
  unfold heaterNotice
  dsimp only
  split
  · exact .refl s
  · exact (updateClaim_frugal hp).before rfl rfl rfl

theorem topUp_frugal (hp : CoordKind p) : Frugal p 0 s (topUp s) := by
  unfold topUp
  split
  · exact (heaterNotice_frugal hp).before rfl rfl rfl
  · exact .refl s

theorem shed_frugal (hp : CoordKind p) (k : Nat) : Frugal p 0 s (shed s k) := by
  unfold shed
  split
  · exact .refl s
  · exact (heaterNotice_frugal hp).before rfl rfl rfl

theorem isAsk_frame {e : TxEntry} (h : isAsk e = true) : ∃ a, e.frame = .shareAsk a := by
  unfold isAsk at h
  split at h
  case h_1 he => exact ⟨_, he⟩
  case h_2 => cases h

theorem CoordKind.ask (hp : CoordKind p) {e : TxEntry} (h : isAsk e = true) :
    p e.frame = false := by
  obtain ⟨a, ha⟩ := isAsk_frame h
  exact hp.not_of_class (by rw [ha]; exact nofun)

/-- A SHARE_ASK queued while the ask run lets one be (R171). -/
theorem queueAsk_frugal (hp : CoordKind p) (hr : askReady s.share = 1) :
    Frugal p 0 s (queueAsk s) := fun m hm hs => by
  have hnone : s.line.queue.countP isAsk = 0 := by
    have := hs.asks
    omega
  have hnot : p (.shareAsk (askAmount s)) = false := hp.not_of_class nofun
  have hmate : s.line.groupMate (.shareAsk (askAmount s)) = none :=
    groupMate_none fun g _ => by cases g <;> rfl
  have hkept : Modest m (s.withShare { s.share with askRun := some 0 }) := by
    refine ⟨hs.aged, hs.waiting, ?_, hs.inrushes, hs.others⟩
    rw [withShare_line, hnone]
    exact Nat.zero_le 1
  unfold queueAsk enqueue
  by_cases ht : transmits s = true
  · cases hl : s.line.place (TxEntry.fresh (.shareAsk (askAmount s))) with
    | none =>
      rw [enqueueEntry_refused (e := TxEntry.fresh _) ht hmate nofun hl]
      exact ⟨hkept, rfl⟩
    | some l =>
      rw [enqueueEntry_placed (e := TxEntry.fresh _) ht hmate nofun hl]
      obtain ⟨k, l', rfl, hm', hheld⟩ := place_modest hs hl hp
      refine ⟨⟨hm'.aged.append _ _, waiting_append hm'.waiting _ _, ?_, ?_, ?_⟩, ?_⟩
      · have hle : l'.queue.countP isAsk = 0 := by
          have := hm'.asks
          have : askReady (s.withLine l').share = 1 := hr
          rw [withLine_line] at *
          omega
        show (l'.append k _).queue.countP isAsk + 0 ≤ 1
        rw [countP_append _ _ _ _ rfl, hle]
        exact Nat.le_refl 1
      · show (l'.append k _).queue.countP isInrush ≤ _
        rw [countP_append _ _ _ _ rfl]
        exact hm'.inrushes
      · show (l'.append k _).queue.countP isOther ≤ _
        rw [countP_append _ _ _ _ rfl]
        exact hm'.others
      · exact (heldOf_append_of_not (s := s.withLine l') k hnot).trans hheld
  · rw [enqueueEntry, if_neg ht]
    exact ⟨hkept, rfl⟩

theorem updateAsk_frugal (hp : CoordKind p) : Frugal p 0 s (updateAsk s) := by
  have hrevise : Frugal p 0 s (reviseFrames s fun e =>
      if isAsk e then { e with frame := .shareAsk (askAmount s) } else e) :=
    reviseFrames_frugal fun e => by
      cases he : isAsk e
      · exact .inl rfl
      · obtain ⟨a, ha⟩ := isAsk_frame he
        exact .inr ⟨hp.ask he, hp.not_of_class nofun, rfl, by simp [isInrush, ha]⟩
  unfold updateAsk
  split
  · split
    · exact withdrawFrames_frugal fun e he => hp.ask he
    · dsimp only
      split
      · rename_i r hr
        split
        · exact hrevise
        · refine hrevise.trans (queueAsk_frugal hp ?_)
          rename_i hlt
          show askReady s.share = 1
          simp [askReady, hr, hlt]
      · rename_i hr
        refine hrevise.trans (queueAsk_frugal hp ?_)
        show askReady s.share = 1
        simp [askReady, hr]
  · exact .refl s

theorem settlePower_frugal (hp : CoordKind p) (b : State) : Frugal p 0 s (settlePower b s) := by
  unfold settlePower
  split
  · exact (topUp_frugal hp).trans (updateAsk_frugal hp)
  · exact updateAsk_frugal hp

theorem commitMotion_frugal (hp : CoordKind p) (k : Nat) : Frugal p 0 s (commitMotion s k) := by
  unfold commitMotion
  exact (shed_frugal hp _).step ((settlePower_frugal hp s).before rfl rfl rfl)

theorem shareLegEnd_frugal (hp : CoordKind p) : Frugal p 0 s (shareLegEnd s) :=
  commitMotion_frugal hp 0

/-- Every zone OFF (R162 to R165). -/
def heaterOff (u : HeaterUnit) (c : OffCause) : HeaterUnit :=
  { u with zones := u.zones.map (zoneOff c), claims := [], onOrder := [], admitted := 0 }

theorem allOff_frugal (hp : CoordKind p) (c : OffCause) : Frugal p 0 s (allOff s c) :=
  Frugal.step (t := heaterNotice (s.withHeater (heaterOff s.heater c)))
    ((heaterNotice_frugal hp).before rfl rfl rfl) (settlePower_frugal hp s)

/-! ### Frames of other kinds -/

theorem event_not_coord (k d : Nat) (x : ATime) : frameClass (.event k d x) ≠ .coord := by
  simp only [frameClass]
  split <;> exact nofun

/-- A frame of a group has another class than COORD (R70). -/
theorem group_not_coord {f g : Frame} (h : sameGroup f g = true) : frameClass f ≠ .coord := by
  cases f <;> cases g <;> try (cases h; done)
  case event.event => exact event_not_coord _ _ _
  all_goals exact nofun

/-- Where fewer than 12 frames wait, a SAFETY frame finds a slot (R72). -/
theorem exists_safetySlot {q : List TxEntry} (h : q.length < 12) :
    ∃ k, (freeSlot q 8 4 <|> freeSlot q 0 8) = some k := by
  obtain ⟨k, hk⟩ := exists_freeSlot (lo := 0) h
  obtain ⟨hfree, -, hlt⟩ := freeSlot_free hk
  have hat : ∀ lo n, lo ≤ k → k < lo + n → (freeSlot q lo n).isSome = true := fun lo n h1 h2 =>
    List.find?_isSome.2 ⟨k, by simp [List.mem_range']; exact ⟨k - lo, by omega, by omega⟩,
      by simpa using hfree⟩
  by_cases h8 : k < 8
  · obtain ⟨j, hj⟩ := Option.isSome_iff_exists.1 (hat 0 8 (Nat.zero_le _) (by omega))
    cases freeSlot q 8 4 with
    | none => exact ⟨j, hj⟩
    | some i => exact ⟨i, rfl⟩
  · obtain ⟨j, hj⟩ := Option.isSome_iff_exists.1 (hat 8 4 (by omega) (by omega))
    exact ⟨j, by rw [hj]; rfl⟩

/-- A frame that is of another kind, and none of the power account's own, is queued. -/
theorem enqueue_frugal (hp : CoordKind p) {f : Frame} (hf : p f = false)
    (ho : isOther (TxEntry.fresh f) = true) : Frugal p 1 s (enqueue s f) := fun m hm hs => by
  unfold enqueue
  by_cases ht : transmits s = true
  · cases hmate : s.line.groupMate f with
    | some old =>
      have hold : old ∈ s.line.queue := List.mem_of_find?_eq_some hmate
      have hgroup : sameGroup old.frame f = true := by
        have := List.find?_some hmate
        simp only [Bool.and_eq_true] at this
        exact this.2
      have hcoalesce : enqueueEntry s (TxEntry.fresh f) =
          s.withLine (s.line.coalesce old.age f) := by
        rw [enqueueEntry, if_pos ht]
        simp only [TxEntry.fresh, hmate]
      have hkinds : isAsk old = false ∧ isInrush old = false := by
        constructor
        · refine Bool.eq_false_iff.2 fun h => ?_
          obtain ⟨a, ha⟩ := isAsk_frame h
          rw [ha] at hgroup
          cases f <;> cases hgroup
        · unfold isInrush
          split
          · rename_i he
            rw [he] at hgroup
            cases f <;> cases hgroup
          · rfl
      have hnew := isOther_of_eq ho
      rw [hcoalesce]
      refine ⟨(hs.map fun x hx => ?_).mono (Nat.le_succ m), ?_⟩
      · by_cases hxo : x.age = old.age
        · rw [hs.aged.eq_of_age hx hold hxo]
          simp only [beq_self_eq_true, if_true, true_and, hkinds]
          exact hnew
        · simp [hxo]
      · have hpo : p old.frame = false := hp.not_of_class (group_not_coord hgroup)
        simp only [heldOf, LineUnit.coalesce, withLine_line, List.filter_map]
        have hkeep : s.line.queue.filter ((fun x => p x.frame) ∘ fun x =>
            if x.age == old.age then { x with frame := f } else x) =
            s.line.queue.filter fun x => p x.frame := by
          refine List.filter_congr fun x hx => ?_
          by_cases hxo : x.age = old.age
          · simp [hs.aged.eq_of_age hx hold hxo, hf, hpo]
          · simp [hxo]
        rw [hkeep]
        refine (List.map_congr_left fun x hx => ?_).trans (List.map_id _)
        by_cases hxo : x.age = old.age
        · have hpx := (List.mem_filter.1 hx).2
          rw [hs.aged.eq_of_age (List.mem_filter.1 hx).1 hold hxo, hpo] at hpx
          cases hpx
        · simp [hxo]
    | none =>
      by_cases hc : frameClass f = .safety
      · obtain ⟨k, hk⟩ := exists_safetySlot (q := s.line.queue) (by
          have := hs.length_le
          omega)
        rw [enqueueEntry_safety (e := TxEntry.fresh f) ht hmate hc hk]
        exact ⟨hs.append k ho, heldOf_append_of_not k hf⟩
      · cases hl : s.line.place (TxEntry.fresh f) with
        | none =>
          rw [enqueueEntry_refused (e := TxEntry.fresh f) ht hmate hc hl, onRefused_of_ne_inrush
            fun x z hx => by
              have := (isOther_of_eq ho).2
              have hx' : f = .inrush x z := hx
              rw [hx'] at this
              cases this]
          exact ⟨hs.mono (Nat.le_succ m), rfl⟩
        | some l =>
          rw [enqueueEntry_placed (e := TxEntry.fresh f) ht hmate hc hl]
          obtain ⟨k, l', rfl, hm', hheld⟩ := place_modest hs hl hp
          exact ⟨hm'.append k ho, (heldOf_append_of_not (s := s.withLine l') k hf).trans hheld⟩
  · rw [enqueueEntry, if_neg ht]
    exact ⟨hs.mono (Nat.le_succ m), rfl⟩

theorem queueFrame_frugal (hp : CoordKind p) {f : Frame} (hf : p f = false)
    (ho : isOther (TxEntry.fresh f) = true) : Frugal p 1 s (queueFrame s f) :=
  (enqueue_frugal hp hf ho).step (settlePower_frugal hp s)

theorem setFlag_frugal (hp : CoordKind p) (k d x : Nat) : Frugal p 1 s (setFlag s k d x) := by
  have hrecord : Frugal p 0 s (recordFlag s k d x) := .of_eq rfl rfl rfl
  have hraw : Frugal p 1 s (setFlagRaw s k d x) := by
    unfold setFlagRaw queueEvent
    split
    · exact hrecord.mono (Nat.zero_le 1)
    · split
      · refine Frugal.trans hrecord (enqueue_frugal hp (hp.not_of_class ?_) rfl)
        simp only [frameClass]
        split <;> decide
      · exact hrecord.mono (Nat.zero_le 1)
  exact hraw.step (settlePower_frugal hp s)

theorem judgeBlocked_frugal (hp : CoordKind p) : Frugal p 1 s (judgeBlocked s) := by
  unfold judgeBlocked
  split
  · split
    · exact (Frugal.refl s).mono (Nat.zero_le 1)
    · exact (setFlag_frugal hp _ _ _).before rfl rfl rfl
  · split
    · exact Frugal.mono (n := 0) (.of_eq rfl rfl rfl) (Nat.zero_le 1)
    · exact (Frugal.refl s).mono (Nat.zero_le 1)

/-! ### A COORD frame of the kind -/

/-- A COORD frame joins a queue that has a general slot for it. -/
theorem queueFrame_held (hp : CoordKind p) {f : Frame} (hf : p f = true) (hn : n ≤ 5)
    (ht : transmits s = true) (hs : Modest n s) : Modest (n + 1) (queueFrame s f) ∧
      (heldOf p (queueFrame s f)).map (·.frame) = (heldOf p s).map (·.frame) ++ [f] := by
  have hc := hp.cls f hf
  have ho : isOther (TxEntry.fresh f) = true := by
    cases f
    case inrush x z => exact absurd hf (by simp [hp.inrush])
    case shareAsk => cases hc
    all_goals rfl
  have hmate : s.line.groupMate f = none := List.find?_eq_none.2 fun e _ h => by
    simp only [Bool.and_eq_true] at h
    exact group_not_coord h.2 ((sameGroup_class h.2).symm.trans hc)
  obtain ⟨k, hk⟩ := exists_freeSlot (q := s.line.queue) (lo := 0) (n := 8) (by
    have := hs.length_le
    omega)
  have hq : enqueue s f = s.withLine (s.line.append k (TxEntry.fresh f)) :=
    enqueueEntry_general (e := TxEntry.fresh f) ht hmate (fun h => by
      cases hc.symm.trans h) hk
  obtain ⟨hm, hheld⟩ := settlePower_frugal (s := enqueue s f) hp s (n + 1) (by omega)
    (hq ▸ hs.append k ho)
  refine ⟨hm, ?_⟩
  show (heldOf p (settlePower s (enqueue s f))).map (·.frame) = _
  rw [hheld, hq, heldOf_append k (TxEntry.fresh f) hf]
  simp [TxEntry.fresh]

theorem count_frame (f : Frame) (q : List TxEntry) : (q.map (·.frame)).count f =
    (q.filter fun e => e.frame == f).length := by
  rw [List.count, List.countP_map, List.countP_eq_length_filter]
  rfl

end Sys2Proof.Machine
end

section
/-! PROOFS. A compact left by the station (R43, R109, R111): what the own LEAVE leaves of the
record, of COMPACT_FAILED and of the transmit queue, and that what follows keeps it. -/

namespace Sys2Proof.Machine

variable {s t u : State} {p : Frame → Bool} {n m : Nat}

/-! ### The work on records as the transmit queue sees it -/

theorem changeRecord_frugal (id : Nat) (f : CompactRecord → CompactRecord) :
    Frugal p 0 s (changeRecord s id f) := .of_eq rfl rfl rfl

theorem toIdle_frugal (hp : CoordKind p) : Frugal p 1 s (toIdle s) :=
  (judgeBlocked_frugal hp).before rfl rfl rfl

theorem axisWithdraw_frugal (hp : CoordKind p) (id : Nat) : Frugal p 1 s (axisWithdraw s id) := by
  have hidle : ∀ a, Frugal p 1 s (s.withAxis a) := fun _ =>
    Frugal.mono (n := 0) (.of_eq rfl rfl rfl) (Nat.zero_le 1)
  unfold axisWithdraw
  split
  · split
    · exact hidle _
    · exact (toIdle_frugal hp).before rfl rfl rfl
    · exact hidle _
    · exact (Frugal.refl s).mono (Nat.zero_le 1)
  · exact (Frugal.refl s).mono (Nat.zero_le 1)

theorem makeTerminal_frugal (hp : CoordKind p) (r : CompactRecord) (st : CompactState) :
    Frugal p 2 s (makeTerminal s r st) := by
  unfold makeTerminal
  dsimp only
  split
  · have hf : Frugal p 1 s (failedWith s r st ‹_›) := (setFlag_frugal hp _ _ _).before rfl rfl rfl
    split
    · exact hf.trans (axisWithdraw_frugal hp _)
    · exact hf.mono (by decide)
  · exact (changeRecord_frugal r.id _).mono (by decide)

theorem completionTest_frugal (hp : CoordKind p) (id : Nat) :
    Frugal p 2 s (completionTest s id) := by
  have hstay : Frugal p 2 s s := (Frugal.refl s).mono (by decide)
  unfold completionTest
  split
  · split
    · split
      · exact makeTerminal_frugal hp _ _
      · split
        · exact makeTerminal_frugal hp _ _
        · exact hstay
    · exact hstay
  · exact hstay

theorem afterLeft_frugal (hp : CoordKind p) (id : Nat) : Frugal p 2 s (afterLeft s id) := by
  have hstay : Frugal p 2 s s := (Frugal.refl s).mono (by decide)
  unfold afterLeft
  split
  · split
    · split
      · exact completionTest_frugal hp _
      · exact makeTerminal_frugal hp _ _
    · exact hstay
  · exact hstay

/-! ### Flags that stay set -/

/-- A flag that is set stays set, the records being whole. -/
structure FlagsStay (s t : State) : Prop where
  length : t.report.flags.length = s.report.flags.length
  stays : s.report.flags.length = 16 → ∀ k, flagOn s k = true → flagOn t k = true

theorem FlagsStay.refl (s : State) : FlagsStay s s := ⟨rfl, fun _ _ h => h⟩

theorem FlagsStay.trans (h : FlagsStay s t) (k : FlagsStay t u) : FlagsStay s u :=
  ⟨k.length.trans h.length, fun hl j hj => k.stays (h.length.trans hl) j (h.stays hl j hj)⟩

theorem FlagsStay.of_eq (h : t.report.flags = s.report.flags) : FlagsStay s t :=
  ⟨by rw [h], fun _ _ hk => by
    unfold flagOn flagRecord at hk ⊢
    rwa [h]⟩

/-- A change of other records before a step. -/
theorem FlagsStay.before (h : FlagsStay t u) (he : t.report.flags = s.report.flags) :
    FlagsStay s u := (FlagsStay.of_eq he).trans h

theorem Silent.flagsStay (h : Silent s t) : FlagsStay s t := .of_eq (by rw [h.report])

theorem setFlag_flagsStay (s : State) {k : Nat} (hk : k < 16) (d x : Nat) :
    FlagsStay s (setFlag s k d x) := by
  refine ⟨(setFlag_quiet (.refl s) k d x).flags, fun hl j hj => ?_⟩
  obtain ⟨hset, hother⟩ := setFlag_records hl hk d x
  by_cases hjk : j = k
  · rw [hjk, flagOn, hset]
  · rw [flagOn, hother j hjk]
    exact hj

theorem judgeBlocked_flagsStay (s : State) : FlagsStay s (judgeBlocked s) := by
  unfold judgeBlocked
  split
  · split
    · exact .refl s
    · exact (setFlag_flagsStay _ (by decide) _ _).before rfl
  · split
    · exact .of_eq rfl
    · exact .refl s

theorem axisWithdraw_flagsStay (s : State) (id : Nat) : FlagsStay s (axisWithdraw s id) := by
  unfold axisWithdraw
  split
  · split
    · exact .of_eq rfl
    · exact (judgeBlocked_flagsStay _).before rfl
    · exact .of_eq rfl
    · exact .refl s
  · exact .refl s

theorem makeTerminal_flagsStay (s : State) (r : CompactRecord) (st : CompactState) :
    FlagsStay s (makeTerminal s r st) := by
  unfold makeTerminal
  dsimp only
  split
  · have hf : FlagsStay s (failedWith s r st ‹_›) :=
      (setFlag_flagsStay _ (by decide) _ _).before rfl
    split
    · exact hf.trans (axisWithdraw_flagsStay _ _)
    · exact hf
  · exact .of_eq rfl

theorem completionTest_flagsStay (s : State) (id : Nat) : FlagsStay s (completionTest s id) := by
  unfold completionTest
  split
  · split
    · split
      · exact makeTerminal_flagsStay _ _ _
      · split
        · exact makeTerminal_flagsStay _ _ _
        · exact .refl s
    · exact .refl s
  · exact .refl s

theorem afterLeft_flagsStay (s : State) (id : Nat) : FlagsStay s (afterLeft s id) := by
  unfold afterLeft
  split
  · split
    · split
      · exact completionTest_flagsStay _ _
      · exact makeTerminal_flagsStay _ _ _
    · exact .refl s
  · exact .refl s

/-! ### The own LEAVE (R111) -/

/-- The LEAVE of a record with a reason. -/
def isLeaveFrame (id reason : Nat) (f : Frame) : Bool := f == .leave id reason

theorem isLeaveFrame_kind (id reason : Nat) : CoordKind (isLeaveFrame id reason) where
  cls f hf := by
    rw [isLeaveFrame, beq_iff_eq] at hf
    rw [hf]
    rfl
  inrush _ _ := by simp [isLeaveFrame]

theorem memberState_setMember {r : CompactRecord} {k : Nat} {a : MemberState}
    (h : memberState r k = some a) (b : MemberState) :
    memberState (setMember r k b) k = some b := by
  obtain ⟨e, he, -⟩ := Option.map_eq_some_iff.1 h
  have hstation : ((fun x : Member => x.station == k) ∘ fun x =>
      if x.station == k then { x with state := b } else x) = fun x => x.station == k :=
    funext fun x => by dsimp only [Function.comp]; split <;> rfl
  rw [memberState, setMember, List.find?_map, hstation, he, Option.map_some, Option.map_some,
    if_pos (List.find?_some he)]

/-- What a station in flight of its one compact brings to the own LEAVE: nothing of it waits yet,
and `n` frames at most wait else. -/
structure MayLeave (n : Nat) (s : State) (r : CompactRecord) (reason : Nat) : Prop where
  list : s.compact.list = [r]
  flying : isFlying r = true
  accepted : memberState r s.seq.number = some .accepted
  transmits : transmits s = true
  flags : s.report.flags.length = 16
  modest : Modest n s
  none : heldOf (isLeaveFrame r.id reason) s = []

/-- The station has left its compact, and `n` frames at most wait beside the LEAVE. -/
structure HasLeft (n : Nat) (s : State) (own : Nat) (r : CompactRecord) (reason : Nat) : Prop where
  member : ∃ x, findRecord s r.id = some x ∧ memberState x own = some (.left reason) ∧
    (r.partialMode = false → x.state = .abandoned)
  failed : flagOn s flagCompactFailed = true
  flags : s.report.flags.length = 16
  modest : Modest n s
  one : (heldOf (isLeaveFrame r.id reason) s).map (·.frame) = [.leave r.id reason]

theorem HasLeft.leftBy {r : CompactRecord} {reason : Nat}
    (h : HasLeft n t s.seq.number r reason) : LeftBy s t r reason where
  member := h.member
  failed := h.failed
  leave := by
    rw [count_frame]
    have := congrArg List.length h.one
    simpa [heldOf, isLeaveFrame] using this

/-- What follows keeps the leaving, while it keeps the records and clears no flag. -/
theorem HasLeft.after {own reason : Nat} {r : CompactRecord} (h : HasLeft n s own r reason)
    (hc : t.compact = s.compact) (hf : FlagsStay s t)
    (hq : Frugal (isLeaveFrame r.id reason) m s t) (hn : n + m ≤ 10) :
    HasLeft (n + m) t own r reason := by
  obtain ⟨hm, hheld⟩ := hq n hn h.modest
  refine ⟨?_, hf.stays h.flags _ h.failed, hf.length.trans h.flags, hm, by rw [hheld]; exact h.one⟩
  rw [findRecord_congr hc]
  exact h.member

theorem isLive_of_isFlying {r : CompactRecord} (h : isFlying r = true) : isLive r = true := by
  simp only [isFlying, isLive, Bool.or_eq_true] at h ⊢
  tauto

/-- The member state that a LEFT sets stands through the record's response. -/
theorem member_afterLeft {r : CompactRecord} {id k : Nat} {a : MemberState}
    (h : findRecord s id = some r) (hl : isLive r = true) (ha : memberState r k = some a) :
    ∃ x, findRecord (afterLeft s id) id = some x ∧ memberState x k = some a ∧
      (r.partialMode = false → x.state = .abandoned) := by
  refine ⟨_, findRecord_afterLeft h hl, ?_, fun hp => ?_⟩
  · split
    · exact ha
    · split
      · exact ha
      · exact ha
  · rw [if_pos (.inl hp)]
    rfl

theorem transmits_congr (h : t.seq = s.seq) : transmits t = transmits s := by
  unfold transmits isReady isConfigFault
  rw [h]

/-- The LEAVE and the RESUME of a record, from an empty queue. -/
theorem queueLeave_held {r : CompactRecord} {reason : Nat} (hn : n ≤ 5)
    (ht : transmits s = true) (hs : Modest n s)
    (hnone : heldOf (isLeaveFrame r.id reason) s = []) :
    Modest (n + 2) (queueLeave s r reason) ∧
      (heldOf (isLeaveFrame r.id reason) (queueLeave s r reason)).map (·.frame) =
        [.leave r.id reason] := by
  have hp := isLeaveFrame_kind r.id reason
  obtain ⟨hm1, hheld1⟩ := queueFrame_held hp (f := .leave r.id reason) (by simp [isLeaveFrame]) hn
    ht hs
  have hresume : Frugal (isLeaveFrame r.id reason) 1 (queueFrame s (.leave r.id reason))
      (queueLeave s r reason) := by
    unfold queueLeave
    dsimp only
    split
    · exact queueFrame_frugal hp (by simp [isLeaveFrame]) rfl
    · exact (Frugal.refl _).mono (Nat.zero_le 1)
  obtain ⟨hm2, hheld2⟩ := hresume (n + 1) (by omega) hm1
  refine ⟨hm2, ?_⟩
  rw [hheld2, hheld1, hnone]
  rfl

/-- The own LEAVE, by its steps: the member is LEFT, the LEAVE joins the queue and no other of it
does, COMPACT_FAILED is set, and the record responds (R109, R111, R116). -/
theorem ownLeave_hasLeft {r : CompactRecord} {reason : Nat} (h : MayLeave n s r reason)
    (hn : n ≤ 5) : HasLeft (n + 5) (ownLeave s r reason) s.seq.number r reason := by
  have hp := isLeaveFrame_kind r.id reason
  have hr : findRecord s r.id = some r := by simp [findRecord, h.list]
  -- the member is LEFT
  have hset := findRecord_withMember hr s.seq.number (.left reason)
  obtain ⟨hm0, hheld0⟩ : Modest n (withMember s r.id s.seq.number (.left reason)) ∧ _ :=
    changeRecord_frugal (p := isLeaveFrame r.id reason) r.id _ n (by omega) h.modest
  change heldOf _ (withMember s r.id s.seq.number (.left reason)) = _ at hheld0
  have ht0 : transmits (withMember s r.id s.seq.number (.left reason)) = true := h.transmits
  have hseq0 : (withMember s r.id s.seq.number (.left reason)).report = s.report := rfl
  show HasLeft (n + 5) (afterLeft (compactFailed (queueLeave
    (withMember s r.id s.seq.number (.left reason)) r reason) reason r.id) r.id) _ _ _
  generalize withMember s r.id s.seq.number (.left reason) = v at *
  -- the LEAVE, and the RESUME of a hold
  obtain ⟨hm2, hheld2⟩ := queueLeave_held (reason := reason) hn ht0 hm0 (hheld0.trans h.none)
  have hq := queueLeave_silent v r reason
  -- the flag
  have hfail := setFlag_frugal (s := queueLeave v r reason) hp flagCompactFailed reason r.id
  have hflags : (queueLeave v r reason).report.flags.length = 16 := by
    rw [hq.report, hseq0, h.flags]
  obtain ⟨hm3, hheld3⟩ := hfail (n + 2) (by omega) hm2
  have hon := (setFlag_records hflags (by decide : flagCompactFailed < 16) reason r.id).1
  have hrec : findRecord (compactFailed (queueLeave v r reason) reason r.id) r.id =
      some (setMember r s.seq.number (.left reason)) := by
    rw [← hset]
    exact findRecord_congr ((setFlag_quiet (.refl _) _ _ _).compact.trans hq.compact) _
  have hlen : (compactFailed (queueLeave v r reason) reason r.id).report.flags.length = 16 :=
    (setFlag_quiet (.refl _) _ _ _).flags.trans hflags
  -- the response
  have hstay := afterLeft_flagsStay (compactFailed (queueLeave v r reason) reason r.id) r.id
  obtain ⟨hm4, hheld4⟩ := afterLeft_frugal (s := compactFailed (queueLeave v r reason) reason r.id)
    hp r.id (n + 3) (by omega) hm3
  refine ⟨member_afterLeft (r := setMember r s.seq.number (.left reason)) hrec
    (isLive_of_isFlying h.flying) (memberState_setMember h.accepted _), hstay.stays hlen _ ?_,
      hstay.length.trans hlen, hm4, ?_⟩
  · rw [flagOn, compactFailed, hon]
  · rw [hheld4]
    show (heldOf _ (setFlag _ _ _ _)).map _ = _
    rw [hheld3, hheld2]

/-! ### Once it has left (R43, R111) -/

theorem ownFlying_single {r : CompactRecord} (hl : s.compact.list = [r])
    (hf : isFlying r = true) (ha : memberState r s.seq.number = some .accepted) :
    ownFlying s = [r] := by
  simp [ownFlying, hl, hf, ha]

/-- A compact that the station has left is none that it flies. -/
theorem HasLeft.ownFlying_nil {r : CompactRecord} {reason : Nat}
    (h : HasLeft n s s.seq.number r reason) (hl : s.compact.list.map (·.id) = [r.id]) :
    ownFlying s = [] := by
  obtain ⟨y, hy, -⟩ := List.map_eq_singleton_iff.1 hl
  obtain ⟨z, hz, hmem, -⟩ := h.member
  have hzy : z = y := by
    have := hy ▸ (findRecord_some hz).1
    simpa using this
  simp [ownFlying, hy, ← hzy, hmem]

theorem jointWithdrawn_none (h : ownFlying s = []) (id cause : Nat) :
    jointWithdrawn s id cause = s := by
  rw [jointWithdrawn, h]
  simp

theorem noticeRemoved_none (h : ownFlying s = []) (gone : List MoveEntry) (cause : Nat) :
    noticeRemoved s gone cause = s := by
  unfold noticeRemoved
  induction gone with
  | nil => rfl
  | cons e l ih =>
    have hstep : (if e.origin == .joint then jointWithdrawn s e.compactId cause else s) = s := by
      rw [jointWithdrawn_none h, ite_self]
    rw [List.foldl_cons, hstep]
    exact ih

theorem leaveAll_none (h : ownFlying s = []) (reason : Nat) : leaveAll s reason = s := by
  rw [leaveAll, h]
  rfl

theorem MayLeave.leaveAll_eq {r : CompactRecord} {reason : Nat} (h : MayLeave n s r reason) :
    leaveAll s reason = ownLeave s r reason := by
  rw [leaveAll, ownFlying_single h.list h.flying h.accepted]
  rfl

/-- The records of a state after the own LEAVE. -/
theorem MayLeave.left_nil {r : CompactRecord} {reason : Nat} (h : MayLeave n s r reason)
    (hn : n ≤ 5) : ownFlying (ownLeave s r reason) = [] := by
  have hrecs := ownLeave_recs (.refl s) r reason
  refine HasLeft.ownFlying_nil (hrecs.seq.symm ▸ ownLeave_hasLeft h hn) ?_
  rw [hrecs.ids, h.list]
  rfl

/-- The notices of entries that leave the queue, the JOINT entry of the compact among them, have
the station leave it once. -/
theorem MayLeave.noticeRemoved_eq {r : CompactRecord} {reason : Nat} (h : MayLeave n s r reason)
    (hn : n ≤ 5) {e : MoveEntry} (ho : e.origin = .joint) (hid : e.compactId = r.id)
    (hc : isClash s = false) (rest : List MoveEntry) :
    noticeRemoved s (e :: rest) reason = ownLeave s r reason := by
  have hfirst : jointWithdrawn s e.compactId reason = ownLeave s r reason := by
    rw [jointWithdrawn, hc, ownFlying_single h.list h.flying h.accepted, hid]
    simp
  rw [noticeRemoved, List.foldl_cons, ho, hfirst]
  exact noticeRemoved_none (h.left_nil hn) rest reason

end Sys2Proof.Machine
end

section
/-! PROOFS. The events of motion: the gap, the leg that starts, the search that ends, and the inputs
that go inactive (R12 to R14, R17, R19, R20, R28). -/

namespace Sys2Proof.Machine

variable {s : State}

/-! ### Leg starts (R11, R12) -/

theorem legMayStart_gap (hm : s.axis.motion = .gap) (hr : s.seq.station = .ready)
    (hg : 100 ≤ s.axis.gapRun) : legMayStart s = true := by
  simp [legMayStart, isReady, hm, hr, hg]

theorem legMayStart_idle (hm : s.axis.motion = .idle) (hr : s.seq.station = .ready) :
    legMayStart s = true := by
  simp [legMayStart, isReady, hm, hr]

/-- With nothing to fly a gap ends in IDLE, and any other state stays (R14). -/
theorem tryStart_empty (hq : s.axis.queue = []) :
    tryStart s = if legMayStart s && s.axis.motion == .gap then toIdle s else s := by
  rw [tryStart, tryStartN]
  cases h : legMayStart s <;> simp [hq]

/-- A held JOINT entry waits (R27). -/
theorem tryStart_held {e : MoveEntry} {rest : List MoveEntry} (hq : s.axis.queue = e :: rest)
    (ho : e.origin = .joint) (hh : s.axis.jointHeld = true) : tryStart s = s := by
  rw [tryStart, tryStartN]
  split
  · rw [hq]
    simp [ho, hh]
  · rfl

/-- The leg of a head entry that nothing blocks starts (R11). -/
theorem tryStart_flies (hl : legMayStart s = true) {e : MoveEntry} {rest : List MoveEntry}
    (hq : s.axis.queue = e :: rest) (ho : e.origin ≠ .stow) (hm : s.axis.stowMark = false)
    (hw : windHolds s = false) (hj : e.origin = .joint → s.axis.jointHeld = false)
    (hp : (planOf s e).count ≠ 0)
    (hb : ((nextLeg s e (planOf s e)).movesAz && (lockMask s).az ||
      (nextLeg s e (planOf s e)).movesEl && (lockMask s).el) = false)
    (ht : sweepTest s (legSweep s (nextLeg s e (planOf s e))) = []) :
    tryStart s = flyLeg s e (planOf s e) (nextLeg s e (planOf s e)) := by
  have hjoint : (e.origin == .joint && s.axis.jointHeld) = false := by
    by_cases h : e.origin = .joint
    · simp [hj h]
    · simp [h]
  rw [tryStart, tryStartN, if_pos hl]
  simp [hq, ho, hm, hw, hjoint, hp, hb, ht]

/-! ### A leg that starts (R12) -/

theorem planHead_cons {a : AxisUnit} {e : MoveEntry} {rest : List MoveEntry}
    (h : a.queue = e :: rest) (p : LegPlan) :
    planHead a p = { a with queue := { e with plan := some p } :: rest } := by
  simp [planHead, h]

/-- The engine in the state of a leg that has just started. -/
def legAxis (a : AxisUnit) (l : Leg) (m : Motion) : AxisUnit :=
  { a with
    leg := some l, motion := m, releasedAz := l.movesAz, releasedEl := l.movesEl, gapRun := 0 }

theorem startLeg_axis (s : State) (l : Leg) (m : Motion) :
    (startLeg s l m).axis = legAxis s.axis l m :=
  (judgeBlocked_axis _).trans (shareLegStart_quiet (.refl _) _ _).axis

theorem startLeg_motion (s : State) (l : Leg) (m : Motion) : (startLeg s l m).share.motion =
    (if l.movesAz then (cfg s).axisShares else 0) +
      (if l.movesEl then (cfg s).axisShares else 0) :=
  (judgeBlocked_motion _).trans (shareLegStart_motion (s.withAxis (legAxis s.axis l m)) _ _)

theorem startLeg_recs (s : State) (l : Leg) (m : Motion) :
    Recs (s.withAxis (legAxis s.axis l m)) (startLeg s l m) :=
  judgeBlocked_recs (shareLegStart_quiet (.refl _) _ _).recs

theorem startLeg_compact (s : State) (l : Leg) (m : Motion) :
    (startLeg s l m).compact = s.compact :=
  (judgeBlocked_compact _).trans (shareLegStart_quiet (.refl _) _ _).compact

theorem startLeg_elsewhere (s : State) (l : Leg) (m : Motion) : Elsewhere s (startLeg s l m) :=
  (withAxis_elsewhere s _).trans (startLeg_recs s l m).elsewhere

/-- What the leg of a move's entry leaves (R12, R107), `t` the state once it flies. -/
structure Flown (s t : State) (e : MoveEntry) (rest : List MoveEntry) (p : LegPlan) (l : Leg) :
    Prop where
  axis : t.axis = { s.axis with
    motion := .leg, leg := some l, gapRun := 0, releasedAz := l.movesAz, releasedEl := l.movesEl
    queue := { e with plan := some { p with index := p.index + 1 } } :: rest }
  commit : t.share.motion = (if l.movesAz then (cfg s).axisShares else 0) +
    (if l.movesEl then (cfg s).axisShares else 0)
  compact : t.compact = (if e.origin = .joint then { s.compact with
      list := s.compact.list.map fun r => if r.id == e.compactId then
        { r with progress := some (p.index + 1, p.count) } else r }
    else s.compact)
  elsewhere : Elsewhere s t

/-- The leg of a move's entry has started, the record not yet told. -/
def flownState (s : State) (e : MoveEntry) (rest : List MoveEntry) (p : LegPlan) (l : Leg) :
    State :=
  startLeg (s.withAxis { s.axis with
    queue := { e with plan := some { p with index := p.index + 1 } } :: rest }) l .leg

theorem flyLeg_flown {e : MoveEntry} {rest : List MoveEntry} (hq : s.axis.queue = e :: rest)
    (p : LegPlan) (l : Leg) : Flown s (flyLeg s e p l) e rest p l := by
  have hfly : flyLeg s e p l = if e.origin = .joint then
      compactLegStart (flownState s e rest p l) e.compactId (p.index + 1) p.count
      else flownState s e rest p l := by
    simp [flyLeg, flownState, planHead_cons hq]
  have hax : (flownState s e rest p l).axis = _ := startLeg_axis _ l .leg
  have hcompact : (flownState s e rest p l).compact = s.compact := startLeg_compact _ l .leg
  have helse : Elsewhere s (flownState s e rest p l) :=
    (withAxis_elsewhere s _).trans (startLeg_elsewhere _ l .leg)
  have hcommit : (flownState s e rest p l).share.motion = _ := startLeg_motion _ l .leg
  rw [hfly]
  generalize flownState s e rest p l = u at hax hcompact helse hcommit ⊢
  by_cases ho : e.origin = .joint
  · rw [if_pos ho]
    refine ⟨hax, hcommit, ?_, helse.trans ⟨rfl, rfl, rfl, rfl, rfl, rfl, rfl, rfl, rfl, rfl⟩⟩
    rw [if_pos ho, ← hcompact]
    rfl
  · rw [if_neg ho]
    exact ⟨hax, hcommit, hcompact.trans (if_neg ho).symm, helse⟩

theorem judgeBlocked_elsewhere (s : State) : Elsewhere s (judgeBlocked s) :=
  (judgeBlocked_recs (.refl s)).elsewhere

/-! ### The gap (R13, R14) -/

theorem toIdle_axis (s : State) : (toIdle s).axis =
    { s.axis with motion := .idle, releasedAz := false, releasedEl := false } :=
  judgeBlocked_axis _

theorem toIdle_motion (s : State) : (toIdle s).share.motion = s.share.motion :=
  judgeBlocked_motion _

theorem toIdle_compact (s : State) : (toIdle s).compact = s.compact := judgeBlocked_compact _

theorem toIdle_elsewhere (s : State) : Elsewhere s (toIdle s) :=
  (withAxis_elsewhere s _).trans (judgeBlocked_recs (.refl _)).elsewhere

theorem gapMinimum_due (hm : s.axis.motion = .gap) (hg : 100 ≤ s.axis.gapRun) :
    gapMinimum s = tryStart s := if_pos (by simp [hm, hg])

/-- The state of a gap's end with nothing to fly. -/
theorem gapMinimum_empty (hm : s.axis.motion = .gap) (hr : s.seq.station = .ready)
    (hg : 100 ≤ s.axis.gapRun) (hq : s.axis.queue = []) : gapMinimum s = toIdle s := by
  rw [gapMinimum_due hm hg, tryStart_empty hq, legMayStart_gap hm hr hg]
  simp [hm]

/-- Settles O29: the gap's minimum, by what the head of the queue is. -/
theorem aGapEndsInTheNextLeg : Obligations.AGapEndsInTheNextLeg := by
  intro s hgap
  refine ⟨fun hr hg hq => ⟨toIdle s, congrArg Host.Outcome.next (gapMinimum_empty hgap hr hg hq),
    toIdle_axis s, toIdle_motion s, toIdle_compact s, toIdle_elsewhere s⟩, ?_, ?_, ?_⟩
  · intro hr hg hm hw e rest l p hq ho hp hc hl hb ht
    subst hp hl
    have hstow : e.origin ≠ .stow := by
      rcases ho with ho | ⟨ho, -⟩ <;> rw [ho] <;> simp
    have hj : e.origin = .joint → s.axis.jointHeld = false := by
      rcases ho with ho | ⟨-, hh⟩
      · rw [ho]
        simp
      · exact fun _ => hh
    have hfly := tryStart_flies (legMayStart_gap hgap hr hg) hq hstow hm hw hj hc hb ht
    obtain ⟨hax, hcommit, hcompact, helse⟩ := flyLeg_flown hq (planOf s e)
      (nextLeg s e (planOf s e))
    exact ⟨_, congrArg Host.Outcome.next ((gapMinimum_due hgap hg).trans hfly), hax, hcommit,
      hcompact, helse⟩
  · intro e rest hq ho hh
    refine congrArg Host.Outcome.next ?_
    show gapMinimum s = s
    rw [gapMinimum, tryStart_held hq ho hh, ite_self]
  · intro hg
    refine congrArg Host.Outcome.next ?_
    show gapBrakes s = _
    exact if_pos (by simp [hgap, hg])

/-! ### The arrival (R107) -/

/-- The ARRIVE of a record at a position. -/
def isArriveFrame (id : Nat) (az el : Int) (f : Frame) : Bool := f == .arrive id az el

theorem isArriveFrame_kind (id : Nat) (az el : Int) : CoordKind (isArriveFrame id az el) where
  cls f hf := by
    rw [isArriveFrame, beq_iff_eq] at hf
    rw [hf]
    rfl
  inrush _ _ := by simp [isArriveFrame]

/-- The own member ARRIVED, and the ARRIVE queued. -/
def arrivedState (s : State) (id : Nat) (az el : Int) : State :=
  queueFrame (withMember s id s.seq.number (.arrived az el)) (.arrive id az el)

theorem arrivedState_silent (s : State) (id : Nat) (az el : Int) :
    Silent (withMember s id s.seq.number (.arrived az el)) (arrivedState s id az el) :=
  queueFrame_silent (.refl _) _

theorem findRecord_arrivedState {id : Nat} {r : CompactRecord} (h : findRecord s id = some r)
    (az el : Int) : findRecord (arrivedState s id az el) id =
      some (setMember r s.seq.number (.arrived az el)) :=
  (findRecord_congr (arrivedState_silent s id az el).compact id).trans (findRecord_withMember h _ _)

theorem findRecord_arrivedState_ne {id k : Nat} (hk : k ≠ id) (az el : Int) :
    findRecord (arrivedState s id az el) k = findRecord s k :=
  (findRecord_congr (arrivedState_silent s id az el).compact k).trans
    (findRecord_withMember_ne s hk _ _)

theorem arrivalNotice_none {id : Nat} (h : findRecord s id = none) (az el : Int) :
    arrivalNotice s id az el = s := by
  simp only [arrivalNotice, h]

theorem arrivalNotice_flying {id : Nat} {r : CompactRecord} (h : findRecord s id = some r)
    (hf : isFlying r = true) (ha : memberState r s.seq.number = some .accepted) (az el : Int) :
    arrivalNotice s id az el = completionTest (arrivedState s id az el) id := by
  simp [arrivalNotice, h, hf, ha, arrivedState, withMember]

theorem arrivalNotice_late {id : Nat} {r : CompactRecord} (h : findRecord s id = some r)
    (hl : r.state = .timedOut) (az el : Int) : arrivalNotice s id az el =
      setFlag (arrivedState s id az el) flagCompactLate s.seq.number id := by
  simp [arrivalNotice, h, hl, isFlying, arrivedState, withMember]

theorem arrivalNotice_other {id : Nat} {r : CompactRecord} (h : findRecord s id = some r)
    (hf : (isFlying r && memberState r s.seq.number == some .accepted) = false)
    (hl : r.state ≠ .timedOut) (az el : Int) : arrivalNotice s id az el = s := by
  simp [arrivalNotice, h, hf, hl]

/-- The three outcomes of the arrival notice. -/
theorem arrivalNotice_cases (s : State) (id : Nat) (az el : Int) :
    arrivalNotice s id az el = s ∨
    (∃ r, findRecord s id = some r ∧ isFlying r = true ∧
      memberState r s.seq.number = some .accepted ∧
      arrivalNotice s id az el = completionTest (arrivedState s id az el) id) ∨
    arrivalNotice s id az el = setFlag (arrivedState s id az el) flagCompactLate s.seq.number
      id := by
  cases h : findRecord s id with
  | none => exact .inl (arrivalNotice_none h az el)
  | some r =>
    cases hf : isFlying r && memberState r s.seq.number == some .accepted with
    | true =>
      simp only [Bool.and_eq_true, beq_iff_eq] at hf
      exact .inr (.inl ⟨r, rfl, hf.1, hf.2, arrivalNotice_flying h hf.1 hf.2 az el⟩)
    | false =>
      by_cases hl : r.state = .timedOut
      · exact .inr (.inr (arrivalNotice_late h hl az el))
      · exact .inl (arrivalNotice_other h hf hl az el)

/-- The arrival changes nothing of the engine, and releases nothing. -/
theorem arrivalNotice_axis (s : State) (id : Nat) (az el : Int) :
    (arrivalNotice s id az el).axis = s.axis := by
  have ha := (arrivedState_silent s id az el).axis
  rcases arrivalNotice_cases s id az el with h | ⟨r, hr, -, hm, h⟩ | h
  · rw [h]
  · rw [h, completionTest_axis (findRecord_arrivedState hr az el)
      (all_isLeft_setMember_arrived hm az el), ha]
    rfl
  · rw [h, (setFlag_quiet (.refl _) _ _ _).axis, ha]
    rfl

theorem arrivalNotice_motion (s : State) (id : Nat) (az el : Int) :
    (arrivalNotice s id az el).share.motion = s.share.motion := by
  have ha := (arrivedState_silent s id az el).motion
  rcases arrivalNotice_cases s id az el with h | ⟨r, -, -, -, h⟩ | h
  · rw [h]
  · rw [h, (completionTest_worked _ id).motion, ha]
    rfl
  · rw [h, (setFlag_worked _ _ _ _).motion, ha]
    rfl

theorem arrivalNotice_elsewhere (s : State) (id : Nat) (az el : Int) :
    Elsewhere s (arrivalNotice s id az el) := (arrivalNotice_recs (.refl s) id az el).elsewhere

/-- The ARRIVE is queued once. -/
theorem arrivedState_held {n id : Nat} {az el : Int} (hn : n ≤ 5) (ht : transmits s = true)
    (hs : Modest n s) (hnone : heldOf (isArriveFrame id az el) s = []) :
    Modest (n + 1) (arrivedState s id az el) ∧
      (heldOf (isArriveFrame id az el) (arrivedState s id az el)).map (·.frame) =
        [.arrive id az el] := by
  obtain ⟨hm, hheld⟩ := queueFrame_held (s := withMember s id s.seq.number (.arrived az el))
    (isArriveFrame_kind id az el) (f := .arrive id az el) (by simp [isArriveFrame]) hn ht
    (hs.of_eq rfl rfl rfl)
  refine ⟨hm, hheld.trans ?_⟩
  show (heldOf _ s).map _ ++ _ = _
  rw [hnone]
  rfl

/-! ### The end of a leg (R13) -/

theorem shed_report (s : State) (k : Nat) : (shed s k).report = s.report :=
  (shed_silent (.refl s) k).report

theorem commitMotion_report (s : State) (k : Nat) : (commitMotion s k).report = s.report :=
  (settlePower_silent (.refl _) s).report.trans (shed_report s _)

theorem closeLeg_quiet (s : State) :
    Quiet (s.withAxis { s.axis with leg := none }) (closeLeg s) :=
  shareLegEnd_quiet (.refl _)

theorem closeLeg_axis (s : State) : (closeLeg s).axis = { s.axis with leg := none } :=
  (closeLeg_quiet s).axis

theorem closeLeg_motion (s : State) : (closeLeg s).share.motion = 0 := shareLegEnd_motion _

theorem closeLeg_compact (s : State) : (closeLeg s).compact = s.compact :=
  (closeLeg_quiet s).compact

theorem closeLeg_report (s : State) : (closeLeg s).report = s.report := commitMotion_report _ 0

theorem closeLeg_elsewhere (s : State) : Elsewhere s (closeLeg s) :=
  (withAxis_elsewhere s _).trans (closeLeg_quiet s).recs.elsewhere

theorem enterGap_axis (s : State) : (enterGap s).axis =
    { s.axis with motion := .gap, gapRun := 0 } :=
  judgeBlocked_axis _

theorem enterGap_motion (s : State) : (enterGap s).share.motion = s.share.motion :=
  judgeBlocked_motion _

theorem enterGap_compact (s : State) : (enterGap s).compact = s.compact := judgeBlocked_compact _

theorem enterGap_elsewhere (s : State) : Elsewhere s (enterGap s) :=
  (withAxis_elsewhere s _).trans (judgeBlocked_recs (.refl _)).elsewhere

/-- The head entry's leg has ended, the gap not yet begun. -/
def legClosed (s : State) (e : MoveEntry) : State :=
  if lastFlown e then
    if e.origin == .joint then
      arrivalNotice ((closeLeg s).withAxis (popHead (closeLeg s).axis)) e.compactId s.axis.posAz
        s.axis.posEl
    else (closeLeg s).withAxis (popHead (closeLeg s).axis)
  else if e.origin == .joint && (closeLeg s).axis.withdrawPending then
    (closeLeg s).withAxis (dropJoint (closeLeg s).axis)
  else closeLeg s

theorem endMoveLeg_eq {e : MoveEntry} {rest : List MoveEntry} (hq : s.axis.queue = e :: rest) :
    endMoveLeg s = enterGap (legClosed s e) := by
  have hq' : (closeLeg s).axis.queue = e :: rest := by rw [closeLeg_axis]; exact hq
  unfold endMoveLeg legClosed
  dsimp only
  rw [hq']
  dsimp only
  split
  · rfl
  · split <;> rfl

/-- The withdrawal of the head entry is applied at its leg's end (R27). -/
def withdrawnAtEnd (s : State) (e : MoveEntry) : Bool :=
  !lastFlown e && e.origin == .joint && s.axis.withdrawPending

theorem legClosed_axis {e : MoveEntry} {rest : List MoveEntry} (hq : s.axis.queue = e :: rest) :
    (legClosed s e).axis = { s.axis with
      leg := none
      queue := if lastFlown e then rest
        else if withdrawnAtEnd s e then rest.filter fun x => x.origin != .joint else e :: rest
      jointHeld := s.axis.jointHeld && !lastFlown e && !withdrawnAtEnd s e
      withdrawPending := s.axis.withdrawPending && !lastFlown e && !withdrawnAtEnd s e } := by
  have hax := closeLeg_axis s
  unfold legClosed withdrawnAtEnd
  generalize closeLeg s = c at hax ⊢
  cases hl : lastFlown e
  · by_cases hw : e.origin = .joint ∧ s.axis.withdrawPending = true
    · simp [hw.1, hw.2, hax, hq, dropJoint]
    · have hw' : (e.origin == .joint && s.axis.withdrawPending) = false := by
        rw [← Bool.not_eq_true]
        simpa using hw
      simp [hax, hw', hq]
  · by_cases ho : e.origin = .joint
    · simp [ho, arrivalNotice_axis, hax, hq, popHead]
    · simp [ho, hax, hq, popHead]

theorem legClosed_motion (s : State) (e : MoveEntry) : (legClosed s e).share.motion = 0 := by
  have hm := closeLeg_motion s
  unfold legClosed
  split
  · split
    · exact (arrivalNotice_motion _ _ _ _).trans hm
    · exact hm
  · split <;> exact hm

theorem legClosed_elsewhere (s : State) (e : MoveEntry) : Elsewhere s (legClosed s e) := by
  have he := closeLeg_elsewhere s
  have ha := fun a => he.trans (withAxis_elsewhere (closeLeg s) a)
  unfold legClosed
  split
  · split
    · exact (ha _).trans (arrivalNotice_elsewhere _ _ _ _)
    · exact ha _
  · split
    · exact ha _
    · exact he

/-- The records change at the arrival alone. -/
theorem legClosed_compact {e : MoveEntry} (h : lastFlown e = false ∨ e.origin ≠ .joint) :
    (legClosed s e).compact = s.compact := by
  have hc := closeLeg_compact s
  unfold legClosed
  generalize closeLeg s = c at hc
  split
  · split
    · rename_i hl ho
      rcases h with h | h
      · rw [h] at hl
        cases hl
      · exact absurd (by simpa using ho) h
    · exact hc
  · split <;> exact hc

/-- The last leg of a JOINT entry: the arrival is noticed. -/
theorem legClosed_arrival {e : MoveEntry} (hl : lastFlown e = true) (ho : e.origin = .joint) :
    legClosed s e = arrivalNotice ((closeLeg s).withAxis (popHead (closeLeg s).axis)) e.compactId
      s.axis.posAz s.axis.posEl := by
  simp [legClosed, hl, ho]

/-- What the end of a leg of a move leaves besides the Compact Unit's records. -/
structure LegOver (s t : State) (e : MoveEntry) (rest : List MoveEntry) : Prop where
  axis : t.axis = { s.axis with
    leg := none, motion := .gap, gapRun := 0
    queue := if lastFlown e then rest
      else if withdrawnAtEnd s e then rest.filter fun x => x.origin != .joint else e :: rest
    jointHeld := s.axis.jointHeld && !lastFlown e && !withdrawnAtEnd s e
    withdrawPending := s.axis.withdrawPending && !lastFlown e && !withdrawnAtEnd s e }
  commit : t.share.motion = 0
  elsewhere : Elsewhere s t

theorem endMoveLeg_legOver {e : MoveEntry} {rest : List MoveEntry}
    (hq : s.axis.queue = e :: rest) : LegOver s (endMoveLeg s) e rest := by
  rw [endMoveLeg_eq hq]
  refine ⟨?_, (enterGap_motion _).trans (legClosed_motion s e),
    (legClosed_elsewhere s e).trans (enterGap_elsewhere _)⟩
  rw [enterGap_axis, legClosed_axis hq]

/-- The leg of a SOLO or REFERENCE entry, whose end withdraws nothing. -/
theorem endMoveLeg_other {e : MoveEntry} {rest : List MoveEntry} (hq : s.axis.queue = e :: rest)
    (ho : e.origin ≠ .joint) (hj : s.axis.jointHeld = false)
    (hw : s.axis.withdrawPending = false) :
    (endMoveLeg s).axis = { s.axis with
      leg := none, motion := .gap, gapRun := 0
      queue := if lastFlown e then rest else e :: rest } ∧
    (endMoveLeg s).share.motion = 0 ∧ (endMoveLeg s).compact = s.compact ∧
    Elsewhere s (endMoveLeg s) := by
  obtain ⟨hax, hm, he⟩ := endMoveLeg_legOver hq
  refine ⟨?_, hm, ?_, he⟩
  · rw [hax]
    simp [withdrawnAtEnd, hj, hw]
  · rw [endMoveLeg_eq hq, enterGap_compact, legClosed_compact (.inr ho)]

/-! ### The stow leg's end (R22, R23) -/

theorem endStow_axis (s : State) : (endStow s).axis = { s.axis with
    leg := none
    motion := if s.axis.stowMark then .stowed else .idle
    queue := s.axis.queue.filter fun e => e.origin != .stow
    releasedAz := false, releasedEl := false } := by
  refine (judgeBlocked_axis _).trans ?_
  rw [withAxis_axis, closeLeg_axis]
  rfl

theorem endStow_motion (s : State) : (endStow s).share.motion = 0 :=
  (judgeBlocked_motion _).trans (closeLeg_motion s)

theorem endStow_compact (s : State) : (endStow s).compact = s.compact := by
  have hc := closeLeg_compact s
  unfold endStow
  dsimp only
  generalize closeLeg s = c at hc ⊢
  exact (judgeBlocked_compact _).trans hc

theorem endStow_elsewhere (s : State) : Elsewhere s (endStow s) := by
  have he := closeLeg_elsewhere s
  unfold endStow
  dsimp only
  generalize closeLeg s = c at he ⊢
  refine Elsewhere.trans ?_ (judgeBlocked_elsewhere _)
  exact he.trans (withAxis_elsewhere c _)

/-- A flag set leaves the records of the others. -/
theorem setFlag_other {k n : Nat} (h : k ≠ n) (d x : Nat) :
    flagRecord (setFlag s n d x) k = flagRecord s k := by
  rw [flagRecord, (setFlag_silent s n d x).report]
  simp [flagRecord, recordFlag, List.getD_eq_getElem?_getD, Ne.symm h]

theorem judgeBlocked_other {k : Nat} (h : k ≠ flagStowBlocked) :
    flagRecord (judgeBlocked s) k = flagRecord s k := by
  unfold judgeBlocked
  split
  · split
    · rfl
    · exact setFlag_other h _ _
  · split <;> rfl

theorem enterGap_other {k : Nat} (h : k ≠ flagStowBlocked) :
    flagRecord (enterGap s) k = flagRecord s k := judgeBlocked_other h

theorem endStow_flagRecord {k : Nat} (h : k ≠ flagStowBlocked) :
    flagRecord (endStow s) k = flagRecord s k := by
  refine (judgeBlocked_other h).trans ?_
  rw [flagRecord, withAxis_report, closeLeg_report]
  rfl

/-! ### Settlements -/

theorem within_iff (t : Nat) (a b : Int) : within t a b = true ↔ (a - b).natAbs ≤ t := by
  simp [within]

/-- Settles O31: the mark ends the leg as any leg of a move ends; the descent is a change of the leg
record. -/
theorem searchesEndAtTheIndexMark : Obligations.SearchesEndAtTheIndexMark := by
  intro s l hleg
  refine ⟨fun a e rest hk hq ho hl hj hw => ?_, fun hk => ?_⟩
  · refine ⟨_, rfl, ?_⟩
    have hseen : indexSeen s a = endMoveLeg (s.withAxis { s.axis with
        posAz := if a = .az then (cfg s).azIndex else s.axis.posAz
        posEl := if a = .el then (cfg s).elIndex else s.axis.posEl
        refAz := s.axis.refAz || decide (a = .az)
        refEl := s.axis.refEl || decide (a = .el)
        pairFaulted := s.axis.pairFaulted && decide (a = .az) }) := by
      unfold indexSeen
      rw [hleg]
      cases a <;> simp [hk]
    obtain ⟨hax, hm, hc, he⟩ := endMoveLeg_other (s := s.withAxis { s.axis with
        posAz := if a = .az then (cfg s).azIndex else s.axis.posAz
        posEl := if a = .el then (cfg s).elIndex else s.axis.posEl
        refAz := s.axis.refAz || decide (a = .az)
        refEl := s.axis.refEl || decide (a = .el)
        pairFaulted := s.axis.pairFaulted && decide (a = .az) }) (e := e) (rest := rest) hq
      (by simp [ho]) hj hw
    rw [hseen]
    refine ⟨?_, hm, hc, (withAxis_elsewhere s _).trans he⟩
    rw [hax, hl]
    rfl
  · have hover : descentOver (s.withPins { s.pins with elUpper := false }) =
        (s.withPins { s.pins with elUpper := false }).withAxis
          { s.axis with leg := some { l with kind := .search .el } } := by
      simp [descentOver, hleg, hk]
    refine ⟨congrArg Host.Outcome.next ?_, congrArg Host.Outcome.next ?_⟩
    · show descentEnd s = _
      simp only [descentEnd, hleg, hk, beq_self_eq_true, if_true, hover]
    · show limitReleased s .el .upper = descentEnd s
      simp only [descentEnd, hleg, hk, beq_self_eq_true, if_true]
      rfl

/-- The state in which a JOINT entry's arrival is noticed. -/
def arrivalPoint (s : State) : State := (closeLeg s).withAxis (popHead (closeLeg s).axis)

/-- What a JOINT entry's arrival finds: the records, the clock and the flags as they were, and the
power account's frames at most in an empty queue. -/
structure AtArrival (s u : State) : Prop where
  compact : u.compact = s.compact
  seq : u.seq = s.seq
  time : u.time = s.time
  report : u.report = s.report
  modest : ∀ p, CoordKind p → s.line.queue = [] → Modest 0 u ∧ heldOf p u = []

theorem arrivalPoint_at (s : State) : AtArrival s (arrivalPoint s) := by
  have hcompact := closeLeg_compact s
  have hquiet := closeLeg_quiet s
  have hreport := closeLeg_report s
  have hfrugal : ∀ p, CoordKind p → Frugal p 0 s (closeLeg s) := fun p hp =>
    (shareLegEnd_frugal hp).before rfl rfl rfl
  unfold arrivalPoint
  generalize closeLeg s = c at hcompact hquiet hreport hfrugal ⊢
  refine ⟨hcompact, hquiet.seq, hquiet.time, hreport, fun p hp hq => ?_⟩
  obtain ⟨hm, hheld⟩ := hfrugal p hp 0 (by decide) (.nil hq)
  refine ⟨hm.of_eq rfl rfl rfl, ?_⟩
  show heldOf p c = []
  rw [hheld, heldOf, hq]
  rfl

/-- The reading of the encoders before the leg's end. -/
theorem AtArrival.ofRead {u : State} {p : Encoders} (h : AtArrival (readEncoders s p) u) :
    AtArrival s u := ⟨h.compact, h.seq, h.time, h.report, h.modest⟩

/-- The record of a member's arrival, COMPLETE where no member is still under way (R107). -/
def arrivedRecord (s : State) (r : CompactRecord) (az el : Int) : CompactRecord :=
  if (setMember r s.seq.number (.arrived az el)).members.all
      fun m => isLeft m.state || isArrived m.state then
    { setMember r s.seq.number (.arrived az el) with
      state := .complete, terminalAt := some (now s), terminalRun := 0 }
  else setMember r s.seq.number (.arrived az el)

variable {u : State} {id : Nat} {r : CompactRecord} {az el : Int}

/-- An arrival in flight, `u` being the state it is noticed in. -/
theorem arrival_flying (h : AtArrival s u) (hr : findRecord s id = some r)
    (hf : isFlying r = true) (ha : memberState r s.seq.number = some .accepted) :
    findRecord (enterGap (arrivalNotice u id az el)) id = some (arrivedRecord s r az el) ∧
    ∀ k, k ≠ id → findRecord (enterGap (arrivalNotice u id az el)) k = findRecord s k := by
  have hru : findRecord u id = some r := (findRecord_congr h.compact id).trans hr
  have hau : memberState r u.seq.number = some .accepted := by rw [h.seq]; exact ha
  have hnot := arrivalNotice_flying hru hf hau az el
  have hset := findRecord_arrivedState hru az el
  refine ⟨?_, fun k hk => ?_⟩
  · rw [findRecord_congr (enterGap_compact _), hnot, findRecord_completionTest hset,
      all_isLeft_setMember_arrived hau, isFlying_setMember, hf, arrivedRecord, h.seq]
    have hnow : now (arrivedState u id az el) = now s := by
      unfold now
      rw [(arrivedState_silent u id az el).time]
      exact congrArg (fun x : TimeUnit => (⟨x.sec, x.ms⟩ : ATime)) h.time
    simp [ended, hnow]
  · rw [findRecord_congr (enterGap_compact _), hnot, findRecord_completionTest_ne _ hk,
      findRecord_arrivedState_ne hk, findRecord_congr h.compact]

/-- An arrival after the deadline (R107). -/
theorem arrival_late (h : AtArrival s u) (hr : findRecord s id = some r)
    (hl : r.state = .timedOut) (hflags : s.report.flags.length = 16) :
    findRecord (enterGap (arrivalNotice u id az el)) id =
      some (setMember r s.seq.number (.arrived az el)) ∧
    (∀ k, k ≠ id → findRecord (enterGap (arrivalNotice u id az el)) k = findRecord s k) ∧
    flagRecord (enterGap (arrivalNotice u id az el)) flagCompactLate =
      ⟨true, s.seq.number, id, now s⟩ := by
  have hru : findRecord u id = some r := (findRecord_congr h.compact id).trans hr
  have hnot := arrivalNotice_late hru hl az el
  have hsil := arrivedState_silent u id az el
  have hcompact := (setFlag_quiet (.refl (arrivedState u id az el)) flagCompactLate u.seq.number
    id).compact
  have hreport : (arrivedState u id az el).report = s.report := hsil.report.trans h.report
  have hset := setFlag_records (s := arrivedState u id az el) (n := flagCompactLate)
    (by rw [hreport]; exact hflags) (by decide) u.seq.number id
  refine ⟨?_, fun k hk => ?_, ?_⟩
  · rw [findRecord_congr (enterGap_compact _), hnot, findRecord_congr hcompact,
      findRecord_arrivedState hru az el, h.seq]
  · rw [findRecord_congr (enterGap_compact _), hnot, findRecord_congr hcompact,
      findRecord_arrivedState_ne hk, findRecord_congr h.compact]
  · have hnow : now (arrivedState u id az el) = now s := by
      unfold now
      rw [hsil.time]
      exact congrArg (fun x : TimeUnit => (⟨x.sec, x.ms⟩ : ATime)) h.time
    rw [enterGap_other (by decide), hnot, hset.1, hnow, h.seq]

/-- An arrival sends its ARRIVE once. -/
theorem arrival_sent (h : AtArrival s u) (hr : findRecord s id = some r)
    (hs : isFlying r = true ∧ memberState r s.seq.number = some .accepted ∨ r.state = .timedOut)
    (ht : transmits s = true) (hq : s.line.queue = []) :
    ((enterGap (arrivalNotice u id az el)).line.queue.map (·.frame)).count (.arrive id az el) =
      1 := by
  have hp := isArriveFrame_kind id az el
  have hru : findRecord u id = some r := (findRecord_congr h.compact id).trans hr
  obtain ⟨hm, hnone⟩ := h.modest _ hp hq
  obtain ⟨hm1, hheld1⟩ := arrivedState_held (n := 0) (by decide) ((transmits_congr h.seq).trans ht)
    hm hnone
  have hafter : Frugal (isArriveFrame id az el) 2 (arrivedState u id az el)
      (arrivalNotice u id az el) := by
    rcases hs with ⟨hf, ha⟩ | hl
    · rw [arrivalNotice_flying hru hf (by rw [h.seq]; exact ha)]
      exact completionTest_frugal hp id
    · rw [arrivalNotice_late hru hl]
      exact (setFlag_frugal hp _ _ _).mono (by decide)
  have hgap : Frugal (isArriveFrame id az el) 1 (arrivalNotice u id az el)
      (enterGap (arrivalNotice u id az el)) := (judgeBlocked_frugal hp).before rfl rfl rfl
  obtain ⟨-, hheld⟩ := (hafter.trans hgap) 1 (by decide) hm1
  have hone := congrArg List.length ((congrArg (List.map (·.frame)) hheld).trans hheld1)
  rw [count_frame]
  simpa [heldOf, isArriveFrame] using hone

/-- Where no arrival is noticed no ARRIVE is sent. -/
theorem arrival_unsent (h : AtArrival s u) (hr : findRecord s id = some r)
    (hs : r.state = .abandoned ∨ r.state = .cancelled) :
    (enterGap (arrivalNotice u id az el)).compact = s.compact ∧
    (s.line.queue = [] → ((enterGap (arrivalNotice u id az el)).line.queue.map (·.frame)).count
      (.arrive id az el) = 0) := by
  have hp := isArriveFrame_kind id az el
  have hru : findRecord u id = some r := (findRecord_congr h.compact id).trans hr
  have hnot : arrivalNotice u id az el = u := by
    refine arrivalNotice_other hru ?_ ?_ az el <;> rcases hs with hs | hs <;> simp [isFlying, hs]
  rw [hnot]
  refine ⟨(enterGap_compact _).trans h.compact, fun hq => ?_⟩
  obtain ⟨hm, hnone⟩ := h.modest _ hp hq
  have hgap : Frugal (isArriveFrame id az el) 1 u (enterGap u) :=
    (judgeBlocked_frugal hp).before rfl rfl rfl
  obtain ⟨-, hheld⟩ := hgap 0 (by decide) hm
  have hone := congrArg List.length (hheld.trans hnone)
  rw [count_frame]
  simpa [heldOf, isArriveFrame] using hone

/-- The end of a normal leg at its targets. -/
theorem exec_legEnd_normal {l : Leg} {p : Encoders} (hleg : s.axis.leg = some l)
    (hk : l.kind = .normal) (hz : (p.az - l.targetAz).natAbs ≤ (cfg s).tolerance)
    (he : (p.el - l.targetEl).natAbs ≤ (cfg s).tolerance) :
    exec (.legEnd p) s = .next (endMoveLeg (readEncoders s p)) := by
  refine congrArg Host.Outcome.next ?_
  show legEnded s p = _
  simp [legEnded, hleg, atTargets, within, hz, he, hk]

theorem readEncoders_elsewhere (s : State) (p : Encoders) : Elsewhere s (readEncoders s p) :=
  withAxis_elsewhere s _

/-- Settles O30: the leg's end by its kind and its entry, an arrival by the record's state. -/
theorem legsEnd : Obligations.LegsEnd := by
  refine ⟨fun s p l hleg => ⟨fun hoff => ?_, fun hz he => ⟨?_, ?_, ?_⟩⟩, ?_⟩
  · refine congrArg Host.Outcome.next ?_
    show legEnded s p = s
    have hnot : atTargets s l p = false := by
      rcases hoff with h | h <;> simp [atTargets, within, Nat.not_le.2 h]
    simp [legEnded, hleg, hnot]
  · intro hk e rest hq ho hj hw
    obtain ⟨hax, hm, hc, hel⟩ := endMoveLeg_other (s := readEncoders s p) (e := e) (rest := rest) hq
      (by rw [ho]; exact nofun) hj hw
    exact ⟨_, exec_legEnd_normal hleg hk hz he, hax, hm, hc,
      (readEncoders_elsewhere s p).trans hel⟩
  · intro hk e rest id own hq ho hid hown
    subst hid hown
    obtain ⟨hax, hm, hel⟩ := endMoveLeg_legOver (s := readEncoders s p) (e := e) (rest := rest) hq
    refine ⟨_, exec_legEnd_normal hleg hk hz he, ?_, hm, (readEncoders_elsewhere s p).trans hel,
      fun hl => ?_, fun hnone => ?_, fun r hl hr => ?_⟩
    · rw [hax]
      cases hl : lastFlown e <;> cases hw : s.axis.withdrawPending <;>
        simp [withdrawnAtEnd, readEncoders, hl, ho, hw]
    · rw [endMoveLeg_eq (s := readEncoders s p) (rest := rest) hq, enterGap_compact,
        legClosed_compact (.inl hl)]
      rfl
    · rw [endMoveLeg_eq (s := readEncoders s p) (rest := rest) hq, enterGap_compact]
      cases hl : lastFlown e with
      | false => exact legClosed_compact (.inl hl)
      | true =>
        have hat := (arrivalPoint_at (readEncoders s p)).ofRead
        have hstay := arrivalNotice_none ((findRecord_congr hat.compact _).trans hnone) p.az p.el
        rw [legClosed_arrival hl ho]
        exact (congrArg State.compact hstay).trans hat.compact
    · have hat := (arrivalPoint_at (readEncoders s p)).ofRead
      have hend : endMoveLeg (readEncoders s p) = enterGap (arrivalNotice
          (arrivalPoint (readEncoders s p)) e.compactId p.az p.el) := by
        rw [endMoveLeg_eq (s := readEncoders s p) (rest := rest) hq, legClosed_arrival hl ho]
        rfl
      rw [hend]
      exact ⟨fun hf ha => arrival_flying hat hr hf ha, fun hs hflags =>
        arrival_late hat hr hs hflags,
        fun hs ht hqe => arrival_sent hat hr hs ht hqe, fun hs => arrival_unsent hat hr hs⟩
  · intro hk
    refine ⟨endStow (readEncoders s p), congrArg Host.Outcome.next ?_, endStow_axis _,
      endStow_motion _, endStow_compact _,
      (readEncoders_elsewhere s p).trans (endStow_elsewhere _)⟩
    show legEnded s p = _
    simp [legEnded, hleg, atTargets, within, hz, he, hk]
  · intro s p hheld huns hup hlow
    have hsearch : searching s = none := by
      unfold unreferencedStow at huns
      unfold searching
      split
      · rename_i l hl
        rw [hl] at huns
        rw [show l.kind = .stowUnreferenced by simpa using huns]
      · rfl
    have hread : limitEvent s .el .upper p =
        endStow (readEncoders (s.withPins { s.pins with elUpper := true }) p) := by
      have hs' : searching (readEncoders (s.withPins { s.pins with elUpper := true }) p) = none :=
        hsearch
      have hu' : unreferencedStow (readEncoders (s.withPins { s.pins with elUpper := true }) p) =
          true := huns
      have hpair : markPair (readEncoders (s.withPins { s.pins with elUpper := true }) p) =
          readEncoders (s.withPins { s.pins with elUpper := true }) p := by
        simp [markPair, readEncoders, hlow]
      have hno : pairActive (readEncoders (s.withPins { s.pins with elUpper := true }) p).pins
          .el = false := by
        simp [pairActive, readEncoders, hlow]
      simp only [limitEvent, limitPin, hup, Bool.false_eq_true, if_false, running, hheld,
        Bool.not_false, if_true, limitActive, setLimitPin, hpair, hs', hno, hu']
      rfl
    have hel := endStow_elsewhere (readEncoders (s.withPins { s.pins with elUpper := true }) p)
    refine ⟨_, congrArg Host.Outcome.next hread, hel.pins, endStow_axis _,
      endStow_flagRecord (by decide), endStow_motion _, hel.lock, hel.time, endStow_compact _,
      hel.sensor⟩

end Sys2Proof.Machine
end

section
/-! PROOFS. The faults of the axes (R16 to R20): the entry into HALTED with its flag, and the
compact that the flush of its JOINT entry has the station leave (R18, R111). -/

namespace Sys2Proof.Machine

variable {s : State} {p : Encoders} {n : Nat}

/-! ### HALTED and its flag (R18) -/

/-- The state in which a fault of the axes is taken: the pins as they now stand, the encoders read,
the elevation pair perhaps marked. -/
def faultPoint (s : State) (P : Pins) (p : Encoders) (b : Bool) : State :=
  (s.withPins P).withAxis { s.axis with posAz := p.az, posEl := p.el, pairFaulted := b }

theorem haltCommit_quiet (s : State) : Quiet ((s.withAxis { s.axis with
    leg := none, stop := none, motion := .halted, releasedAz := false, releasedEl := false }
    ).withReport { s.report with haltedFlags := [] }) (haltCommit s) :=
  shareLegEnd_quiet (.refl _)

theorem haltCommit_frugal {k : Frame → Bool} (hk : CoordKind k) : Frugal k 0 s (haltCommit s) :=
  (shareLegEnd_frugal hk).before rfl rfl rfl

/-- A READY station in flight of its one compact brings these to the flush of HALTED. -/
theorem FliesAlone.mayLeave_halt {r : CompactRecord} (h : FliesAlone s r) :
    MayLeave 0 ((haltCommit s).withAxis (flushed (haltCommit s).axis)) r reasonFault := by
  obtain ⟨hready, hheld, hq, hflags, hlist, hfly, hacc⟩ := h
  have hk := isLeaveFrame_kind r.id reasonFault
  have hquiet := haltCommit_quiet s
  obtain ⟨hm, hnone⟩ := haltCommit_frugal (s := s) hk 0 (by decide) (.nil hq)
  generalize haltCommit s = v at hquiet hm hnone ⊢
  refine ⟨(congrArg CompactUnit.list hquiet.compact).trans hlist, hfly, ?_, ?_,
    hquiet.flags.trans hflags, hm.of_eq rfl rfl rfl, ?_⟩
  · show memberState r v.seq.number = _
    rw [hquiet.seq]
    exact hacc
  · show transmits v = true
    rw [transmits_congr hquiet.seq]
    show transmits s = true
    simp [transmits, isReady, hready, hheld]
  · show heldOf _ v = []
    rw [hnone, heldOf, hq]
    rfl

/-- The compact whose JOINT entry the flush removes is left with reason FAULT (R18, R111). -/
theorem enterHalted_hasLeft {r : CompactRecord} (h : FliesAlone s r)
    (hm : s.axis.motion ≠ .halted) {e : MoveEntry} {rest : List MoveEntry}
    (hq : s.axis.queue = e :: rest) (ho : e.origin = .joint) (hid : e.compactId = r.id) :
    HasLeft 6 (enterHalted s) s.seq.number r reasonFault := by
  have hmay := h.mayLeave_halt
  have hquiet := haltCommit_quiet s
  have hseq : (haltCommit s).seq = s.seq := hquiet.seq
  have hqueue : (haltCommit s).axis.queue = e :: rest := by rw [hquiet.axis]; exact hq
  have hgone : (haltCommit s).axis.queue.filter (fun x => x.origin != .stow) =
      e :: rest.filter fun x => x.origin != .stow := by
    rw [hqueue]
    simp [ho]
  have hclash : isClash ((haltCommit s).withAxis (flushed (haltCommit s).axis)) = false := by
    simp [isClash, hseq, h.1]
  rw [enterHalted_enters hm, flush_eq, hgone, hmay.noticeRemoved_eq (by decide) ho hid hclash]
  have hleft := ownLeave_hasLeft hmay (by decide)
  rw [withAxis_seq, hseq] at hleft
  exact hleft.after (judgeBlocked_compact _) (judgeBlocked_flagsStay _)
    (judgeBlocked_frugal (isLeaveFrame_kind _ _)) (by decide)

/-- A fault of the axes, taken in any state but HALTED. -/
theorem haltWith_haltedBy (hm : s.axis.motion ≠ .halted) (hf : s.report.flags.length = 16)
    {flag : Nat} (hflag : flag < 16) (P : Pins) (b : Bool) (detail : Nat) :
    HaltedBy s (haltWith (faultPoint s P p b) flag detail) p flag detail := by
  have hmv : (faultPoint s P p b).axis.motion ≠ .halted := hm
  have hkeeps : Keeps (faultPoint s P p b) (enterHalted (faultPoint s P p b)) :=
    enterHalted_keeps (.refl _)
  have hax := enterHalted_axis hmv
  have hcommit := enterHalted_motionCommit hmv
  have hquiet := setFlag_quiet (.refl (enterHalted (faultPoint s P p b))) flag detail 0
  have haxis : (haltWith (faultPoint s P p b) flag detail).axis =
      haltedAxis (faultPoint s P p b).axis := hquiet.axis.trans hax
  have hnow : now (enterHalted (faultPoint s P p b)) = now s := by
    unfold now
    rw [hkeeps.time]
    rfl
  have hset := setFlag_records (s := enterHalted (faultPoint s P p b))
    (hkeeps.flags.trans hf) hflag detail 0
  refine ⟨?_, ?_, ?_, hquiet.seq.trans hkeeps.seq, hquiet.time.trans hkeeps.time,
    hquiet.peers.trans hkeeps.peers, hquiet.lock.trans hkeeps.lock,
    hquiet.keepOut.trans hkeeps.keepOut, hquiet.sensor.trans hkeeps.sensor,
    (congrArg WindUnit.cells hquiet.wind).trans hkeeps.cells, ?_,
    amplifiersEnabled_of_halted (congrArg AxisUnit.motion haxis),
    brakeEngaged_all (congrArg AxisUnit.releasedAz haxis) (congrArg AxisUnit.releasedEl haxis)⟩
  · rw [haxis]
    rfl
  · exact (setFlag_worked _ flag detail 0).motion.trans hcommit
  · rw [← hnow]
    exact hset.1
  · intro r e rest hfly hq ho hid
    have hflyv : FliesAlone (faultPoint s P p b) r := hfly
    have hleft := enterHalted_hasLeft hflyv hmv (e := e) (rest := rest) hq ho hid
    exact HasLeft.leftBy (s := s) (hleft.after (m := 1) hquiet.compact
      (setFlag_flagsStay _ hflag _ _)
      (setFlag_frugal (isLeaveFrame_kind _ _) _ _ _) (by decide))

/-! ### The inputs (R17, R18, R20) -/

/-- The flag and the detail of a limit input (R17, R20, R23). -/
def limitFault (s : State) (P : Pins) (a : Axis) (side : LimitEnd) : Nat × Nat :=
  match searching s with
  | some x => (flagEncoderFault, searchDetail x)
  | none => if pairActive P a then (flagAxisLimit, 4 + axisDetail a)
    else (flagAxisLimit, limitDetail a side)

theorem limitFault_search {x : Axis} (h : searching s = some x) (P : Pins) (a : Axis)
    (side : LimitEnd) : limitFault s P a side = (flagEncoderFault, searchDetail x) := by
  rw [limitFault, h]

theorem limitFault_pair (h : searching s = none) {P : Pins} {a : Axis} (hp : pairActive P a = true)
    (side : LimitEnd) : limitFault s P a side = (flagAxisLimit, 4 + axisDetail a) := by
  rw [limitFault, h]
  exact if_pos hp

theorem limitFault_one (h : searching s = none) {P : Pins} {a : Axis} (hp : pairActive P a = false)
    (side : LimitEnd) : limitFault s P a side = (flagAxisLimit, limitDetail a side) := by
  rw [limitFault, h]
  exact if_neg (by simp [hp])

/-- The pair's mark, as the pins stand. -/
theorem markPair_read (s : State) (P : Pins) (p : Encoders) :
    markPair (readEncoders (s.withPins P) p) =
      faultPoint s P p (s.axis.pairFaulted || (P.elLower && P.elUpper)) := by
  unfold markPair
  by_cases h : (P.elLower && P.elUpper) = true
  · rw [h, Bool.or_true]
    exact if_pos h
  · rw [Bool.not_eq_true] at h
    rw [h, Bool.or_false]
    exact if_neg (by rw [show ((readEncoders (s.withPins P) p).pins.elLower &&
      (readEncoders (s.withPins P) p).pins.elUpper) = false from h]; exact Bool.false_ne_true)

/-- A limit input that becomes active, unless it ends the unreferenced stow leg (R17, R20, R23). -/
theorem limitEvent_halts {a : Axis} {side : LimitEnd} (hp : limitPin s.pins a side = false)
    (hh : s.seq.held = false) (hu : unreferencedStow s = false ∨ a = .az ∨ side = .lower ∨
      s.pins.elLower = true) :
    limitEvent s a side p = haltWith (faultPoint s (setLimitPin s.pins a side true) p
      (s.axis.pairFaulted || ((setLimitPin s.pins a side true).elLower &&
        (setLimitPin s.pins a side true).elUpper)))
      (limitFault s (setLimitPin s.pins a side true) a side).1
      (limitFault s (setLimitPin s.pins a side true) a side).2 := by
  have hact : limitEvent s a side p =
      limitActive (readEncoders (s.withPins (setLimitPin s.pins a side true)) p) a side := by
    simp [limitEvent, hp, running, hh]
  rw [hact, limitActive, markPair_read]
  have hs : ∀ P b, searching (faultPoint s P p b) = searching s := fun _ _ => rfl
  have hst : ∀ P b, unreferencedStow (faultPoint s P p b) = unreferencedStow s := fun _ _ => rfl
  have hpins : ∀ P b, (faultPoint s P p b).pins = P := fun _ _ => rfl
  rw [hs, hst, hpins]
  cases hsearch : searching s with
  | some x => rw [limitFault_search hsearch]
  | none =>
    dsimp only
    cases hpair : pairActive (setLimitPin s.pins a side true) a with
    | true => rw [limitFault_pair hsearch hpair, if_pos rfl]
    | false =>
      have hno : (unreferencedStow s && a == .el && side == .upper) = false := by
        rcases hu with hu | hu | hu | hu
        · simp [hu]
        · simp [hu]
        · simp [hu]
        · cases a <;> cases side <;> simp [pairActive, setLimitPin, hu] at hpair ⊢
      rw [limitFault_one hsearch hpair, if_neg Bool.false_ne_true, hno,
        if_neg Bool.false_ne_true]

theorem readEncoders_fault (s : State) (P : Pins) (p : Encoders) :
    readEncoders (s.withPins P) p = faultPoint s P p s.axis.pairFaulted := rfl

theorem ampFaultEvent_halts {a : Axis} (hp : faultPin s.pins a = false) (hh : s.seq.held = false) :
    ampFaultEvent s a p = haltWith (faultPoint s (setFaultPin s.pins a true) p s.axis.pairFaulted)
      flagDriveFault (axisDetail a) := by
  rw [← readEncoders_fault]
  simp [ampFaultEvent, hp, running, hh]

theorem encoderLossEvent_halts {a : Axis} (hp : validPin s.pins a = true)
    (hh : s.seq.held = false) : encoderLossEvent s a p =
      haltWith (faultPoint s (setValidPin s.pins a false) p s.axis.pairFaulted)
        flagEncoderFault (axisDetail a) := by
  rw [← readEncoders_fault]
  simp [encoderLossEvent, hp, running, hh]

theorem axisDetail_eq (a : Axis) : axisDetail a = if a = .az then 1 else 2 := by
  cases a <;> rfl

theorem searchDetail_eq (a : Axis) : searchDetail a = if a = .az then 3 else 4 := by
  cases a <;> rfl

theorem pairDetail_eq (a : Axis) : 4 + axisDetail a = if a = .az then 5 else 6 := by
  cases a <;> rfl

/-- The pins in which a fault was taken stand. -/
theorem haltWith_pins (s : State) (P : Pins) (b : Bool) (flag detail : Nat) :
    (haltWith (faultPoint s P p b) flag detail).pins = P :=
  (setFlag_quiet (.refl _) _ _ _).pins.trans (enterHalted_keeps (.refl (faultPoint s P p b))).pins

/-- The pair's mark stands through the entry into HALTED. -/
theorem haltWith_pair (s : State) (P : Pins) (b : Bool) (flag detail : Nat) :
    (haltWith (faultPoint s P p b) flag detail).axis.pairFaulted = b :=
  (congrArg AxisUnit.pairFaulted (setFlag_quiet (.refl (enterHalted (faultPoint s P p b))) flag
    detail 0).axis).trans (enterHalted_pair _)

/-- In HALTED a further fault sets its flag and nothing else moves (R18). -/
theorem haltWith_halted (hm : s.axis.motion = .halted) (hf : s.report.flags.length = 16)
    {flag : Nat} (hflag : flag < 16) (P : Pins) (b : Bool) (detail : Nat) :
    ∃ t, haltWith (faultPoint s P p b) flag detail = t ∧
      t.axis = { s.axis with posAz := p.az, posEl := p.el, pairFaulted := t.axis.pairFaulted } ∧
      flagRecord t flag = ⟨true, detail, 0, now s⟩ ∧
      (∀ k, k ≠ flag → flagRecord t k = flagRecord s k) ∧
      t.compact = s.compact ∧ t.seq = s.seq ∧ t.time = s.time ∧ t.lock = s.lock ∧
      t.sensor = s.sensor ∧ t.keepOut = s.keepOut := by
  have hstay : haltWith (faultPoint s P p b) flag detail =
      setFlag (faultPoint s P p b) flag detail 0 := by
    rw [haltWith, enterHalted_stays (s := faultPoint s P p b) hm]
  have hq := setFlag_quiet (.refl (faultPoint s P p b)) flag detail 0
  have hset := setFlag_records (s := faultPoint s P p b) hf hflag detail 0
  refine ⟨_, hstay, ?_, hset.1, fun k hk => hset.2 k hk, hq.compact, hq.seq, hq.time, hq.lock,
    hq.sensor, hq.keepOut⟩
  rw [hq.axis]
  rfl

/-- Settles O33: every fault is `haltWith` at its `faultPoint`. -/
theorem axisFaultsHaltTheDish : Obligations.AxisFaultsHaltTheDish := by
  refine ⟨fun s p a i flag detail hh hf hm hleg hi => ?_, fun s p a hh hf hm =>
    ⟨fun side hp => ?_, fun side hp hu => ?_, fun hp => ?_, fun hp => ?_, fun l hleg => ⟨?_, ?_⟩⟩⟩
  · have hsearch : searching s = none := by simp [searching, hleg]
    have huns : unreferencedStow s = false := by simp [unreferencedStow, hleg]
    have hhalted := fun (f : Nat) (h : f < 16) P b d => haltWith_halted (p := p) hm hf h P b d
    rcases hi with ⟨side, rfl, hp, rfl, rfl⟩ | ⟨rfl, hp, rfl, rfl⟩ | ⟨rfl, hp, rfl, rfl⟩
    · have hev := limitEvent_halts (p := p) hp hh (.inl huns)
      have hfault : limitFault s (setLimitPin s.pins a side true) a side = (flagAxisLimit,
          if pairActive (setLimitPin s.pins a side true) a then (if a = .az then 5 else 6)
          else limitDetail a side) := by
        cases hpair : pairActive (setLimitPin s.pins a side true) a
        · exact limitFault_one hsearch hpair side
        · rw [limitFault_pair hsearch hpair, pairDetail_eq]
          rfl
      rw [hfault] at hev
      obtain ⟨t, ht, h⟩ := hhalted flagAxisLimit (by decide) _ _ _
      exact ⟨t, congrArg Host.Outcome.next (hev.trans ht), h⟩
    · obtain ⟨t, ht, h⟩ := hhalted flagDriveFault (by decide) _ _ _
      rw [← axisDetail_eq]
      exact ⟨t, congrArg Host.Outcome.next ((ampFaultEvent_halts hp hh).trans ht), h⟩
    · obtain ⟨t, ht, h⟩ := hhalted flagEncoderFault (by decide) _ _ _
      rw [← axisDetail_eq]
      exact ⟨t, congrArg Host.Outcome.next ((encoderLossEvent_halts hp hh).trans ht), h⟩
  · exact congrArg Host.Outcome.next (if_pos hp)
  · have hev := limitEvent_halts (p := p) hp hh hu
    have hby := fun f (h : f < 16) d => haltWith_haltedBy (p := p) hm hf h
      (setLimitPin s.pins a side true) (s.axis.pairFaulted ||
        ((setLimitPin s.pins a side true).elLower && (setLimitPin s.pins a side true).elUpper)) d
    have hpins := fun f d => haltWith_pins (p := p) s (setLimitPin s.pins a side true)
      (s.axis.pairFaulted || ((setLimitPin s.pins a side true).elLower &&
        (setLimitPin s.pins a side true).elUpper)) f d
    refine ⟨_, congrArg Host.Outcome.next hev, hpins _ _, fun hs hpair => ?_, fun hs hpair => ?_,
      fun x hs => ?_⟩
    · rw [hpins] at hpair
      rw [limitFault_one hs hpair]
      exact hby flagAxisLimit (by decide) _
    · rw [hpins] at hpair
      rw [limitFault_pair hs hpair, pairDetail_eq]
      refine ⟨hby flagAxisLimit (by decide) _, fun ha => ?_⟩
      have hboth : ((setLimitPin s.pins a side true).elLower &&
          (setLimitPin s.pins a side true).elUpper) = true := by
        rw [ha] at hpair ⊢
        exact hpair
      rw [haltWith_pair, hboth, Bool.or_true]
    · rw [limitFault_search hs, searchDetail_eq]
      exact hby flagEncoderFault (by decide) _
  · refine ⟨_, congrArg Host.Outcome.next (ampFaultEvent_halts (p := p) hp hh),
      haltWith_pins _ _ _ _ _, ?_⟩
    rw [axisDetail_eq]
    exact haltWith_haltedBy hm hf (by decide) _ _ _
  · refine ⟨_, congrArg Host.Outcome.next (encoderLossEvent_halts (p := p) hp hh),
      haltWith_pins _ _ _ _ _, ?_⟩
    rw [axisDetail_eq]
    exact haltWith_haltedBy hm hf (by decide) _ _ _
  · intro hk hd
    have hev : travelLimit s p =
        haltWith (faultPoint s s.pins p s.axis.pairFaulted) flagEncoderFault 3 := by
      rw [← readEncoders_fault]
      simp only [travelLimit, hleg, hk, beq_self_eq_true, hd, decide_true, Bool.and_self, if_true]
      rfl
    exact ⟨_, congrArg Host.Outcome.next hev, haltWith_pins _ _ _ _ _,
      haltWith_haltedBy hm hf (by decide) _ _ _⟩
  · intro hk hup hd
    have hev : descentLimit s p =
        haltWith (faultPoint s s.pins p s.axis.pairFaulted) flagEncoderFault 4 := by
      rw [← readEncoders_fault]
      simp only [descentLimit, hleg, hk, hup, beq_self_eq_true, hd, decide_true, Bool.and_self,
        if_true]
      rfl
    exact ⟨_, congrArg Host.Outcome.next hev, haltWith_pins _ _ _ _ _,
      haltWith_haltedBy hm hf (by decide) _ _ _⟩

end Sys2Proof.Machine
end

section
/-! PROOFS. Stops and stalls, the inputs that go inactive, and the amplifier warning (R15 to R17,
R19, R21, R22, R28, R102). -/

namespace Sys2Proof.Machine

variable {s : State} {p : Encoders}

/-! ### The end of a controlled stop (R15) -/

/-- The dish at the end of a controlled stop, the stow judged. -/
def stopOver (s : State) (p : Encoders) : State := judgeBlocked (endStop (readEncoders s p))

/-- The engine at the end of a controlled stop. -/
def restAxis (a : AxisUnit) (p : Encoders) : AxisUnit :=
  { a with
    posAz := p.az, posEl := p.el, stop := none, motion := .idle
    releasedAz := false, releasedEl := false }

theorem endStop_quiet (s : State) : Quiet (s.withAxis { s.axis with
    stop := none, motion := .idle, releasedAz := false, releasedEl := false }) (endStop s) :=
  shareLegEnd_quiet (.refl _)

theorem stopOver_axis (s : State) (p : Encoders) : (stopOver s p).axis = restAxis s.axis p :=
  (judgeBlocked_axis _).trans (endStop_quiet (readEncoders s p)).axis

theorem stopOver_motion (s : State) (p : Encoders) : (stopOver s p).share.motion = 0 :=
  (judgeBlocked_motion _).trans (shareLegEnd_motion _)

theorem stopOver_compact (s : State) (p : Encoders) : (stopOver s p).compact = s.compact :=
  (judgeBlocked_compact _).trans (endStop_quiet (readEncoders s p)).compact

theorem stopOver_elsewhere (s : State) (p : Encoders) : Elsewhere s (stopOver s p) := by
  have hq := (endStop_quiet (readEncoders s p)).recs.elsewhere
  have hr := readEncoders_elsewhere s p
  unfold stopOver
  generalize readEncoders s p = v at hq hr ⊢
  exact ((hr.trans (withAxis_elsewhere v _)).trans hq).trans (judgeBlocked_elsewhere _)

section Ending
variable {x : Stop} {a e : Nat}

/-- A stop goes on while an axis is at creep rate or above. -/
theorem stopEnded_early (h : (cfg s).creep ≤ a ∨ (cfg s).creep ≤ e) : stopEnded s p a e = s := by
  unfold stopEnded
  split
  · refine if_neg ?_
    simp only [Bool.and_eq_true, decide_eq_true_eq]
    omega
  · rfl

theorem stopEnded_stall (hm : s.axis.motion = .stopping) (hx : s.axis.stop = some x)
    (ha : a < (cfg s).creep) (he : e < (cfg s).creep) (hr : .stall ∈ x.reasons) :
    stopEnded s p a e =
      haltWith (faultPoint s s.pins p s.axis.pairFaulted) flagDriveStall x.stallDetail := by
  rw [← readEncoders_fault]
  simp [stopEnded, hm, hx, ha, he, hr]
  rfl

theorem stopEnded_clash (hm : s.axis.motion = .stopping) (hx : s.axis.stop = some x)
    (ha : a < (cfg s).creep) (he : e < (cfg s).creep) (hn : .stall ∉ x.reasons)
    (hr : .clash ∈ x.reasons) : stopEnded s p a e = stopOver s p := by
  simp [stopEnded, hm, hx, ha, he, hn, hr, stopOver]

theorem stopEnded_goesOn (hm : s.axis.motion = .stopping) (hx : s.axis.stop = some x)
    (ha : a < (cfg s).creep) (he : e < (cfg s).creep) (hn : .stall ∉ x.reasons)
    (hr : .clash ∉ x.reasons) : stopEnded s p a e = goOn (stopOver s p) := by
  simp [stopEnded, hm, hx, ha, he, hn, hr, stopOver]

end Ending

/-! ### The stow leg after a stop (R21, R22) -/

/-- With nothing to fly the dish stays at rest. -/
theorem goOn_empty (hq : s.axis.queue = []) (hm : s.axis.motion = .idle) : goOn s = s := by
  simp [goOn, hq, tryStart_empty hq, hm]

/-- A STOW entry that is blocked waits (R42). -/
theorem goOn_blocked {m : MoveEntry} {rest : List MoveEntry} (hq : s.axis.queue = m :: rest)
    (ho : m.origin = .stow) (hb : stowBlocked s = true) : goOn s = s := by
  have htry : tryStart s = s := by
    rw [tryStart, tryStartN]
    split
    · rw [hq]
      simp [ho]
    · rfl
  simp [goOn, hq, hb, htry]

theorem goOn_stowLeg {m : MoveEntry} {rest : List MoveEntry} (hq : s.axis.queue = m :: rest)
    (ho : m.origin = .stow) (hb : stowBlocked s = false) (hl : legMayStart s = true) :
    goOn s = startStow s m := by
  simp [goOn, hq, ho, hb, hl]

theorem stowBlocked_congr {t : State} (hl : t.lock = s.lock) (hr : t.axis.refEl = s.axis.refEl)
    (hp : t.axis.pairFaulted = s.axis.pairFaulted) (hs : s.axis.motion ≠ .halted)
    (ht : t.axis.motion ≠ .halted) : stowBlocked t = stowBlocked s := by
  have hs' : (s.axis.motion == .halted) = false := by simpa using hs
  have ht' : (t.axis.motion == .halted) = false := by simpa using ht
  simp only [stowBlocked, blockCause, lockMask, hl, hr, hp, hs', ht']

theorem becomeStowed_axis (s : State) : (becomeStowed s).axis = { popHead s.axis with
    motion := if s.axis.stowMark then .stowed else .idle
    releasedAz := false, releasedEl := false } := judgeBlocked_axis _

theorem becomeStowed_motion (s : State) : (becomeStowed s).share.motion = s.share.motion :=
  judgeBlocked_motion _

theorem becomeStowed_elsewhere (s : State) : Elsewhere s (becomeStowed s) :=
  Elsewhere.trans (withAxis_elsewhere s _) (judgeBlocked_elsewhere _)

/-- The STOW entry at the head as its leg starts: aimed where the dish stands, its leg fixed. -/
theorem planHead_aimStow {a : AxisUnit} {m : MoveEntry} {rest : List MoveEntry}
    (h : a.queue = m :: rest) (l : LegPlan) : planHead (aimStow a) l =
      { a with queue := { m with az := a.posAz, plan := some l } :: rest } := by
  simp [planHead, aimStow, h]

theorem flyStow_axis {m : MoveEntry} {rest : List MoveEntry} (h : s.axis.queue = m :: rest) :
    (flyStow s m).axis = { s.axis with
      queue := { m with
        az := s.axis.posAz, plan := some ⟨s.axis.posAz, s.axis.posEl, 1, 1⟩ } :: rest
      motion := .stowing, leg := some (stowLeg s m), gapRun := 0
      releasedAz := false, releasedEl := true } := by
  refine (startLeg_axis _ _ _).trans ?_
  rw [withAxis_axis, planHead_aimStow h]
  rfl

theorem flyStow_elsewhere (s : State) (m : MoveEntry) : Elsewhere s (flyStow s m) :=
  (withAxis_elsewhere s _).trans (startLeg_elsewhere _ _ _)

theorem stowLeg_congr {t : State} (ha : t.axis = s.axis) (hq : t.seq = s.seq)
    (ht : t.time = s.time) (m : MoveEntry) : stowLeg t m = stowLeg s m := by
  simp only [stowLeg, stowEstimate, now, cfg, ha, hq, ht]

theorem startStow_stowed {m : MoveEntry} (hr : s.axis.refEl = true) (h : m.el ≤ s.axis.posEl) :
    startStow s m = becomeStowed s := by
  simp [startStow, hr, h]

theorem startStow_flies {m : MoveEntry} (hr : s.axis.refEl = true)
    (h : s.axis.posEl + (cfg s).tolerance < m.el) : startStow s m = flyStow s m := by
  have hnot : ¬ (m.el ≤ s.axis.posEl ∨ within (cfg s).tolerance s.axis.posEl m.el = true) := by
    rw [within_iff]
    omega
  simp only [startStow, hr, if_true, Bool.or_eq_true, decide_eq_true_eq, if_neg hnot]

/-! ### Stalls (R16) -/

theorem axesDetail_eq (a b : Bool) :
    axesDetail a b = (if a = true then 1 else 0) + (if b = true then 2 else 0) := rfl

/-- The axis of a leg with a target is short of it where the tolerance says so. -/
theorem shortOfTarget_eq {l : Leg} (h : l.kind = .normal ∨ l.kind = .stow) (moves : Bool)
    (b c : Int) : shortOfTarget s l moves b c = !within (cfg s).tolerance b c := by
  rcases h with h | h <;> simp [shortOfTarget, h]

theorem not_within {t : Nat} {a b : Int} : (!within t a b) = decide (t < (a - b).natAbs) := by
  simp [within, ← decide_not]

/-- Settles O32: the stop's end by its reasons and by the STOW entry, the stalls by their counts. -/
theorem stopsAndStallsEnd : Obligations.StopsAndStallsEnd := by
  refine ⟨fun s p a e x hm hx hf => ⟨fun h => congrArg Host.Outcome.next (stopEnded_early h),
    fun ha he => ⟨fun hr => ?_, fun hn hr => ?_, ?_⟩⟩, fun s p => ⟨?_, ?_⟩⟩
  · exact ⟨_, congrArg Host.Outcome.next (stopEnded_stall (p := p) hm hx ha he hr),
      haltWith_haltedBy (by rw [hm]; exact nofun) hf (by decide) _ _ _⟩
  · have hend : stopEnded s p a e = stopOver s p := by
      by_cases hc : .clash ∈ x.reasons
      · exact stopEnded_clash hm hx ha he hn hc
      · rw [stopEnded_goesOn hm hx ha he hn hc]
        refine goOn_empty ?_ ?_ <;> rw [stopOver_axis]
        · exact hr.resolve_left hc
        · rfl
    exact ⟨_, congrArg Host.Outcome.next hend, stopOver_axis s p, stopOver_motion s p,
      stopOver_compact s p, stopOver_elsewhere s p⟩
  · intro hn hc hready m rest hq ho r hr
    have hax : (stopOver s p).axis = r := (stopOver_axis s p).trans hr.symm
    have hq' : (stopOver s p).axis.queue = m :: rest := by rw [hax, hr]; exact hq
    have hel := stopOver_elsewhere s p
    have hshare := stopOver_motion s p
    have hmay : legMayStart (stopOver s p) = true :=
      legMayStart_idle (by rw [hax, hr]) (by rw [hel.seq]; exact hready)
    have hblocked : stowBlocked (stopOver s p) = stowBlocked s :=
      stowBlocked_congr hel.lock (by rw [hax, hr]) (by rw [hax, hr]) (by rw [hm]; exact nofun)
        (by rw [hax, hr]; exact nofun)
    have hend := stopEnded_goesOn (p := p) hm hx ha he hn hc
    refine ⟨fun hb => ?_, fun hb href => ?_⟩
    · exact ⟨_, congrArg Host.Outcome.next (hend.trans (goOn_blocked hq' ho (hblocked.trans hb))),
        hax, hshare, hel⟩
    · have hgo := hend.trans (goOn_stowLeg hq' ho (hblocked.trans hb) hmay)
      have href' : (stopOver s p).axis.refEl = true := by rw [hax, hr]; exact href
      have hpos : (stopOver s p).axis.posEl = p.el := by rw [hax, hr]
      have hcfg : cfg (stopOver s p) = cfg s := by unfold cfg; rw [hel.seq]
      refine ⟨fun hle => ?_, fun hlt => ?_⟩
      · refine ⟨_, congrArg Host.Outcome.next (hgo.trans (startStow_stowed href'
          (by rw [hpos]; exact hle))), ?_, (becomeStowed_motion _).trans hshare,
          hel.trans (becomeStowed_elsewhere _)⟩
        rw [becomeStowed_axis, hax, hr]
        rfl
      · refine ⟨_, congrArg Host.Outcome.next (hgo.trans (startStow_flies href'
          (by rw [hpos, hcfg]; exact hlt))), ?_, hel.trans (flyStow_elsewhere _ m)⟩
        have hleg : stowLeg (stopOver s p) m = stowLeg (s.withAxis r) m :=
          stowLeg_congr (s := s.withAxis r) hax hel.seq hel.time m
        rw [flyStow_axis hq', hleg, hax, hr]
  · intro l hleg hk hrun
    have hst : legStalled s p = flush (judgeBlocked ((readEncoders s p).withAxis
        { (readEncoders s p).axis with
          leg := none, motion := .stopping
          stop := some ⟨[.stall], 0,
            (if (cfg s).tolerance < (p.az - l.targetAz).natAbs then 1 else 0) +
            (if (cfg s).tolerance < (p.el - l.targetEl).natAbs then 2 else 0)⟩ })) reasonFault := by
      simp only [legStalled, hleg, hrun, if_true, axesDetail_eq, shortOfTarget_eq hk, not_within,
        decide_eq_true_eq]
    refine ⟨_, congrArg Host.Outcome.next hst, ?_, ?_, ?_⟩
    · rw [flush_axis, judgeBlocked_axis]
      rfl
    · rw [flush_motionCommit, judgeBlocked_motion]
      rfl
    · refine Elsewhere.trans (Elsewhere.trans ?_ (judgeBlocked_elsewhere _)) (flush_elsewhere _ _)
      exact (readEncoders_elsewhere s p).trans (withAxis_elsewhere _ _)
  · intro x a e hm hx hf hrun
    have hst : stopStalled s p a e = haltWith (faultPoint s s.pins p s.axis.pairFaulted)
        flagDriveStall ((if (cfg s).creep ≤ a then 1 else 0) +
          (if (cfg s).creep ≤ e then 2 else 0)) := by
      rw [← readEncoders_fault]
      have hlimit : stopLimit s ≤ x.run := hrun
      simp only [stopStalled, hm, hx, hlimit, if_true, axesDetail_eq, decide_eq_true_eq]
      rfl
    exact ⟨_, congrArg Host.Outcome.next hst,
      haltWith_haltedBy (by rw [hm]; exact nofun) hf (by decide) _ _ _⟩

/-! ### Inputs that go inactive (R17, R19, R28) -/

theorem limitReleased_still (h : ∀ l, s.axis.leg = some l → l.kind ≠ .descent) (a : Axis)
    (side : LimitEnd) : limitReleased s a side = s.withPins (setLimitPin s.pins a side false) := by
  unfold limitReleased descentOver
  split
  · rename_i l hl
    rw [if_neg]
    simp [h l hl]
  · rfl

theorem warningRaised_silent (s : State) : Silent s (warningRaised s) :=
  queueFrames_silent s (fun _ (r : CompactRecord) => .hold r.id) _

theorem warningCleared_silent (s : State) : Silent s (warningCleared s) :=
  (withdrawFrames_silent (.refl s) isHold).trans
    (queueFrames_silent _ (fun _ (r : CompactRecord) => .resume r.id) _)

theorem warningEvent_silent (s : State) (a : Axis) (w : Bool) :
    Silent (s.withPins (setWarningPin s.pins a w)) (warningEvent s a w) := by
  unfold warningEvent
  dsimp only
  split
  · split
    · exact warningRaised_silent _
    · split
      · exact warningCleared_silent _
      · exact .refl _
  · exact .refl _

/-- The HOLD of the one record that the station flies or will fly (R102). -/
theorem warningRaised_one {r : CompactRecord} (hl : s.compact.list = [r]) (hlive : isLive r = true)
    (ha : memberState r s.seq.number = some .accepted) :
    warningRaised s = queueFrame s (.hold r.id) := by
  simp [warningRaised, hl, hlive, ownAccepted, ha]

theorem warningCleared_one {r : CompactRecord} (hl : s.compact.list = [r])
    (hlive : isLive r = true) (ha : memberState r s.seq.number = some .accepted)
    (hh : s.seq.number ∈ r.holds) :
    warningCleared s = queueFrame (withdrawFrames s isHold) (.resume r.id) := by
  simp [warningCleared, hl, hlive, ownAccepted, ha, hh]

/-- Settles O34: the releases change pins, the warning queues frames. -/
theorem axisInputsGoInactive : Obligations.AxisInputsGoInactive := by
  intro s a
  refine ⟨fun side h => congrArg Host.Outcome.next (limitReleased_still h a side), rfl, rfl,
    fun w t ht => ?_⟩
  subst ht
  have hsil := warningEvent_silent s a w
  refine ⟨⟨_, rfl, hsil.pins, hsil.axis, hsil.compact, hsil.lock, hsil.time, hsil.sensor, hsil.wind,
    hsil.report, hsil.peers⟩, fun h => ?_, fun r hh h0 h1 hl hlive ha => ?_,
    fun r hh h0 h1 hl hlive ha hm => ?_⟩
  · refine congrArg Host.Outcome.next ?_
    show warningEvent s a w = _
    simp [warningEvent, h]
  · refine congrArg Host.Outcome.next ?_
    show warningEvent s a w = _
    rw [← warningRaised_one (s := s.withPins (setWarningPin s.pins a w)) hl hlive ha]
    simp [warningEvent, running, hh, h0, h1]
  · refine congrArg Host.Outcome.next ?_
    show warningEvent s a w = _
    refine Eq.trans ?_
      (warningCleared_one (s := s.withPins (setWarningPin s.pins a w)) hl hlive ha hm)
    simp [warningEvent, running, hh, h0, h1]

end Sys2Proof.Machine
end

section
/-! PROOFS. The MOTION reset (R19, R30, R117): what trying a leg leaves of the engine's positions
and marks, the records dropped, and the LEAVE(RESET) of a compact the station had accepted. -/

namespace Sys2Proof.Machine

variable {s t u : State} {n : Nat}

/-! ### Trying a leg (R11) -/

/-- Positions, references and the stow-order mark stand, HALTED is not entered, and no JOINT entry
joins the queue. -/
structure Stir (a b : AxisUnit) : Prop where
  posAz : b.posAz = a.posAz
  posEl : b.posEl = a.posEl
  refAz : b.refAz = a.refAz
  refEl : b.refEl = a.refEl
  stowMark : b.stowMark = a.stowMark
  halted : b.motion = .halted → a.motion = .halted
  noJoint : NoJoint a → NoJoint b

theorem Stir.refl (a : AxisUnit) : Stir a a := ⟨rfl, rfl, rfl, rfl, rfl, id, id⟩

theorem Stir.trans {a b c : AxisUnit} (h : Stir a b) (k : Stir b c) : Stir a c :=
  ⟨k.posAz.trans h.posAz, k.posEl.trans h.posEl, k.refAz.trans h.refAz, k.refEl.trans h.refEl,
    k.stowMark.trans h.stowMark, fun hc => h.halted (k.halted hc),
      fun ha => k.noJoint (h.noJoint ha)⟩

/-- What the Compact Unit's work leaves of the engine. -/
theorem Withdrawn.stir {a b : AxisUnit} (h : Withdrawn a b) : Stir a b where
  posAz := h.posAz
  posEl := h.posEl
  refAz := h.refAz
  refEl := h.refEl
  stowMark := h.stowMark
  halted hb := by
    rcases h.motion with ⟨hm, -⟩ | ⟨-, hm, -⟩
    · rw [← hm, hb]
    · rw [hm] at hb
      cases hb
  noJoint ha e he := ha e (h.queue.subset he)

/-- Entries leave the queue, and the state that the engine enters is another than HALTED. -/
theorem Stir.of_queue {a : AxisUnit} {q : List MoveEntry} (hq : q ⊆ a.queue) {m : Motion}
    (hm : m = .halted → a.motion = .halted) (rz re jh wp : Bool) (l : Option Leg) (g : Nat) :
    Stir a { a with
      queue := q, motion := m, releasedAz := rz, releasedEl := re, jointHeld := jh
      withdrawPending := wp, leg := l, gapRun := g } :=
  ⟨rfl, rfl, rfl, rfl, rfl, hm, fun h e he => h e (hq he)⟩

theorem planHead_stir (a : AxisUnit) (p : LegPlan) : Stir a (planHead a p) := by
  unfold planHead
  split
  · rename_i x rest hx
    refine ⟨rfl, rfl, rfl, rfl, rfl, id, fun h e he => ?_⟩
    rcases List.mem_cons.1 he with rfl | he
    · exact h x (hx ▸ List.mem_cons_self)
    · exact h e (hx ▸ List.mem_cons_of_mem _ he)
  · exact .refl a

theorem aimStow_stir (a : AxisUnit) : Stir a (aimStow a) := by
  unfold aimStow
  split
  · rename_i x rest hx
    refine ⟨rfl, rfl, rfl, rfl, rfl, id, fun h e he => ?_⟩
    rcases List.mem_cons.1 he with rfl | he
    · exact h x (hx ▸ List.mem_cons_self)
    · exact h e (hx ▸ List.mem_cons_of_mem _ he)
  · exact .refl a

/-- A leg tried: the engine stirs; with no JOINT entry in the queue the Compact List and
COMPACT_FAILED stand too. -/
structure Stirred (s t : State) : Prop where
  axis : Stir s.axis t.axis
  records : NoJoint s.axis → t.compact = s.compact ∧
    flagRecord t flagCompactFailed = flagRecord s flagCompactFailed

theorem Stirred.refl (s : State) : Stirred s s := ⟨.refl _, fun _ => ⟨rfl, rfl⟩⟩

theorem Stirred.trans (h : Stirred s t) (k : Stirred t u) : Stirred s u := by
  refine ⟨h.axis.trans k.axis, fun hn => ?_⟩
  obtain ⟨hc, hf⟩ := h.records hn
  obtain ⟨hc', hf'⟩ := k.records (h.axis.noJoint hn)
  exact ⟨hc'.trans hc, hf'.trans hf⟩

theorem withAxis_stirred (s : State) {a : AxisUnit} (h : Stir s.axis a) :
    Stirred s (s.withAxis a) := ⟨h, fun _ => ⟨rfl, rfl⟩⟩

theorem judgeBlocked_stirred (s : State) : Stirred s (judgeBlocked s) :=
  ⟨judgeBlocked_axis s ▸ .refl _, fun _ => ⟨judgeBlocked_compact s, judgeBlocked_other (by decide)⟩⟩

theorem popHead_stir (a : AxisUnit) : Stir a (popHead a) :=
  .of_queue (List.tail_subset _) id _ _ _ _ _ _

theorem toIdle_stirred (s : State) : Stirred s (toIdle s) :=
  (withAxis_stirred s (a := { s.axis with
    motion := .idle, releasedAz := false, releasedEl := false })
    (.of_queue (m := .idle) (List.Subset.refl _) nofun _ _ _ _ _ _)).trans
    (judgeBlocked_stirred _)

theorem becomeStowed_stirred (s : State) : Stirred s (becomeStowed s) := by
  have hne : (if s.axis.stowMark then Motion.stowed else .idle) ≠ .halted := by
    split <;> exact nofun
  exact (withAxis_stirred s (a := { popHead s.axis with
    motion := if s.axis.stowMark then .stowed else .idle, releasedAz := false,
      releasedEl := false })
    (.of_queue (List.tail_subset _) (fun h => absurd h hne) _ _ _ _ _ _)).trans
    (judgeBlocked_stirred _)

theorem shareLegStart_report (s : State) (az el : Bool) :
    (shareLegStart s az el).report = s.report := commitMotion_report s _

theorem shareLegStart_stirred (s : State) (az el : Bool) : Stirred s (shareLegStart s az el) := by
  have hq := shareLegStart_quiet (.refl s) az el
  refine ⟨hq.axis ▸ .refl _, fun _ => ⟨hq.compact, ?_⟩⟩
  rw [flagRecord, shareLegStart_report]
  rfl

theorem startLeg_stirred (s : State) (l : Leg) {m : Motion} (hm : m ≠ .halted) :
    Stirred s (startLeg s l m) :=
  ((withAxis_stirred s (a := legAxis s.axis l m)
    (.of_queue (List.Subset.refl _) (fun h => absurd h hm) _ _ _ _ _ _)).trans
    (shareLegStart_stirred _ _ _)).trans (judgeBlocked_stirred _)

theorem flyStow_stirred (s : State) (e : MoveEntry) : Stirred s (flyStow s e) :=
  (withAxis_stirred s ((aimStow_stir s.axis).trans (planHead_stir _ _))).trans
    (startLeg_stirred _ _ nofun)

theorem startStow_stirred (s : State) (e : MoveEntry) : Stirred s (startStow s e) := by
  unfold startStow
  split
  · split
    · exact becomeStowed_stirred s
    · exact flyStow_stirred s e
  · split
    · exact becomeStowed_stirred s
    · exact flyStow_stirred s e

/-- With a JOINT entry at the head the records may change. -/
theorem NoJoint.head {a : AxisUnit} {e : MoveEntry} {rest : List MoveEntry} (h : NoJoint a)
    (hq : a.queue = e :: rest) : (e.origin == .joint) = false := by
  simpa using h e (hq ▸ List.mem_cons_self)

theorem completeHead_stirred {e : MoveEntry} {rest : List MoveEntry}
    (hq : s.axis.queue = e :: rest) : Stirred s (completeHead s e) := by
  have hpop := withAxis_stirred s (popHead_stir s.axis)
  unfold completeHead
  dsimp only
  split
  · rename_i ho
    refine ⟨?_, fun hn => absurd (hn.head hq) (by simp [ho])⟩
    rw [arrivalNotice_axis]
    exact hpop.axis
  · exact hpop

theorem removeForSector_stirred {e : MoveEntry} {rest : List MoveEntry}
    (hq : s.axis.queue = e :: rest) (k : Nat) : Stirred s (removeForSector s e k) := by
  have hset := setFlag_quiet (.refl (s.withAxis (popHead s.axis))) flagKeepOutStop 1 k
  have hpop : Stirred s (setFlag (s.withAxis (popHead s.axis)) flagKeepOutStop 1 k) :=
    ⟨hset.axis ▸ popHead_stir s.axis, fun _ => ⟨hset.compact, setFlag_other (by decide) _ _⟩⟩
  unfold removeForSector
  dsimp only
  split
  · rename_i ho
    exact ⟨hpop.axis.trans (jointWithdrawn_recs (.refl _) _ _).axis.stir,
      fun hn => absurd (hn.head hq) (by simp [ho])⟩
  · exact hpop

theorem flyLeg_stirred {e : MoveEntry} {rest : List MoveEntry} (hq : s.axis.queue = e :: rest)
    (p : LegPlan) (l : Leg) : Stirred s (flyLeg s e p l) := by
  have hstart := (withAxis_stirred s (planHead_stir s.axis { p with index := p.index + 1 })).trans
    (startLeg_stirred _ l (m := .leg) nofun)
  unfold flyLeg
  dsimp only
  split
  · rename_i ho
    exact ⟨hstart.axis, fun hn => absurd (hn.head hq) (by simp [ho])⟩
  · exact hstart

theorem tryStartN_stirred (k : Nat) (s : State) : Stirred s (tryStartN k s) := by
  induction k generalizing s with
  | zero => exact .refl s
  | succ k ih =>
    rw [tryStartN]
    split
    · split
      · split
        · exact toIdle_stirred s
        · exact .refl s
      · rename_i e rest hq
        split
        · split
          · exact .refl s
          · split
            · exact startStow_stirred s e
            · exact (withAxis_stirred s (popHead_stir s.axis)).trans (ih _)
        · split
          · exact .refl s
          · dsimp only
            split
            · exact (completeHead_stirred hq).trans (ih _)
            · split
              · exact .refl s
              · split
                · exact (removeForSector_stirred hq _).trans (ih _)
                · exact flyLeg_stirred hq _ _
    · exact .refl s

theorem tryStart_stirred (s : State) : Stirred s (tryStart s) := tryStartN_stirred _ s

/-! ### The Compact Unit's part (R117) -/

/-- The records that the station has accepted leave one after the other, before the list is emptied
(R117). -/
def resetLeaves (s : State) : State :=
  (s.compact.list.filter fun r => isLive r && ownAccepted s r).foldl resetLeave s

theorem resetLeave_quiet (s : State) (r : CompactRecord) : Quiet s (resetLeave s r) :=
  (queueLeave_silent s r reasonReset).quiet.trans (setFlag_quiet (.refl _) _ _ _)

theorem resetLeaves_quiet (s : State) : Quiet s (resetLeaves s) :=
  Quiet.foldl (fun _ r ht => ht.trans (resetLeave_quiet _ r)) (.refl s) _

theorem compactMotionReset_eq (s : State) : compactMotionReset s =
    (withdrawFrames (resetLeaves s) (isResetFrame s.line.nextAge)).withCompact
      { (resetLeaves s).compact with list := [], pending := [] } := rfl

/-- The reset of the Compact Unit: the lists are empty, the rest as it was. -/
structure RecordsDropped (s c : State) : Prop where
  list : c.compact.list = []
  kept : c.compact.pending = []
  axis : c.axis = s.axis
  wind : c.wind = s.wind
  flags : c.report.flags.length = s.report.flags.length
  elsewhere : Elsewhere s c

theorem compactMotionReset_drops (s : State) : RecordsDropped s (compactMotionReset s) := by
  have hq := resetLeaves_quiet s
  rw [compactMotionReset_eq]
  generalize resetLeaves s = v at hq ⊢
  exact ⟨rfl, rfl, hq.axis, hq.wind, hq.flags, ⟨hq.pending, hq.pins, hq.seq, hq.time, hq.peers,
    hq.lock, hq.keepOut, hq.sensor, congrArg WindUnit.cells hq.wind, hq.kept⟩⟩

theorem ownFlying_empty (h : s.compact.list = []) : ownFlying s = [] := by
  simp [ownFlying, h]

/-- With no record a flush only takes entries out of the queue. -/
theorem flush_empty (h : s.compact.list = []) (cause : Nat) :
    flush s cause = s.withAxis (flushed s.axis) := by
  rw [flush_eq]
  exact noticeRemoved_none (ownFlying_empty (s := s.withAxis (flushed s.axis)) h) _ _

/-! ### The Axis Engine's part (R19, R30) -/

theorem addReason_axis {x : Stop} (h : s.axis.stop = some x) (r : StopReason) :
    (addReason s r).axis = { s.axis with
      stop := some { x with
        reasons := if r ∈ x.reasons then x.reasons else x.reasons ++ [r] } } := by
  simp [addReason, h]

theorem addReason_stirred (s : State) (r : StopReason) : Stirred s (addReason s r) := by
  unfold addReason
  split
  · exact withAxis_stirred s ⟨rfl, rfl, rfl, rfl, rfl, id, id⟩
  · exact .refl s

theorem beginStop_axis (s : State) (r : StopReason) :
    (beginStop s r).axis = stopping s.axis r := judgeBlocked_axis _

theorem beginStop_stirred (s : State) (r : StopReason) : Stirred s (beginStop s r) :=
  (withAxis_stirred s (a := stopping s.axis r) ⟨rfl, rfl, rfl, rfl, rfl, nofun, id⟩).trans
    (judgeBlocked_stirred _)

theorem flushed_stir (a : AxisUnit) : Stir a (flushed a) :=
  ⟨rfl, rfl, rfl, rfl, rfl, id, fun _ => flushed_noJoint a⟩

/-- A flush that finds no record. -/
theorem flush_stirred (h : s.compact.list = []) (cause : Nat) : Stirred s (flush s cause) := by
  rw [flush_empty h]
  exact withAxis_stirred s (flushed_stir _)

theorem beginStop_compact (s : State) (r : StopReason) : (beginStop s r).compact = s.compact :=
  judgeBlocked_compact _

theorem addReason_compact (s : State) (r : StopReason) : (addReason s r).compact = s.compact := by
  unfold addReason
  split <;> rfl

theorem faultsPresent_congr (hp : t.pins = s.pins) (hr : t.axis.refEl = s.axis.refEl) :
    faultsPresent t = faultsPresent s := by
  unfold faultsPresent elUpperCounts
  rw [hp, hr]

theorem faultsPresent_flags (s : State) {f : Nat × Nat} (h : f ∈ faultsPresent s) :
    f.1 ≠ flagCompactFailed := by
  rcases faultsPresent_flag s f h with hf | hf | hf <;> rw [hf] <;> decide

theorem setFaults_quiet (s : State) (l : List (Nat × Nat)) : Quiet s (setFaults s l) :=
  Quiet.foldl (fun _ f ht => ht.trans (setFlag_quiet (.refl _) f.1 f.2 0)) (.refl s) l

theorem setFaults_other {k : Nat} {l : List (Nat × Nat)} (h : ∀ f ∈ l, f.1 ≠ k) :
    flagRecord (setFaults s l) k = flagRecord s k := by
  unfold setFaults
  induction l generalizing s with
  | nil => rfl
  | cons f l ih =>
    rw [List.foldl_cons, ih fun g hg => h g (List.mem_cons_of_mem _ hg)]
    exact setFlag_other (Ne.symm (h f List.mem_cons_self)) _ _

/-- HALTED left, the inputs being clear (R19). -/
def haltedLeft (a : AxisUnit) (w : MoveEntry) : AxisUnit :=
  { a with
    motion := .idle
    pairFaulted := a.pairFaulted && !a.refEl
    queue := if a.stowMark && !a.queue.any (fun e => e.origin == .stow) then a.queue ++ [w]
      else a.queue }

theorem leaveHalted_clear (h : faultsPresent s = []) : leaveHalted s =
    tryStart (judgeBlocked (s.withAxis (haltedLeft s.axis (stowEntry s)))) := by
  unfold leaveHalted
  rw [h]
  rfl

theorem leaveHalted_faulted (h : faultsPresent s ≠ []) : leaveHalted s =
    setFaults (markPair (s.withReport { s.report with haltedFlags := [] })) (faultsPresent s) := by
  unfold leaveHalted
  split
  · exact absurd ‹_› h
  · rfl

theorem haltedLeft_stir (a : AxisUnit) {w : MoveEntry} (hw : w.origin = .stow) :
    Stir a (haltedLeft a w) := by
  refine ⟨rfl, rfl, rfl, rfl, rfl, (fun h => nomatch h), fun hn e he => ?_⟩
  unfold haltedLeft at he
  dsimp only at he
  split at he
  · rcases List.mem_append.1 he with he | he
    · exact hn e he
    · rw [List.mem_singleton.1 he, hw]
      exact nofun
  · exact hn e he

theorem markPair_stirred (s : State) : Stirred s (markPair s) := by
  unfold markPair
  split
  · exact withAxis_stirred s ⟨rfl, rfl, rfl, rfl, rfl, id, id⟩
  · exact .refl s

theorem leaveHalted_stirred (s : State) : Stirred s (leaveHalted s) := by
  by_cases h : faultsPresent s = []
  · rw [leaveHalted_clear h]
    exact ((withAxis_stirred s (haltedLeft_stir s.axis rfl)).trans (judgeBlocked_stirred _)).trans
      (tryStart_stirred _)
  · rw [leaveHalted_faulted h]
    have hm := markPair_stirred (s.withReport { s.report with haltedFlags := [] })
    have hread : Stirred s (s.withReport { s.report with haltedFlags := [] }) :=
      ⟨.refl _, fun _ => ⟨rfl, rfl⟩⟩
    refine (hread.trans hm).trans ⟨(setFaults_axis _ _).symm ▸ .refl _, fun _ => ?_⟩
    exact ⟨(setFaults_quiet _ _).compact, setFaults_other fun f hf => faultsPresent_flags s hf⟩

/-- What the engine's part of the reset leaves, no record being kept (R30). -/
theorem axisMotionReset_stirred (h : s.compact.list = []) : Stirred s (axisMotionReset s) := by
  have hstop := (beginStop_stirred s .reset).trans (flush_stirred (s := beginStop s .reset)
    (by rw [beginStop_compact]; exact h) reasonReset)
  unfold axisMotionReset
  split
  · exact hstop
  · exact hstop
  · exact hstop
  · exact (addReason_stirred s _).trans (flush_stirred (by rw [addReason_compact]; exact h) _)
  · exact (flush_stirred h _).trans (tryStart_stirred _)
  · exact (flush_stirred h _).trans (leaveHalted_stirred _)
  · exact .refl s

/-- The engine's part of the reset finds no record and changes none. -/
theorem axisMotionReset_records (h : s.compact.list = []) :
    (axisMotionReset s).compact = s.compact ∧
      flagRecord (axisMotionReset s) flagCompactFailed = flagRecord s flagCompactFailed := by
  have hstop : (flush (beginStop s .reset) reasonReset).compact = s.compact ∧
      flagRecord (flush (beginStop s .reset) reasonReset) flagCompactFailed =
        flagRecord s flagCompactFailed := by
    rw [flush_empty (s := beginStop s .reset) (by rw [beginStop_compact]; exact h)]
    exact ⟨beginStop_compact s _, judgeBlocked_other (s := s.withAxis (stopping s.axis .reset))
      (by decide)⟩
  unfold axisMotionReset
  split
  · exact hstop
  · exact hstop
  · exact hstop
  · rw [flush_empty (s := addReason s .reset) (by rw [addReason_compact]; exact h)]
    refine ⟨addReason_compact s _, ?_⟩
    show flagRecord (addReason s .reset) _ = _
    unfold addReason
    split <;> rfl
  · rw [flush_empty h]
    exact (tryStart_stirred (s.withAxis (flushed s.axis))).records (flushed_noJoint s.axis)
  · rw [flush_empty h]
    exact (leaveHalted_stirred (s.withAxis (flushed s.axis))).records (flushed_noJoint s.axis)
  · exact ⟨rfl, rfl⟩

/-- A moving dish stops (R30). -/
theorem axisMotionReset_stops (hm : s.axis.motion = .leg ∨ s.axis.motion = .gap ∨
    s.axis.motion = .stowing) :
    axisMotionReset s = flush (beginStop s .reset) reasonReset := by
  rcases hm with hm | hm | hm <;> rw [axisMotionReset, hm]

theorem axisMotionReset_stopping (hm : s.axis.motion = .stopping) :
    axisMotionReset s = flush (addReason s .reset) reasonReset := by
  rw [axisMotionReset, hm]

theorem axisMotionReset_idle (hm : s.axis.motion = .idle) :
    axisMotionReset s = tryStart (flush s reasonReset) := by
  rw [axisMotionReset, hm]

theorem axisMotionReset_halted (hm : s.axis.motion = .halted) :
    axisMotionReset s = leaveHalted (flush s reasonReset) := by
  rw [axisMotionReset, hm]

theorem axisMotionReset_stowed (hm : s.axis.motion = .stowed) : axisMotionReset s = s := by
  rw [axisMotionReset, hm]

/-- HALTED entered again (R17, R19). -/
theorem axisMotionReset_faulted (hm : s.axis.motion = .halted) (hf : faultsPresent s ≠ []) :
    (axisMotionReset s).axis = { flushed s.axis with
      pairFaulted := s.axis.pairFaulted || (s.pins.elLower && s.pins.elUpper) } := by
  have hpins : (flush s reasonReset).pins = s.pins := (flush_elsewhere s _).pins
  have hax := flush_axis s reasonReset
  have hf' : faultsPresent (flush s reasonReset) ≠ [] := by
    rw [faultsPresent_congr hpins (by rw [hax]; rfl)]
    exact hf
  rw [axisMotionReset_halted hm, leaveHalted_faulted hf', setFaults_axis, markPair]
  generalize flush s reasonReset = v at hpins hax
  simp only [withReport_pins, hpins]
  cases hb : s.pins.elLower && s.pins.elUpper
  · rw [if_neg Bool.false_ne_true, Bool.or_false]
    exact hax
  · rw [if_pos rfl, Bool.or_true]
    show { v.axis with pairFaulted := true } = _
    rw [hax]

/-- HALTED left, no stow being due (R19). -/
theorem axisMotionReset_cleared (hm : s.axis.motion = .halted) (hf : faultsPresent s = [])
    (hs : s.axis.stowMark = false) (hq : stowEntries s = []) :
    (axisMotionReset s).axis = { flushed s.axis with
      motion := .idle, pairFaulted := s.axis.pairFaulted && !s.axis.refEl } := by
  have hpins : (flush s reasonReset).pins = s.pins := (flush_elsewhere s _).pins
  have hax := flush_axis s reasonReset
  have hf' : faultsPresent (flush s reasonReset) = [] := by
    rw [faultsPresent_congr hpins (by rw [hax]; rfl)]
    exact hf
  rw [axisMotionReset_halted hm, leaveHalted_clear hf']
  generalize flush s reasonReset = v at hax
  have hleft : haltedLeft v.axis (stowEntry v) = { flushed s.axis with
      motion := .idle, pairFaulted := s.axis.pairFaulted && !s.axis.refEl } := by
    rw [hax]
    simp [haltedLeft, flushed, hs]
  have hj := judgeBlocked_axis (v.withAxis (haltedLeft v.axis (stowEntry v)))
  rw [withAxis_axis, hleft] at hj
  rw [tryStart_empty (by rw [hleft, hj]; exact hq), hleft, hj]
  simp [hj]

/-- After the reset the dish is in HALTED only where it was and the inputs are not clear. -/
theorem axisMotionReset_halted_iff (hm : s.axis.motion = .halted) :
    (axisMotionReset s).axis.motion = .halted ↔ faultsPresent s ≠ [] := by
  refine ⟨fun ht hf => ?_, fun hf => ?_⟩
  · have hpins : (flush s reasonReset).pins = s.pins := (flush_elsewhere s _).pins
    have hf' : faultsPresent (flush s reasonReset) = [] := by
      rw [faultsPresent_congr hpins (by rw [flush_axis]; rfl)]
      exact hf
    rw [axisMotionReset_halted hm, leaveHalted_clear hf'] at ht
    have hidle := (tryStart_stirred _).axis.halted ht
    rw [judgeBlocked_axis] at hidle
    cases hidle
  · rw [axisMotionReset_faulted hm hf]
    exact hm

/-! ### The LEAVE(RESET) (R117) -/

/-- The one record, which the station has accepted, is left with a LEAVE(RESET). -/
theorem resetLeaves_one {r : CompactRecord} (hl : s.compact.list = [r]) (hlive : isLive r = true)
    (ha : memberState r s.seq.number = some .accepted) : resetLeaves s = resetLeave s r := by
  simp [resetLeaves, hl, hlive, ownAccepted, ha]

theorem resetLeave_flag (hf : s.report.flags.length = 16) (r : CompactRecord) :
    flagRecord (resetLeave s r) flagCompactFailed = ⟨true, 16, r.id, now s⟩ := by
  have hsil := queueLeave_silent s r reasonReset
  have hset := (setFlag_records (s := queueLeave s r reasonReset) (by rw [hsil.report]; exact hf)
    (by decide : flagCompactFailed < 16) reasonReset r.id).1
  have hnow : now (queueLeave s r reasonReset) = now s := by
    unfold now
    rw [hsil.time]
  rw [hnow] at hset
  exact hset

/-- The frames that the reset withdraws are no LEAVE(RESET) (R112). -/
theorem isResetFrame_kind (id : Nat) {k : Nat} {e : TxEntry} (h : isResetFrame k e = true) :
    isLeaveFrame id reasonReset e.frame = false := by
  unfold isResetFrame at h
  rw [isLeaveFrame, beq_eq_false_iff_ne]
  intro he
  rw [he] at h
  simp at h

theorem beginStop_frugal {p : Frame → Bool} (hp : CoordKind p) (r : StopReason) :
    Frugal p 1 s (beginStop s r) := (judgeBlocked_frugal hp).before rfl rfl rfl

theorem addReason_frugal {p : Frame → Bool} (r : StopReason) : Frugal p 0 s (addReason s r) := by
  unfold addReason
  split <;> exact .of_eq rfl rfl rfl

/-- The engine's part queues at most a stow-blocked notice where nothing waits to fly. -/
theorem axisMotionReset_frugal {p : Frame → Bool} (hp : CoordKind p) (h : s.compact.list = [])
    (hq : s.axis.queue = []) (hm : s.axis.motion ≠ .halted) :
    Frugal p 1 s (axisMotionReset s) := by
  have hflush : ∀ v : State, v.compact.list = [] → ∀ c, Frugal p 0 v (flush v c) := fun v hv c => by
    rw [flush_empty hv]
    exact .of_eq rfl rfl rfl
  have hstop : Frugal p 1 s (flush (beginStop s .reset) reasonReset) :=
    (beginStop_frugal hp _).step (hflush _ (by rw [beginStop_compact]; exact h) _)
  unfold axisMotionReset
  split
  · exact hstop
  · exact hstop
  · exact hstop
  · exact Frugal.mono (n := 0) ((addReason_frugal _).trans
      (hflush _ (by rw [addReason_compact]; exact h) _)) (Nat.zero_le 1)
  · rename_i hidle
    have hq' : (flush s reasonReset).axis.queue = [] := by
      rw [flush_axis, flushed, hq]
      rfl
    have hm' : (flush s reasonReset).axis.motion = .idle := by rw [flush_axis]; exact hidle
    rw [tryStart_empty hq', hm']
    simpa using (hflush s h reasonReset).mono (Nat.zero_le 1)
  · exact absurd ‹_› hm
  · exact (Frugal.refl s).mono (Nat.zero_le 1)

/-- The state of the reset's first part, the record's LEAVE queued. -/
theorem compactMotionReset_held {r : CompactRecord} (hl : s.compact.list = [r])
    (hlive : isLive r = true) (ha : memberState r s.seq.number = some .accepted)
    (ht : transmits s = true) (hq : s.line.queue = []) :
    Modest 3 (compactMotionReset s) ∧
      (heldOf (isLeaveFrame r.id reasonReset) (compactMotionReset s)).map (·.frame) =
        [.leave r.id reasonReset] := by
  have hp := isLeaveFrame_kind r.id reasonReset
  obtain ⟨hm, hheld⟩ := queueLeave_held (r := r) (reason := reasonReset) (Nat.zero_le 5) ht
    (.nil hq)
    (by rw [heldOf, hq]; rfl)
  obtain ⟨hm1, hheld1⟩ := ((setFlag_frugal (s := queueLeave s r reasonReset) hp flagCompactFailed
    reasonReset r.id).step (withdrawFrames_frugal (w := isResetFrame s.line.nextAge)
      fun e he => isResetFrame_kind r.id he)) 2 (by decide) hm
  rw [compactMotionReset_eq, resetLeaves_one hl hlive ha]
  refine ⟨hm1.of_eq rfl rfl rfl, ?_⟩
  show (heldOf _ (withdrawFrames (setFlag (queueLeave s r reasonReset) flagCompactFailed
    reasonReset r.id) (isResetFrame s.line.nextAge))).map _ = _
  rw [hheld1, hheld]

theorem mayEnable_of_receives (h : receives s = true) :
    mayEnable s.seq = decide (s.seq.station ≠ .faulted .config) := by
  unfold receives isReady isConfigFault isClash at h
  unfold mayEnable
  simp only [Bool.and_eq_true, Bool.or_eq_true, beq_iff_eq, Bool.not_eq_true'] at h
  obtain ⟨hh, ((hs | hs) | hs) | hs⟩ := h <;> simp [hh, hs]

/-- Settles O35: the Compact Unit's part empties the list, and the engine's part goes by its state.
-/
theorem aMotionResetStopsAndFlushes : Obligations.AMotionResetStopsAndFlushes := by
  intro s n hk
  have hexec : ∀ target, exec (.resetMotion n target) s =
      .next (if target == s.seq.number then motionReset (frameRead s n) else frameRead s n) :=
    fun target => congrArg Host.Outcome.next (takeConsoleFrame_known hk _)
  refine ⟨fun target h => ?_, motionReset (frameRead s n), ?_, ?_⟩
  · rw [hexec, if_neg (by simpa using h)]
  · rw [hexec, if_pos (by simp)]
  have hdrop := compactMotionReset_drops (frameRead s n)
  have hax : (compactMotionReset (frameRead s n)).axis = s.axis := hdrop.axis
  have hpins : (compactMotionReset (frameRead s n)).pins = s.pins := hdrop.elsewhere.pins
  have hrecords := axisMotionReset_records hdrop.list
  have hstir := (axisMotionReset_stirred hdrop.list).axis
  have hfaults : faultsPresent (compactMotionReset (frameRead s n)) = faultsPresent s :=
    faultsPresent_congr hpins (by rw [hax])
  have hstow : stowEntries (compactMotionReset (frameRead s n)) = stowEntries s := by
    unfold stowEntries
    rw [hax]
  have hleave := fun r => compactMotionReset_held (s := frameRead s n) (r := r)
  have hflag := fun (r : CompactRecord) hl hlive ha =>
    congrArg (fun v => flagRecord v flagCompactFailed)
      (resetLeaves_one (s := frameRead s n) (r := r) hl hlive ha)
  have hflagc : flagRecord (compactMotionReset (frameRead s n)) flagCompactFailed =
      flagRecord (resetLeaves (frameRead s n)) flagCompactFailed := rfl
  have hel := (motionReset_keeps (.refl (frameRead s n))).elsewhere
  refine ⟨hel, ?_⟩
  unfold motionReset at hel ⊢
  generalize compactMotionReset (frameRead s n) = c at *
  rw [hrecords.1]
  rw [hax] at hstir
  refine ⟨hdrop.list, hdrop.kept, hstir.posAz, hstir.posEl, hstir.refAz, hstir.refEl,
    hstir.stowMark, fun hm => ?_, fun x hm hx => ?_, fun hm => ?_, fun hm hf => ?_,
    fun hm hf hs hq => ?_, fun hm => ?_, fun hm hq => ?_, fun r hl hlive ha hf => ⟨?_, ?_⟩⟩
  · rw [axisMotionReset_stops (by rw [hax]; exact hm), flush_axis, beginStop_axis, hax]
  · rw [axisMotionReset_stopping (by rw [hax]; exact hm), flush_axis,
      addReason_axis (x := x) (by rw [hax]; exact hx), hax]
  · rw [axisMotionReset_stowed (by rw [hax]; exact hm), hax]
  · rw [axisMotionReset_faulted (by rw [hax]; exact hm) (by rw [hfaults]; exact hf), hax, hpins]
  · rw [axisMotionReset_cleared (by rw [hax]; exact hm) (by rw [hfaults]; exact hf)
      (by rw [hax]; exact hs) (by rw [hstow]; exact hq), hax]
  · have hseq : (axisMotionReset c).seq = s.seq := hel.seq
    have hiff := axisMotionReset_halted_iff (s := c) (by rw [hax]; exact hm)
    rw [hfaults] at hiff
    rw [amplifiersEnabled, hseq, mayEnable_of_receives hk.1.1]
    by_cases hf : faultsPresent s = []
    · have hne : (axisMotionReset c).axis.motion ≠ .halted := fun h => hiff.1 h hf
      simp [hf, hne]
    · simp [hf, hiff.2 hf]
  · rw [axisMotionReset_idle (by rw [hax]; exact hm)]
    have hq' : (flush c reasonReset).axis.queue = [] := by rw [flush_axis, hax]; exact hq
    have hm' : (flush c reasonReset).axis.motion = .idle := by rw [flush_axis, hax]; exact hm
    rw [tryStart_empty hq', hm']
    simp [flush_axis, hax]
  · rw [hrecords.2, hflagc, hflag r hl hlive ha]
    exact resetLeave_flag (s := frameRead s n) hf r
  · intro ht hq hqa hm hord hshort
    obtain ⟨hmod, hheld⟩ := hleave r hl hlive ha ht hq
    obtain ⟨-, hend⟩ := axisMotionReset_frugal (s := c) (isLeaveFrame_kind r.id reasonReset)
      hdrop.list (by rw [hax]; exact hqa) (by rw [hax]; exact hm) 3 (by decide) hmod
    rw [← hend] at hheld
    obtain ⟨x, hx, hxf⟩ := List.mem_map.1 (hheld ▸ List.mem_cons_self)
    exact ⟨x, (List.mem_filter.1 hx).1, hxf⟩

end Sys2Proof.Machine
end

section
/-! PROOFS. MOVE (R6, R7) and the lock mask of a neighbour (R26, R53, R88). -/

namespace Sys2Proof.Machine

variable {s t : State} {n : Nat}

/-! ### MOVE -/

/-- A frame that only consoles send is only read from a dish (R74). -/
theorem takeConsoleFrame_dishOnly (h : KnownDish s n) (f : State → State) :
    takeConsoleFrame s n f = frameRead s n := takeConsoleFrame_dish h.1 h.2 f

/-- MOVE as the frame is taken: its code, its purpose and its fields. -/
def moveFrame (s : State) (n target code : Nat) (p : Purpose) (az : Int) (el rate : Nat) : State :=
  takeConsoleFrame s n fun t => takeMove t n target code p az el rate

theorem exec_movePoint (s : State) (n target code : Nat) (az : Int) (el rate : Nat) :
    exec (.movePoint n target code az el rate) s = .next (moveFrame s n target code
      (if code == 0 then .point else .undefined) az el rate) := rfl

theorem exec_moveReferenceAz (s : State) (n target : Nat) : exec (.moveReferenceAz n target) s =
    .next (moveFrame s n target 1 .referenceAz 0 0 0) := rfl

theorem exec_moveReferenceEl (s : State) (n target : Nat) : exec (.moveReferenceEl n target) s =
    .next (moveFrame s n target 2 .referenceEl 0 0 0) := rfl

theorem moveFrame_dish (h : KnownDish s n) (target code : Nat) (p : Purpose) (az : Int)
    (el rate : Nat) : moveFrame s n target code p az el rate = frameRead s n :=
  takeConsoleFrame_dishOnly h _

theorem moveFrame_console (h : KnownConsole s n) (target code : Nat) (p : Purpose) (az : Int)
    (el rate : Nat) : moveFrame s n target code p az el rate =
      takeMove (frameRead s n) n target code p az el rate :=
  takeConsoleFrame_known h _

section Taken
variable {code : Nat} {p : Purpose} {az : Int} {el rate : Nat}

theorem takeMove_ready (hc : isConsole n = true) (hr : s.seq.station = .ready) :
    takeMove s n s.seq.number code p az el rate =
      if moveOutcome s n p az el rate = outcomeOk then
        admitMove (answerMove s n code (moveOutcome s n p az el rate))
          (requestedEntry s n p az el rate)
      else answerMove s n code (moveOutcome s n p az el rate) := by
  simp [takeMove, hc, hr]

theorem takeMove_listen (hc : isConsole n = true) (hr : s.seq.station = .listen) :
    takeMove s n s.seq.number code p az el rate = s.withAxis { s.axis with
      pendingAnswers := s.axis.pendingAnswers ++ [(n, code)] } := by
  simp [takeMove, hc, hr]

theorem takeMove_config (hc : isConsole n = true) (hr : s.seq.station = .faulted .config) :
    takeMove s n s.seq.number code p az el rate = answerMove s n code outcomeNotReady := by
  simp [takeMove, hc, hr]

theorem takeMove_clash (hr : s.seq.station = .faulted .clash) :
    takeMove s n s.seq.number code p az el rate = s := by
  simp [takeMove, hr]

theorem takeMove_other {target : Nat} (h : target ≠ s.seq.number) :
    takeMove s n target code p az el rate = s := by
  simp [takeMove, h]

/-- The outcome of a MOVE in READY, its undefined purpose apart (R7). -/
theorem moveOutcome_ready (hr : s.seq.station = .ready) : moveOutcome s n p az el rate =
    (if windHolds s || s.axis.stowMark then 13
      else if changesAz s p az && (lockMask s).az || changesEl s p el && (lockMask s).el then 12
      else if s.axis.motion == .halted then 14
      else if s.compact.list.any (fun r => isFlying r || r.state == .forming && decide
          (toMs r.start < finishEstimate s (s.axis.queue ++ [requestedEntry s n p az el rate])))
            then 8
      else if p == .undefined then 10
      else if p == .point && !(inRange (cfg s).azLo (cfg s).azHi az && inRange (-270000) 270000 az
          && inRange (cfg s).elLo (cfg s).elHi el && inRange 0 90000 el) then 10
      else if p == .point && (changesAz s p az && !s.axis.refAz ||
          changesEl s p el && !s.axis.refEl) then 9
      else if !(sweepTest s (pathSweep s p az el)).isEmpty then 11
      else if 8 ≤ s.axis.queue.length then 3
      else 0) := by
  have hlimits : ∀ x y : Nat, (if outsideLimits s p az el then x else y) =
      if p == .undefined then x
      else if p == .point && !(inRange (cfg s).azLo (cfg s).azHi az && inRange (-270000) 270000 az
          && inRange (cfg s).elLo (cfg s).elHi el && inRange 0 90000 el) then x else y := by
    intro x y
    cases p <;> simp [outsideLimits, elWithinLimits]
  have hready : isReady s = true := by simp [isReady, hr]
  rw [moveOutcome, hlimits]
  simp only [hready, Bool.not_true, Bool.false_eq_true, if_false, changesUnreferenced]
  rfl

end Taken

/-- The answer to a MOVE leaves the engine. -/
theorem answered_axis (s : State) (n subject key outcome : Nat) (v : Option AnswerValue) :
    (answered s n subject key outcome v).axis = s.axis :=
  (queueFrame_silent (.refl (frameRead s n)) _).axis

/-- The reading of the frame changes no estimate and no outcome. -/
theorem entriesEstimate_frameRead (s : State) (n : Nat) (l : List MoveEntry) (az el : Int) :
    entriesEstimate (frameRead s n) l az el = entriesEstimate s l az el := by
  induction l generalizing az el with
  | nil => rfl
  | cons e l ih =>
    rw [entriesEstimate, entriesEstimate, ih]
    rfl

theorem finishEstimate_frameRead (s : State) (n : Nat) (q : List MoveEntry) :
    finishEstimate (frameRead s n) q = finishEstimate s q := by
  unfold finishEstimate
  cases q with
  | nil => rfl
  | cons e rest =>
    dsimp only
    rw [entriesEstimate_frameRead]
    rfl

theorem moveOutcome_frameRead (s : State) (n m : Nat) (p : Purpose) (az : Int) (el rate : Nat) :
    moveOutcome (frameRead s n) m p az el rate = moveOutcome s m p az el rate := by
  have hbusy : ∀ e, compactBusy (frameRead s n) e = compactBusy s e := fun e => by
    unfold compactBusy
    rw [finishEstimate_frameRead]
    rfl
  unfold moveOutcome
  rw [hbusy]
  rfl

/-- A MOVE of a READY station, by its outcome. -/
theorem takeMove_judged {code : Nat} {p : Purpose} {az : Int} {el rate : Nat}
    (hc : isConsole n = true) (hr : s.seq.station = .ready) {e : MoveEntry} {o : Nat}
    (he : e = requestedEntry s n p az el rate) (ho : o = moveOutcome s n p az el rate) :
    (o ≠ 0 → takeMove (frameRead s n) n s.seq.number code p az el rate =
      answered s n 3 code o none) ∧
    (o = 0 → s.axis.motion ≠ .idle → takeMove (frameRead s n) n s.seq.number code p az el rate =
      (answered s n 3 code 0 none).withAxis { s.axis with queue := s.axis.queue ++ [e] }) ∧
    (o = 0 → s.axis.motion = .idle → takeMove (frameRead s n) n s.seq.number code p az el rate =
      tryStart ((answered s n 3 code 0 none).withAxis
        { s.axis with queue := s.axis.queue ++ [e] })) := by
  have htake : takeMove (frameRead s n) n s.seq.number code p az el rate =
      if o = 0 then admitMove (answered s n 3 code o none) e else answered s n 3 code o none := by
    have hout : moveOutcome (frameRead s n) n p az el rate = o :=
      (moveOutcome_frameRead s n n p az el rate).trans ho.symm
    have hent : requestedEntry (frameRead s n) n p az el rate = e := he.symm
    have h := takeMove_ready (s := frameRead s n) (code := code) (p := p) (az := az) (el := el)
      (rate := rate) hc hr
    rwa [hout, hent] at h
  have hax := answered_axis s n 3 code 0 none
  refine ⟨fun h => ?_, fun h hm => ?_, fun h hm => ?_⟩
  · rw [htake, if_neg h]
  · rw [htake, if_pos h, h, admitMove, hax]
    exact if_neg (by simpa using hm)
  · rw [htake, if_pos h, h, admitMove, hax]
    exact if_pos (by simp [hm])

/-- Settles O28: the outcome is the first check that fails, and the station's state says what is
made of it. -/
theorem movesAreJudged : Obligations.MovesAreJudged := by
  refine ⟨fun s n target code az el rate h => ?_, ?_, ?_⟩
  · rw [exec_movePoint, exec_moveReferenceAz, exec_moveReferenceEl, moveFrame_dish h,
      moveFrame_dish h, moveFrame_dish h]
    exact ⟨rfl, rfl, rfl⟩
  · intro s n i code p az el rate hk hr hi e o he ho
    have ho' : o = moveOutcome s n p az el rate := by
      rw [ho, he, moveOutcome_ready hr]
    have hexec : exec i s = .next (takeMove (frameRead s n) n s.seq.number code p az el rate) := by
      rcases hi with ⟨rfl, rfl, rfl⟩ | ⟨rfl, rfl, rfl, rfl, rfl, rfl⟩ |
        ⟨rfl, rfl, rfl, rfl, rfl, rfl⟩ | ⟨rfl, hcode, rfl⟩
      · rw [exec_movePoint, moveFrame_console hk]
        rfl
      · rw [exec_moveReferenceAz, moveFrame_console hk]
      · rw [exec_moveReferenceEl, moveFrame_console hk]
      · rw [exec_movePoint, moveFrame_console hk, if_neg (by simp; omega)]
    obtain ⟨h1, h2, h3⟩ := takeMove_judged (code := code) hk.2 hr he ho'
    rw [hexec]
    exact ⟨fun h => congrArg _ (h1 h), fun h hm => congrArg _ (h2 h hm),
      fun h hm => congrArg _ (h3 h hm)⟩
  · intro s n target code az el rate i hk hi
    obtain ⟨p, az', el', rate', hexec⟩ : ∃ p az' el' rate', exec i s =
        .next (takeMove (frameRead s n) n target code p az' el' rate') := by
      rcases hi with rfl | ⟨rfl, rfl⟩ | ⟨rfl, rfl⟩
      · exact ⟨_, _, _, _, congrArg _ (moveFrame_console hk _ _ _ _ _ _)⟩
      · exact ⟨_, _, _, _, congrArg _ (moveFrame_console hk _ _ _ _ _ _)⟩
      · exact ⟨_, _, _, _, congrArg _ (moveFrame_console hk _ _ _ _ _ _)⟩
    rw [hexec]
    refine ⟨fun ht => ?_, fun ht => congrArg _ (takeMove_other (s := frameRead s n) ht)⟩
    subst ht
    exact ⟨fun hr => congrArg _ (takeMove_config (s := frameRead s n) hk.2 hr),
      fun hr => congrArg _ (takeMove_listen (s := frameRead s n) hk.2 hr),
      fun hr => congrArg _ (takeMove_clash (s := frameRead s n) hr)⟩

/-! ### The lock mask of a neighbour (R53, R54, R88) -/

/-- The Keep-out Table with the sectors of a neighbour set in force by its mask (R53). -/
def maskedTable (s : State) (n : Nat) (m : Scope) : List KeepEntry :=
  s.keepOut.map fun k => if k.station == n then { k with inForce := scopeMotion m } else k

theorem peerEntry_frameRead_ne (s : State) {k : Nat} (hk : k ≠ n) :
    peerEntry (frameRead s n) k = peerEntry s k := by
  unfold peerEntry frameRead
  dsimp only
  rw [List.find?_map]
  have hstation : ((fun e : PeerEntry => e.station == k) ∘ fun e =>
      if e.station == n then { e with lastHeard := some (now s), silence := 0 } else e) =
      fun e => e.station == k := funext fun e => by dsimp only [Function.comp]; split <;> rfl
  rw [hstation]
  cases h : s.peers.table.find? fun e => e.station == k with
  | none => rfl
  | some e =>
    have he : e.station = k := by simpa using List.find?_some h
    simp [he, hk]

theorem peerEntry_frameRead (h : isPresent s n = true) : peerEntry (frameRead s n) n =
    { peerEntry s n with lastHeard := some (now s), silence := 0 } := by
  have hstation : ((fun e : PeerEntry => e.station == n) ∘ fun e =>
      if e.station == n then { e with lastHeard := some (now s), silence := 0 } else e) =
      fun e => e.station == n := funext fun e => by dsimp only [Function.comp]; split <;> rfl
  obtain ⟨e, he⟩ : ∃ e, s.peers.table.find? (fun e => e.station == n) = some e := by
    unfold isPresent at h
    rw [List.any_eq_true] at h
    obtain ⟨e, he, hp⟩ := h
    exact Option.isSome_iff_exists.1 (List.find?_isSome.2 ⟨e, he, by
      simp only [Bool.and_eq_true] at hp
      exact hp.1⟩)
  unfold peerEntry frameRead
  dsimp only
  rw [List.find?_map, hstation, he]
  exact if_pos (List.find?_some he)

/-- The Peer Table after a mask has been recorded, before the Keep-out Unit takes it. -/
def maskRecorded (s : State) (n : Nat) (m : Scope) : State :=
  setPeer (frameRead s n) { peerEntry (frameRead s n) n with mask := some m }

theorem recordMask_eq (h : n ≠ s.seq.number) (m : Scope) :
    recordMask (frameRead s n) n m = if maskedTable s n m = s.keepOut then maskRecorded s n m
      else axisTableChange ((maskRecorded s n m).withKeepOut (maskedTable s n m)) := by
  have hn : (n == (frameRead s n).seq.number) = false := beq_eq_false_iff_ne.2 h
  rw [recordMask, hn, if_neg Bool.false_ne_true, neighbourMask]
  dsimp only
  by_cases ht : maskedTable s n m = s.keepOut
  · rw [if_pos ht]
    exact if_pos (beq_iff_eq.2 ht)
  · rw [if_neg ht]
    exact if_neg (fun h => ht (beq_iff_eq.1 h))

/-- Without a leg in flight the notice changes nothing (R26). -/
theorem axisTableChange_still (h : s.axis.motion ≠ .leg) : axisTableChange s = s := by
  unfold axisTableChange
  split
  · exact absurd ‹_› h
  · rfl

theorem axisTableChange_clear {l : Leg} (hl : s.axis.leg = some l)
    (hs : sweepTest s (legSweep s l) = []) : axisTableChange s = s := by
  unfold axisTableChange
  split
  · rename_i l' hm hl'
    have : l' = l := Option.some.inj (hl'.symm.trans hl)
    rw [this, hs]
  · rfl

theorem axisTableChange_meets {l : Leg} {b : Nat} {rest : List Nat} (hm : s.axis.motion = .leg)
    (hl : s.axis.leg = some l) (hs : sweepTest s (legSweep s l) = b :: rest) :
    axisTableChange s =
      setFlag (flush (beginStop s .keepOut) reasonKeepOut) flagKeepOutStop 2 b := by
  simp only [axisTableChange, hm, hl, hs]

/-- A leg whose sweep meets a sector now in force stops, and the queue is flushed (R26, R59). -/
theorem keepOutStop_axis (s : State) (b : Nat) :
    (setFlag (flush (beginStop s .keepOut) reasonKeepOut) flagKeepOutStop 2 b).axis =
      flushed (stopping s.axis .keepOut) := by
  rw [(setFlag_quiet (.refl _) _ _ _).axis, flush_axis, beginStop_axis]

theorem keepOutStop_flag (hf : s.report.flags.length = 16) (b : Nat) :
    flagRecord (setFlag (flush (beginStop s .keepOut) reasonKeepOut) flagKeepOutStop 2 b)
      flagKeepOutStop = ⟨true, 2, b, now s⟩ := by
  have hk : Keeps s (flush (beginStop s .keepOut) reasonKeepOut) :=
    flush_keeps (beginStop_keeps (.refl s) _) _
  have hset := (setFlag_records (s := flush (beginStop s .keepOut) reasonKeepOut)
    (hk.flags.trans hf) (by decide : flagKeepOutStop < 16) 2 b).1
  have hnow : now (flush (beginStop s .keepOut) reasonKeepOut) = now s := by
    unfold now
    rw [hk.time]
  rw [hset, hnow]

theorem exec_lockNotice (h : Known s n) (m : Scope) (entries keys remotes : Nat) :
    exec (.lockNoticeReceived n m entries keys remotes) s = .next (if isConsole n then
      frameRead s n else takeLockNotice (frameRead s n) n m entries keys remotes) :=
  congrArg Host.Outcome.next (takeFrame_known h _)

/-- Settles O21: the mask goes to both tables, and the table-change notice to the engine. -/
theorem aLockNoticeIsRecorded : Obligations.ALockNoticeIsRecorded := by
  intro s n entries keys remotes m hk
  rw [exec_lockNotice hk]
  obtain ⟨-, -, -, hown, hpresent, -⟩ := hk
  refine ⟨fun h => ?_, fun hc he hkeys hr => ?_⟩
  · by_cases hc : isConsole n = true
    · rw [if_pos hc]
    · have hbad : ¬ (entries ≤ 8 ∧ keys ≤ 4 ∧ remotes ≤ 4) := by
        have := h.resolve_left hc
        omega
      rw [if_neg hc, takeLockNotice, if_neg (by simpa [and_assoc] using hbad)]
  · have hgood : (decide (entries ≤ 8) && decide (keys ≤ 4) && decide (remotes ≤ 4)) = true := by
      simp [he, hkeys, hr]
    have htake : takeLockNotice (frameRead s n) n m entries keys remotes =
        recordMask (frameRead s n) n m := if_pos hgood
    rw [hc, if_neg Bool.false_ne_true, htake, recordMask_eq hown]
    have hpeers : ∀ t : State, t.peers = (maskRecorded s n m).peers →
        peerEntry t n = { peerEntry s n with
          lastHeard := some (now s), silence := 0, mask := some m } ∧
        ∀ k, k ≠ n → peerEntry t k = peerEntry s k := by
      intro t ht
      have htable : t.peers.table = (maskRecorded s n m).peers.table := by rw [ht]
      have hset := fun k => peerEntry_setPeer (frameRead s n)
        { peerEntry (frameRead s n) n with mask := some m } k
      have hst : (peerEntry (frameRead s n) n).station = n := peerEntry_station _ n
      refine ⟨?_, fun k hkn => ?_⟩
      · rw [peerEntry_congr htable, maskRecorded, hset, if_pos hst.symm,
          peerEntry_frameRead hpresent]
      · rw [peerEntry_congr htable, maskRecorded, hset, if_neg (by rw [hst]; exact hkn),
          peerEntry_frameRead_ne s hkn]
    by_cases hsame : maskedTable s n m = s.keepOut
    · rw [if_pos hsame]
      obtain ⟨hentry, hother⟩ := hpeers _ rfl
      exact ⟨_, rfl, hentry, hother, hsame.symm, rfl, rfl, rfl, fun k hkt =>
        ⟨fun _ => rfl, fun l hne => absurd (hkt.trans hsame) hne⟩⟩
    · rw [if_neg hsame]
      have hkeeps := axisTableChange_keeps (.refl ((maskRecorded s n m).withKeepOut
        (maskedTable s n m)))
      obtain ⟨hentry, hother⟩ := hpeers _ hkeeps.peers
      refine ⟨_, rfl, hentry, hother, hkeeps.keepOut, hkeeps.lock, hkeeps.seq, hkeeps.time,
        fun k hkt => ⟨fun h => ?_, fun l hne hm hl => ⟨fun hs => ?_, fun b rest hs => ?_⟩⟩⟩
      · have hm := h.resolve_left fun h => hsame (hkt.symm.trans h)
        rw [axisTableChange_still (s := (maskRecorded s n m).withKeepOut (maskedTable s n m)) hm]
        rfl
      · rw [hkt] at hs
        rw [axisTableChange_clear (s := (maskRecorded s n m).withKeepOut (maskedTable s n m)) hl hs]
        rfl
      · rw [hkt] at hs
        rw [axisTableChange_meets (s := (maskRecorded s n m).withKeepOut (maskedTable s n m)) hm hl
          hs]
        exact ⟨keepOutStop_axis _ b, fun hf => keepOutStop_flag
          (s := (maskRecorded s n m).withKeepOut (maskedTable s n m)) hf b⟩

end Sys2Proof.Machine
end

section
/-! PROOFS. The keys (R34 to R37): their machines, their entries, and the end of CHECKING. -/

namespace Sys2Proof.Machine

variable {s t : State} {k : Nat}

/-! ### The machines (R35) -/

theorem keyChange_moves {st : KeyState} {closed : Bool} (h1 : 1 ≤ k) (h4 : k ≤ 4)
    (hh : s.seq.held = false) (hr : keyReading s k ≠ closed)
    (h : (keyMachine s k).state = .opened ∧ closed = true ∧ st = .closing ∨
      (keyMachine s k).state = .closing ∧ closed = false ∧ st = .opened ∨
      (keyMachine s k).state = .closed ∧ closed = false ∧ st = .opening ∨
      (keyMachine s k).state = .opening ∧ closed = true ∧ st = .closed) :
    keyChange s k closed =
      setKey (s.withPins { s.pins with keys := s.pins.keys.set (k - 1) closed }) k st := by
  have hcond : (isKey k && keyReading s k != closed) = true := by simp [isKey, h1, h4, hr]
  rw [keyChange, if_pos hcond]
  rcases h with ⟨hm, rfl, rfl⟩ | ⟨hm, rfl, rfl⟩ | ⟨hm, rfl, rfl⟩ | ⟨hm, rfl, rfl⟩ <;>
    simp [hh, hm]

theorem keyChange_checking {closed : Bool} (h1 : 1 ≤ k) (h4 : k ≤ 4) (hh : s.seq.held = false)
    (hr : keyReading s k ≠ closed) (h : (keyMachine s k).state = .checking) :
    keyChange s k closed = s.withPins { s.pins with keys := s.pins.keys.set (k - 1) closed } := by
  have hcond : (isKey k && keyReading s k != closed) = true := by simp [isKey, h1, h4, hr]
  rw [keyChange, if_pos hcond]
  simp [hh, h]

theorem keyChange_same {closed : Bool} (hr : keyReading s k = closed) :
    keyChange s k closed = s := by
  rw [keyChange, hr]
  exact if_neg (by simp)

/-- The machine of a key set, its scope kept. -/
theorem keyMachine_setKey (hk : k - 1 < s.lock.keys.length) (st : KeyState) :
    keyMachine (setKey s k st) k = { keyMachine s k with state := st, run := 0 } := by
  simp [keyMachine, setKey, List.getD_eq_getElem?_getD, hk]

/-- What a change of the lock list leaves besides the list (R33). -/
structure LockOnly (s t : State) : Prop where
  pins : t.pins = s.pins
  seq : t.seq = s.seq
  time : t.time = s.time
  peers : t.peers = s.peers
  sensor : t.sensor = s.sensor
  keepOut : t.keepOut = s.keepOut
  cells : t.wind.cells = s.wind.cells

theorem LockOnly.refl (s : State) : LockOnly s s := ⟨rfl, rfl, rfl, rfl, rfl, rfl, rfl⟩

theorem LockOnly.trans {u : State} (h : LockOnly s t) (k : LockOnly t u) : LockOnly s u :=
  ⟨k.pins.trans h.pins, k.seq.trans h.seq, k.time.trans h.time, k.peers.trans h.peers,
    k.sensor.trans h.sensor, k.keepOut.trans h.keepOut, k.cells.trans h.cells⟩

theorem setLockList_only (s : State) (l : List LockEntry) : LockOnly s (setLockList s l) := by
  have h := setLockList_keeps s l
  exact ⟨h.pins, h.seq, h.time, h.peers, h.sensor, h.keepOut, h.cells⟩

theorem setLockList_lock (s : State) (l : List LockEntry) :
    (setLockList s l).lock = { s.lock with list := l } := (setLockList_keeps s l).lock

/-- The key's entry joins at the end, unless the key is unused (R34, R37). -/
theorem addKeyEntry_lock (s : State) (k : Nat) : (addKeyEntry s k).lock = { s.lock with
    list := if scopeEmpty (keyMachine s k).scope then s.lock.list
      else s.lock.list ++ [⟨.key k, (keyMachine s k).scope, now s⟩] } := by
  unfold addKeyEntry
  split
  · rfl
  · exact setLockList_lock _ _

theorem addKeyEntry_only (s : State) (k : Nat) : LockOnly s (addKeyEntry s k) := by
  unfold addKeyEntry
  split
  · exact .refl s
  · exact setLockList_only _ _

theorem setKey_only (s : State) (k : Nat) (st : KeyState) : LockOnly s (setKey s k st) :=
  ⟨rfl, rfl, rfl, rfl, rfl, rfl, rfl⟩

/-- Settles O24: the machine by its state and the new reading, the entry by the count's end. -/
theorem keysAreDebounced : Obligations.KeysAreDebounced := by
  refine ⟨fun s k closed h1 h4 hh => ⟨fun hr => congrArg Host.Outcome.next (keyChange_same hr),
    fun hr t ht => ⟨fun st h => ?_, fun h => ?_⟩⟩, fun s k h1 h4 hl => ⟨fun hm hrun => ?_,
    fun hm hrun => ?_⟩⟩
  · subst ht
    exact congrArg Host.Outcome.next (keyChange_moves h1 h4 hh hr h)
  · subst ht
    exact congrArg Host.Outcome.next (keyChange_checking h1 h4 hh hr h)
  · have hend : keyClosed s k = addKeyEntry (setKey s k .closed) k :=
      if_pos (by simp [isKey, h1, h4, hm, hrun])
    have hscope : (keyMachine (setKey s k .closed) k).scope = (keyMachine s k).scope := by
      rw [keyMachine_setKey (by omega)]
    have honly := (setKey_only s k .closed).trans (addKeyEntry_only (setKey s k .closed) k)
    refine ⟨_, congrArg Host.Outcome.next hend, ?_, honly.pins, honly.seq, honly.time, honly.peers,
      honly.sensor, honly.keepOut, honly.cells⟩
    rw [addKeyEntry_lock, hscope]
    rfl
  · have hend : keyOpened s k = removeKeyEntry (setKey s k .opened) k :=
      if_pos (by simp [isKey, h1, h4, hm, hrun])
    have honly := (setKey_only s k .opened).trans (setLockList_only (setKey s k .opened)
      ((setKey s k .opened).lock.list.filter fun e => !isKeyEntry k e))
    exact ⟨_, congrArg Host.Outcome.next hend, setLockList_lock _ _, honly.pins, honly.seq,
      honly.time, honly.peers, honly.sensor, honly.keepOut, honly.cells⟩

/-! ### The end of CHECKING (R36) -/

/-- A key by its reading at the end of CHECKING. -/
def checkedKey (closed : Bool) (m : KeyMachine) : KeyMachine :=
  { m with state := if closed then .closed else .opened, run := 0 }

theorem checkKey_lock (h : (keyMachine s k).state = .checking) : (checkKey s k).lock = { s.lock with
    keys := s.lock.keys.modify (k - 1) (checkedKey (keyReading s k))
    list := s.lock.list.filter fun e => !(isKeyEntry k e && !keyReading s k) } := by
  have hcond : ((keyMachine s k).state == .checking) = true := by simp [h]
  rw [checkKey, if_pos hcond]
  cases hr : keyReading s k
  · rw [if_neg Bool.false_ne_true, removeKeyEntry, setLockList_lock]
    simp only [Bool.not_false, Bool.and_true]
    rfl
  · rw [if_pos rfl]
    simp only [Bool.not_true, Bool.and_false, Bool.not_false, List.filter_true]
    rfl

theorem checkKey_only (s : State) (k : Nat) : LockOnly s (checkKey s k) := by
  unfold checkKey
  split
  · split
    · exact setKey_only _ _ _
    · exact (setKey_only s k .opened).trans (setLockList_only _ _)
  · exact .refl s

theorem LockOnly.keyReading (h : LockOnly s t) (k : Nat) :
    Machine.keyReading t k = Machine.keyReading s k := by
  unfold Machine.keyReading
  rw [h.pins]

/-- Keys checked one after the other, each from CHECKING (R36). -/
theorem checkKeys_lock (l : List Nat) (hl : (l.map (· - 1)).Nodup)
    (h : ∀ k ∈ l, (keyMachine s k).state = .checking) : (l.foldl checkKey s).lock = { s.lock with
      keys := l.foldl (fun ks k => ks.modify (k - 1) (checkedKey (keyReading s k))) s.lock.keys
      list := s.lock.list.filter fun e => !(l.any fun k => isKeyEntry k e && !keyReading s k) } ∧
    LockOnly s (l.foldl checkKey s) := by
  induction l generalizing s with
  | nil =>
    refine ⟨?_, .refl s⟩
    simp
  | cons k l ih =>
    obtain ⟨hk, hnodup⟩ := List.nodup_cons.1 hl
    have hlock := checkKey_lock (h k List.mem_cons_self)
    have honly := checkKey_only s k
    have hrest : ∀ j ∈ l, (keyMachine (checkKey s k) j).state = .checking := fun j hj => by
      have hne : k - 1 ≠ j - 1 := fun he =>
        hk (List.mem_map.2 ⟨j, hj, he.symm⟩)
      have hsame : keyMachine (checkKey s k) j = keyMachine s j := by
        unfold keyMachine
        rw [hlock]
        show (s.lock.keys.modify (k - 1) _).getD (j - 1) _ = _
        simp [List.getD_eq_getElem?_getD, hne]
      rw [hsame]
      exact h j (List.mem_cons_of_mem k hj)
    obtain ⟨hfold, honly'⟩ := ih hnodup hrest
    have hread : keyReading (checkKey s k) = keyReading s := funext honly.keyReading
    refine ⟨?_, honly.trans honly'⟩
    rw [List.foldl_cons, hfold, hlock, hread, List.foldl_cons, List.filter_filter]
    simp only [List.any_cons, Bool.not_or, Bool.and_comm]

/-- Settles O25: the four keys are checked one after the other, each by its own reading. -/
theorem checkingEndsByTheReadings : Obligations.CheckingEndsByTheReadings := by
  intro s r hr hrun hl hall
  have hover : keyCheckingOver s = [1, 2, 3, 4].foldl checkKey
      (s.withLock { s.lock with checkRun := none }) := by
    rw [keyCheckingOver, hr]
    exact if_pos hrun
  obtain ⟨hlock, honly⟩ := checkKeys_lock (s := s.withLock { s.lock with checkRun := none })
    [1, 2, 3, 4] (by decide) fun k hk => by
      have hlt : k - 1 < s.lock.keys.length := by
        simp only [List.mem_cons, List.not_mem_nil, or_false] at hk
        omega
      show (s.lock.keys.getD (k - 1) _).state = .checking
      rw [List.getD_eq_getElem?_getD, List.getElem?_eq_getElem hlt]
      exact hall _ (List.getElem_mem hlt)
  refine ⟨_, congrArg Host.Outcome.next hover, by rw [hlock]; rfl, ?_, by rw [hlock]; rfl,
    by rw [hlock]; rfl, honly.pins, honly.seq, honly.time, honly.peers, honly.sensor,
    honly.keepOut⟩
  rw [hlock]
  obtain ⟨a, b, c, d, hkeys⟩ : ∃ a b c d, s.lock.keys = [a, b, c, d] := by
    match hk : s.lock.keys, hl with
    | [a, b, c, d], _ => exact ⟨a, b, c, d, rfl⟩
  show List.foldl (fun ks k => ks.modify (k - 1) (checkedKey (keyReading s k))) s.lock.keys
    [1, 2, 3, 4] = _
  rw [hkeys]
  rfl

end Sys2Proof.Machine
end

section
/-! PROOFS. The zones while a leg is tried, and the change of the lock mask: what the Axis Engine,
the Heater Unit and the Compact Unit make of it (R11, R25, R33, R43, R44, R161). -/

namespace Sys2Proof.Machine

variable {s s0 t u : State}

/-! ### Zones that are switched off later (R44, R161) -/

/-- A zone put OFF by a lockout. -/
def lockedOff (z : Zone) : Zone :=
  { z with state := .off, switchedAt := none, onRun := 0, lastCause := some .lock }

/-- The zone has the same switch-off before it, and has not gone OFF. -/
structure Dims (z x : Zone) : Prop where
  off : lockedOff x = lockedOff z
  on : z.state ≠ .off → x.state ≠ .off

theorem Dims.refl (z : Zone) : Dims z z := ⟨rfl, id⟩

theorem Dims.trans {x y z : Zone} (h : Dims x y) (k : Dims y z) : Dims x z :=
  ⟨k.off.trans h.off, fun hx => k.on (h.on hx)⟩

theorem zoneWant_dims (z : Zone) : Dims z (zoneWant z) := ⟨rfl, fun _ => nofun⟩

theorem zoneRest_dims (c : OffCause) (z : Zone) : Dims z (zoneRest c z) := ⟨rfl, fun _ => nofun⟩

/-- Zones are freed at most, and what demand and READY are read from is as it was. -/
structure Dimmed (s t : State) : Prop where
  sensor : t.sensor = s.sensor
  lock : t.lock = s.lock
  seq : t.seq = s.seq
  length : t.heater.zones.length = s.heater.zones.length
  zones : ∀ (i : Nat) (z : Zone), s.heater.zones[i]? = some z →
    ∃ x, t.heater.zones[i]? = some x ∧ Dims z x

theorem Still.dimmed (h : Still s t) : Dimmed s t :=
  ⟨h.sensor, h.lock, h.seq, by rw [h.heater], fun _ z hz => ⟨z, by rw [h.heater, hz], .refl z⟩⟩

theorem Dimmed.refl (s : State) : Dimmed s s := (Still.refl s).dimmed

theorem Dimmed.trans (h : Dimmed s t) (k : Dimmed t u) : Dimmed s u :=
  ⟨k.sensor.trans h.sensor, k.lock.trans h.lock, k.seq.trans h.seq, k.length.trans h.length,
    fun i z hz => by
      obtain ⟨x, hx, hd⟩ := h.zones i z hz
      obtain ⟨y, hy, hd'⟩ := k.zones i x hx
      exact ⟨y, hy, hd.trans hd'⟩⟩

theorem Dimmed.noTopUp (h : Dimmed s t) (hn : NoTopUp s) : NoTopUp t := by
  unfold NoTopUp demand isReady lockMask at hn ⊢
  rwa [h.sensor, h.lock, h.seq]

theorem changeZones_dims {zones : List Zone} (which : List Nat) {f : Zone → Zone}
    (hf : ∀ z, Dims z (f z)) {i : Nat} {z : Zone} (h : zones[i]? = some z) :
    ∃ x, (changeZones zones which f)[i]? = some x ∧ Dims z x := by
  simp only [changeZones, List.getElem?_mapIdx, h, Option.map_some]
  refine ⟨_, rfl, ?_⟩
  split
  · exact hf z
  · exact .refl z

theorem heaterNotice_dimmed (h : Dimmed s t) : Dimmed s (heaterNotice t) :=
  h.trans (heaterNotice_still (.refl t)).dimmed

theorem shed_dimmed (s : State) (amount : Nat) : Dimmed s (shed s amount) := by
  unfold shed
  split
  · exact .refl s
  · refine heaterNotice_dimmed ⟨rfl, rfl, rfl, ?_, fun i z hz => ?_⟩
    · simp [changeZones]
    · obtain ⟨x, hx, hd⟩ := changeZones_dims
        (shedPick s.heater.zones s.heater.claims.reverse amount)
        zoneWant_dims hz
      obtain ⟨y, hy, hd'⟩ := changeZones_dims (shedPick s.heater.zones s.heater.onOrder.reverse
        (amount - sharesOf s.heater.zones
          (shedPick s.heater.zones s.heater.claims.reverse amount))) (zoneRest_dims .shed) hx
      exact ⟨y, hy, hd.trans hd'⟩

theorem commitMotion_dimmed (hn : NoTopUp s) (k : Nat) : Dimmed s (commitMotion s k) := by
  have hshed := shed_dimmed s (k + s.share.heaterCommit - heldShares s)
  exact hshed.trans (settlePower_still (s0 := shed s _) (hshed.noTopUp hn)
    ((Still.refl _).withShare _) s).dimmed

/-! ### Trying a leg, as the zones see it (R11) -/

theorem completionTest_still (hn : NoTopUp s0) (h : Still s0 s) (id : Nat) :
    Still s0 (completionTest s id) := by
  unfold completionTest
  split
  · split
    · split
      · exact makeTerminal_still hn h _ _
      · split
        · exact makeTerminal_still hn h _ _
        · exact h
    · exact h
  · exact h

theorem arrivalNotice_still (hn : NoTopUp s) (id : Nat) (az el : Int) :
    Still s (arrivalNotice s id az el) := by
  unfold arrivalNotice
  split
  · dsimp only
    split
    · exact completionTest_still hn (queueFrame_still hn ((Still.refl s).withCompact _) _) _
    · split
      · exact setFlag_still hn (queueFrame_still hn ((Still.refl s).withCompact _) _) _ _ _
      · exact .refl s
  · exact .refl s

theorem jointWithdrawn_still (hn : NoTopUp s0) (h : Still s0 s) (id cause : Nat) :
    Still s0 (jointWithdrawn s id cause) := by
  unfold jointWithdrawn
  split
  · exact h
  · split
    · exact ownLeave_still hn h _ _
    · exact h

theorem startLeg_dimmed (hn : NoTopUp s) (l : Leg) (m : Motion) : Dimmed s (startLeg s l m) := by
  have hcommit : Dimmed s (shareLegStart (s.withAxis (legAxis s.axis l m)) l.movesAz l.movesEl) :=
    ((Still.refl s).withAxis _).dimmed.trans
      (commitMotion_dimmed (s := s.withAxis (legAxis s.axis l m)) hn _)
  exact hcommit.trans (judgeBlocked_still (hcommit.noTopUp hn) (.refl _)).dimmed

theorem toIdle_still (hn : NoTopUp s) : Still s (toIdle s) :=
  judgeBlocked_still hn ((Still.refl s).withAxis _)

theorem becomeStowed_still (hn : NoTopUp s) : Still s (becomeStowed s) :=
  judgeBlocked_still hn ((Still.refl s).withAxis _)

theorem flyStow_dimmed (hn : NoTopUp s) (e : MoveEntry) : Dimmed s (flyStow s e) :=
  ((Still.refl s).withAxis _).dimmed.trans
    (startLeg_dimmed (s := s.withAxis (planHead (aimStow s.axis) _)) hn _ _)

theorem startStow_dimmed (hn : NoTopUp s) (e : MoveEntry) : Dimmed s (startStow s e) := by
  unfold startStow
  split
  · split
    · exact (becomeStowed_still hn).dimmed
    · exact flyStow_dimmed hn e
  · split
    · exact (becomeStowed_still hn).dimmed
    · exact flyStow_dimmed hn e

theorem completeHead_still (hn : NoTopUp s) (e : MoveEntry) : Still s (completeHead s e) := by
  have hpop : Still s (s.withAxis (popHead s.axis)) := (Still.refl s).withAxis _
  unfold completeHead
  dsimp only
  split
  · exact hpop.trans (arrivalNotice_still (hpop.noTopUp hn) _ _ _)
  · exact hpop

theorem removeForSector_still (hn : NoTopUp s) (e : MoveEntry) (k : Nat) :
    Still s (removeForSector s e k) := by
  have hset : Still s (setFlag (s.withAxis (popHead s.axis)) flagKeepOutStop 1 k) :=
    setFlag_still hn ((Still.refl s).withAxis _) _ _ _
  unfold removeForSector
  dsimp only
  split
  · exact jointWithdrawn_still hn hset _ _
  · exact hset

theorem flyLeg_dimmed (hn : NoTopUp s) (e : MoveEntry) (p : LegPlan) (l : Leg) :
    Dimmed s (flyLeg s e p l) := by
  have hstart : Dimmed s (startLeg (s.withAxis (planHead s.axis { p with index := p.index + 1 }))
      l .leg) := ((Still.refl s).withAxis _).dimmed.trans
    (startLeg_dimmed (s := s.withAxis (planHead s.axis _)) hn l .leg)
  unfold flyLeg
  dsimp only
  split
  · exact hstart.trans ((Still.refl _).withCompact _).dimmed
  · exact hstart

theorem tryStartN_dimmed (k : Nat) (hn : NoTopUp s) : Dimmed s (tryStartN k s) := by
  induction k generalizing s with
  | zero => exact .refl s
  | succ k ih =>
    have hnext : ∀ {t}, Still s t → Dimmed s (tryStartN k t) := fun ht =>
      ht.dimmed.trans (ih (ht.noTopUp hn))
    rw [tryStartN]
    split
    · split
      · split
        · exact (toIdle_still hn).dimmed
        · exact .refl s
      · split
        · split
          · exact .refl s
          · split
            · exact startStow_dimmed hn _
            · exact hnext ((Still.refl s).withAxis _)
        · split
          · exact .refl s
          · dsimp only
            split
            · exact hnext (completeHead_still hn _)
            · split
              · exact .refl s
              · split
                · exact hnext (removeForSector_still hn _ _)
                · exact flyLeg_dimmed hn _ _ _
    · exact .refl s

/-- With no entry in the queue the zones stand. -/
theorem tryStart_empty_still (hn : NoTopUp s) (hq : s.axis.queue = []) : Still s (tryStart s) := by
  rw [tryStart, tryStartN]
  split
  · rw [hq]
    dsimp only
    split
    · exact toIdle_still hn
    · exact .refl s
  · exact .refl s

/-! ### The change of the lock mask (R25, R33, R43, R44) -/

/-- The axes are locked by the change. -/
def locksAxes (old new : Scope) : Bool := new.az && !old.az || new.el && !old.el

theorem addReason_still (s : State) (r : StopReason) : Still s (addReason s r) := by
  unfold addReason
  split
  · exact (Still.refl s).withAxis _
  · exact .refl s

/-- The axes newly locked, the engine stops, and no leg is tried (R25). -/
theorem axisMaskNotice_locks {old new : Scope} (h : locksAxes old new = true) :
    axisMaskNotice s old new =
      match s.axis.motion with
      | .leg => flush (beginStop s .lock) reasonLock
      | .gap => flush (beginStop s .lock) reasonLock
      | .stopping => flush (addReason s .lock) reasonLock
      | .idle => flush s reasonLock
      | .stowing => if new.el && !old.el then beginStop s .lock else s
      | _ => s := if_pos h

theorem axisMaskNotice_locks_still {old new : Scope} (h : locksAxes old new = true)
    (hn : NoTopUp s) : Still s (axisMaskNotice s old new) := by
  rw [axisMaskNotice_locks h]
  split
  · exact flush_still hn (beginStop_still hn (.refl s) _) _
  · exact flush_still hn (beginStop_still hn (.refl s) _) _
  · exact flush_still hn (addReason_still s _) _
  · exact flush_still hn (.refl s) _
  · split
    · exact beginStop_still hn (.refl s) _
    · exact .refl s
  · exact .refl s

theorem axisMaskNotice_dimmed {old new : Scope} (hn : NoTopUp s) :
    Dimmed s (axisMaskNotice s old new) := by
  by_cases h : locksAxes old new = true
  · exact (axisMaskNotice_locks_still h hn).dimmed
  · have htry : axisMaskNotice s old new = tryStart s := if_neg h
    rw [htry]
    exact tryStartN_dimmed _ hn

theorem axisMaskNotice_empty_still {old new : Scope} (hn : NoTopUp s) (hq : s.axis.queue = []) :
    Still s (axisMaskNotice s old new) := by
  by_cases h : locksAxes old new = true
  · exact axisMaskNotice_locks_still h hn
  · have htry : axisMaskNotice s old new = tryStart s := if_neg h
    rw [htry]
    exact tryStart_empty_still hn hq

/-- What follows the Axis Engine's part of a change of the lock mask. -/
def afterAxisMask (s : State) (old new : Scope) : State :=
  let t := reviseBeaconMask (judgeBlocked (compactMaskNotice (heaterMaskNotice s old new) old new))
  queueFrame t (lockNoticeFrame t)

theorem maskChanged_eq (s : State) (old new : Scope) :
    maskChanged s old new = afterAxisMask (axisMaskNotice s old new) old new := rfl

/-- HEAT newly locked, the zones are OFF with cause LOCK, and stay so (R44, R163). -/
theorem afterAxisMask_heater {old new : Scope} (hn : NoTopUp s)
    (h : (new.heat && !old.heat) = true) :
    (afterAxisMask s old new).heater = { s.heater with
      zones := s.heater.zones.map (zoneOff .lock), claims := [], onOrder := [],
        admitted := 0 } := by
  have hoff : heaterMaskNotice s old new = allOff s .lock := if_pos h
  have hsilent := heaterMaskNotice_silent (.refl s) old new
  have hn' : NoTopUp (heaterMaskNotice s old new) := by
    unfold NoTopUp demand isReady lockMask at hn ⊢
    rwa [hsilent.sensor, hsilent.lock, hsilent.seq]
  have hheater := hoff ▸ allOff_heater hn .lock
  unfold afterAxisMask
  generalize heaterMaskNotice s old new = v at hn' hheater ⊢
  have hleave : Still v (compactMaskNotice v old new) := by
    unfold compactMaskNotice
    split
    · exact leaveAll_still hn' (.refl v) _
    · exact .refl v
  exact (queueFrame_still hn' ((judgeBlocked_still hn' hleave).withLine _) _).heater.trans hheater

theorem compactMaskNotice_worked (s : State) (old new : Scope) :
    Worked s (compactMaskNotice s old new) := by
  unfold compactMaskNotice
  split
  · exact leaveAll_worked s _
  · exact .refl s

theorem afterAxisMask_worked (s : State) (old new : Scope) :
    Worked s (afterAxisMask s old new) :=
  ((((heaterMaskNotice_silent (.refl s) old new).worked.trans
    (compactMaskNotice_worked _ old new)).trans (judgeBlocked_worked _)).trans
    (reviseBeaconMask_silent _).worked).trans (queueFrame_worked _ _)

/-- A leg in flight when the axes are locked stops, and the queue is flushed (R25). -/
theorem maskChanged_leg {old new : Scope} (h : locksAxes old new = true)
    (hm : s.axis.motion = .leg) : (maskChanged s old new).axis =
      flushed (stopping s.axis .lock) := by
  have haxis : (axisMaskNotice s old new).axis = flushed (stopping s.axis .lock) := by
    rw [axisMaskNotice_locks h, hm]
    dsimp only
    rw [flush_axis, beginStop_axis]
  rw [maskChanged_eq, (afterAxisMask_worked _ old new).axis (haxis ▸ flushed_noJoint _), haxis]

/-! ### No compact is flown -/

theorem ownFlying_forming (h : ∀ r ∈ s.compact.list, r.state = .forming) : ownFlying s = [] := by
  refine List.filter_eq_nil_iff.2 fun r hr => ?_
  simp [isFlying, h r hr]

theorem ownFlying_congr (hc : t.compact = s.compact) (hs : t.seq = s.seq) :
    ownFlying t = ownFlying s := by
  unfold ownFlying
  rw [hc, hs]

theorem flush_grounded (h : ownFlying s = []) (cause : Nat) :
    flush s cause = s.withAxis (flushed s.axis) := by
  rw [flush_eq]
  exact noticeRemoved_none (s := s.withAxis (flushed s.axis)) h _ _

theorem beginStop_grounded (h : ownFlying s = []) (r : StopReason) :
    ownFlying (beginStop s r) = [] :=
  (ownFlying_congr (beginStop_compact s r) (beginStop_keeps (.refl s) r).seq).trans h

theorem addReason_grounded (h : ownFlying s = []) (r : StopReason) :
    ownFlying (addReason s r) = [] :=
  (ownFlying_congr (addReason_compact s r) (addReason_still s r).seq).trans h

/-- A station that flies no compact leaves none at a lockout (R43). -/
theorem maskChanged_grounded {old new : Scope} (h : locksAxes old new = true)
    (hg : ownFlying s = []) : (maskChanged s old new).compact = s.compact := by
  have haxis : (axisMaskNotice s old new).compact = s.compact ∧
      (axisMaskNotice s old new).seq = s.seq := by
    refine ⟨?_, (axisMaskNotice_keeps (.refl s) old new).seq⟩
    rw [axisMaskNotice_locks h]
    split
    · rw [flush_grounded (beginStop_grounded hg _)]
      exact beginStop_compact s _
    · rw [flush_grounded (beginStop_grounded hg _)]
      exact beginStop_compact s _
    · rw [flush_grounded (addReason_grounded hg _)]
      exact addReason_compact s _
    · rw [flush_grounded hg]
      rfl
    · split
      · exact beginStop_compact s _
      · rfl
    · rfl
  obtain ⟨hc, hseq⟩ := haxis
  have hsilent := heaterMaskNotice_silent (.refl (axisMaskNotice s old new)) old new
  rw [maskChanged_eq, ← hc]
  unfold afterAxisMask
  generalize axisMaskNotice s old new = v at hc hseq hsilent ⊢
  generalize heaterMaskNotice v old new = w at hsilent ⊢
  have hstay : compactMaskNotice w old new = w := by
    unfold compactMaskNotice
    split
    · exact leaveAll_none ((ownFlying_congr (hsilent.compact.trans hc)
        (hsilent.seq.trans hseq)).trans hg) _
    · rfl
  rw [hstay]
  exact (queueFrame_silent (.refl _) _).compact.trans
    ((reviseBeaconMask_silent _).compact.trans ((judgeBlocked_compact w).trans hsilent.compact))

/-! ### The compact that the station flies (R43, R111) -/

/-- What stands between two steps of a leaving: the station has yet to leave its compact, or has
left it. -/
structure Leaving (n : Nat) (s : State) (own : Nat) (r : CompactRecord) (reason : Nat) : Prop where
  ids : s.compact.list.map (·.id) = [r.id]
  number : s.seq.number = own
  clash : isClash s = false
  stage : MayLeave n s r reason ∨ HasLeft (n + 5) s own r reason

section Leaving
variable {n m own reason : Nat} {r : CompactRecord}

theorem MayLeave.after (h : MayLeave n s r reason) (hc : t.compact = s.compact)
    (hs : t.seq = s.seq) (hf : FlagsStay s t) (hq : Frugal (isLeaveFrame r.id reason) m s t)
    (hn : n + m ≤ 10) : MayLeave (n + m) t r reason := by
  obtain ⟨hm, hheld⟩ := hq n hn h.modest
  exact ⟨hc ▸ h.list, h.flying, hs ▸ h.accepted, (transmits_congr hs).trans h.transmits,
    hf.length.trans h.flags, hm, hheld.trans h.none⟩

theorem Leaving.after (h : Leaving n s own r reason) (hc : t.compact = s.compact)
    (hs : t.seq = s.seq) (hf : FlagsStay s t) (hq : Frugal (isLeaveFrame r.id reason) m s t)
    (hn : n + m ≤ 5) : Leaving (n + m) t own r reason := by
  refine ⟨hc ▸ h.ids, hs ▸ h.number, ?_, h.stage.imp (fun hm => hm.after hc hs hf hq (by omega))
    fun hl => ?_⟩
  · have := h.clash
    unfold isClash at this ⊢
    rwa [hs]
  · have := hl.after hc hf hq (by omega)
    rwa [show n + 5 + m = n + m + 5 by omega] at this

/-- Of the entries that leave the queue one at most has the station leave its compact. -/
theorem MayLeave.noticeRemoved_cases (h : MayLeave n s r reason) (hn : n ≤ 5)
    (gone : List MoveEntry) : noticeRemoved s gone reason = s ∨
      noticeRemoved s gone reason = ownLeave s r reason := by
  induction gone with
  | nil => exact .inl rfl
  | cons e rest ih =>
    have hstep : (if e.origin == .joint then jointWithdrawn s e.compactId reason else s) = s ∨
        (if e.origin == .joint then jointWithdrawn s e.compactId reason else s) =
          ownLeave s r reason := by
      split
      · unfold jointWithdrawn
        split
        · exact .inl rfl
        · rw [ownFlying_single h.list h.flying h.accepted]
          by_cases hid : r.id = e.compactId
          · exact .inr (by simp [hid])
          · exact .inl (by simp [hid])
      · exact .inl rfl
    rcases hstep with hstep | hstep
    · have hrest : noticeRemoved s (e :: rest) reason = noticeRemoved s rest reason := by
        rw [noticeRemoved, List.foldl_cons, hstep]
        rfl
      rw [hrest]
      exact ih
    · have hrest : noticeRemoved s (e :: rest) reason =
          noticeRemoved (ownLeave s r reason) rest reason := by
        rw [noticeRemoved, List.foldl_cons, hstep]
        rfl
      rw [hrest, noticeRemoved_none (h.left_nil hn)]
      exact .inr rfl

theorem Leaving.grounded (h : HasLeft m s own r reason) (hids : s.compact.list.map (·.id) = [r.id])
    (hown : s.seq.number = own) : ownFlying s = [] := by
  subst hown
  exact h.ownFlying_nil hids

/-- The own LEAVE on the way. -/
theorem Leaving.ownLeave (h : MayLeave n s r reason) (hn : n ≤ 5) (hown : s.seq.number = own)
    (hc : isClash s = false) : Leaving n (ownLeave s r reason) own r reason := by
  have hrecs := ownLeave_recs (.refl s) r reason
  subst hown
  refine ⟨?_, congrArg SeqUnit.number hrecs.seq, ?_, .inr (ownLeave_hasLeft h hn)⟩
  · rw [hrecs.ids, h.list]
    rfl
  · unfold isClash at hc ⊢
    rwa [hrecs.seq]

theorem Leaving.flush (h : Leaving n s own r reason) (hn : n ≤ 5) :
    Leaving n (flush s reason) own r reason := by
  obtain ⟨hids, hown, hclash, hstage⟩ := h
  rcases hstage with hm | hl
  · have hm' : MayLeave n (s.withAxis (flushed s.axis)) r reason := by
      simpa using hm.after (m := 0) (t := s.withAxis (flushed s.axis)) rfl rfl (.of_eq rfl)
        (.of_eq rfl rfl rfl) (by omega)
    rw [flush_eq]
    rcases hm'.noticeRemoved_cases hn (s.axis.queue.filter fun e => e.origin != .stow) with h | h
    · rw [h]
      exact ⟨hids, hown, hclash, .inl hm'⟩
    · rw [h]
      exact .ownLeave hm' hn hown hclash
  · rw [flush_grounded (Leaving.grounded hl hids hown)]
    exact ⟨hids, hown, hclash, .inr (by
      simpa using hl.after (m := 0) (t := s.withAxis (flushed s.axis)) rfl (.of_eq rfl)
        (.of_eq rfl rfl rfl) (by omega))⟩

theorem Leaving.leaveAll (h : Leaving n s own r reason) (hn : n ≤ 5) :
    HasLeft (n + 5) (leaveAll s reason) own r reason := by
  obtain ⟨hids, hown, -, hm | hl⟩ := h
  · rw [hm.leaveAll_eq, ← hown]
    exact ownLeave_hasLeft hm hn
  · rwa [leaveAll_none (Leaving.grounded hl hids hown)]

end Leaving

/-- The axes' part of a lockout, as the leaving sees it (R25). -/
theorem Leaving.axisMaskNotice {own : Nat} {r : CompactRecord} {old new : Scope}
    (h : Leaving 0 s own r reasonLock) (hl : locksAxes old new = true) :
    Leaving 1 (axisMaskNotice s old new) own r reasonLock := by
  have hk := isLeaveFrame_kind r.id reasonLock
  have hstay : Leaving 1 s own r reasonLock :=
    h.after rfl rfl (.refl s) ((Frugal.refl s).mono (Nat.zero_le 1)) (by decide)
  have hstop : Leaving 1 (beginStop s .lock) own r reasonLock :=
    h.after (beginStop_compact s _) (beginStop_keeps (.refl s) _).seq
      ((judgeBlocked_flagsStay _).before rfl) (beginStop_frugal hk _) (by decide)
  have hreason : Leaving 1 (addReason s .lock) own r reasonLock := by
    refine hstay.after (m := 0) (addReason_compact s _) (addReason_still s _).seq ?_ ?_ (by decide)
    all_goals
      unfold addReason
      split
    · exact .of_eq rfl
    · exact .refl s
    · exact .of_eq rfl rfl rfl
    · exact .refl s
  rw [axisMaskNotice_locks hl]
  split
  · exact hstop.flush (by decide)
  · exact hstop.flush (by decide)
  · exact hreason.flush (by decide)
  · exact hstay.flush (by decide)
  · split
    · exact hstop
    · exact hstay
  · exact hstay

theorem reviseBeaconMask_frugal {p : Frame → Bool} (hp : CoordKind p) :
    Frugal p 0 s (reviseBeaconMask s) :=
  reviseFrames_frugal fun e => by
    split
    case h_1 he =>
      exact .inr ⟨hp.not_of_class (he ▸ nofun), hp.not_of_class nofun, by simp [isAsk, he],
        by simp [isInrush, he]⟩
    case h_2 => exact .inl rfl

/-- A compact that a READY station flies is left at a lockout of the axes (R43, R111). -/
theorem FliesAlone.maskChanged_hasLeft {r : CompactRecord} {old new : Scope} (h : FliesAlone s r)
    (hl : locksAxes old new = true) :
    HasLeft 8 (maskChanged s old new) s.seq.number r reasonLock := by
  obtain ⟨hready, hheld, hq, hflags, hlist, hfly, hacc⟩ := h
  have hk := isLeaveFrame_kind r.id reasonLock
  have hmay : MayLeave 0 s r reasonLock := by
    refine ⟨hlist, hfly, hacc, ?_, hflags, .nil hq, by simp [heldOf, hq]⟩
    simp [transmits, isReady, hready, hheld]
  have haxis := Leaving.axisMaskNotice (s := s) (own := s.seq.number) (new := new) (old := old)
    ⟨by rw [hlist]; rfl, rfl, by simp [isClash, hready], .inl hmay⟩ hl
  rw [maskChanged_eq]
  unfold afterAxisMask
  generalize Machine.axisMaskNotice s old new = v at haxis ⊢
  have hsilent := heaterMaskNotice_silent (.refl v) old new
  have hfrugal : Frugal (isLeaveFrame r.id reasonLock) 0 v (heaterMaskNotice v old new) := by
    unfold heaterMaskNotice
    split
    · exact allOff_frugal hk _
    · exact .refl v
  have hheater := haxis.after hsilent.compact hsilent.seq hsilent.flagsStay hfrugal (by decide)
  generalize heaterMaskNotice v old new = w at hheater ⊢
  have hcompact : compactMaskNotice w old new = Machine.leaveAll w reasonLock := if_pos hl
  have hleft := hheater.leaveAll (by decide)
  rw [hcompact]
  generalize Machine.leaveAll w reasonLock = x at hleft ⊢
  have hjudged := hleft.after (judgeBlocked_compact x) (judgeBlocked_flagsStay x)
    (judgeBlocked_frugal hk) (by decide)
  have hbeacon := reviseBeaconMask_silent (judgeBlocked x)
  have hrevised := hjudged.after (m := 0) hbeacon.compact hbeacon.flagsStay
    (reviseBeaconMask_frugal hk) (by decide)
  have hnotice := queueFrame_silent (.refl (reviseBeaconMask (judgeBlocked x)))
    (lockNoticeFrame (reviseBeaconMask (judgeBlocked x)))
  exact hrevised.after hnotice.compact hnotice.flagsStay
    (queueFrame_frugal hk (by simp [lockNoticeFrame, isLeaveFrame]) rfl) (by decide)

end Sys2Proof.Machine
end

section
/-! PROOFS. Remote lockouts (R38 to R41): the outcomes, the ANSWER, and what a lockout set or
cleared changes. -/

namespace Sys2Proof.Machine

variable {s t : State} {n token : Nat} {m : Scope}

theorem exec_lockSet (h : Known s n) (target token : Nat) (m : Scope) :
    exec (.lockSet n target token m) s =
      .next (takeLockSet (frameRead s n) n target token m) :=
  congrArg Host.Outcome.next (takeFrame_known h _)

theorem exec_lockClear (h : Known s n) (target token : Nat) :
    exec (.lockClear n target token) s = .next (takeLockClear (frameRead s n) n target token) :=
  congrArg Host.Outcome.next (takeFrame_known h _)

/-! ### The outcomes (R38, R39) -/

theorem lockSetOutcome_eq (s : State) (n token : Nat) (m : Scope) : lockSetOutcome s n token m =
    if isConsole n = false then 6 else if scopeEmpty m = true ∨ token = 0 then 7
    else if s.lock.list.any (hasToken token) then 4
    else if 4 ≤ (s.lock.list.filter isRemote).length then 3 else 0 := by
  simp [lockSetOutcome, outcomeNotConsole, outcomeBadScope, outcomeDuplicate, outcomeFull,
    outcomeOk]

theorem lockClearOutcome_eq (s : State) (n token : Nat) : lockClearOutcome s n token =
    if isConsole n = false then 6 else if s.lock.list.any (hasToken token) then 0 else 5 := by
  simp [lockClearOutcome, outcomeNotConsole, outcomeNoSuchToken, outcomeOk]

theorem takeLockSet_other {target : Nat} (h : target ≠ s.seq.number) :
    takeLockSet s n target token m = s := if_neg (by simpa using h)

theorem takeLockClear_other {target : Nat} (h : target ≠ s.seq.number) :
    takeLockClear s n target token = s := if_neg (by simpa using h)

theorem takeLockSet_refused {o : Nat} (h : lockSetOutcome s n token m = o) (ho : o ≠ 0) :
    takeLockSet s n s.seq.number token m = answerLock s n 4 token o := by
  simp [takeLockSet, h, outcomeOk, ho, subjectLockSet]

/-- The list with a remote lockout at its end (R38). -/
def joinedList (s : State) (n token : Nat) (m : Scope) : List LockEntry :=
  s.lock.list ++ [⟨.remote token n, m, now s⟩]

theorem takeLockSet_ok (h : lockSetOutcome s n token m = 0) :
    takeLockSet s n s.seq.number token m = answerLock
      (setLockList s (joinedList s n token m)) n 4 token 0 := by
  simp [takeLockSet, joinedList, h, outcomeOk, subjectLockSet]

theorem takeLockClear_refused {o : Nat} (h : lockClearOutcome s n token = o) (ho : o ≠ 0) :
    takeLockClear s n s.seq.number token = answerLock s n 5 token o := by
  simp [takeLockClear, h, outcomeOk, ho, subjectLockClear]

theorem takeLockClear_ok (h : lockClearOutcome s n token = 0) :
    takeLockClear s n s.seq.number token = answerLock
      (setLockList s (s.lock.list.filter fun e => !hasToken token e)) n 5 token 0 := by
  simp [takeLockClear, h, outcomeOk, subjectLockClear]

/-! ### The ANSWER (R40, R41) -/

theorem answerLock_sent (h : s.seq.station ≠ .listen) (n subject token o : Nat) :
    answerLock s n subject token o = queueFrame s (.answer n subject token o none) :=
  if_neg (by simpa using h)

theorem answerLock_kept (h : s.seq.station = .listen) (n subject token o : Nat) :
    answerLock s n subject token o = if s.lock.pending.length < 8 then
      s.withLock { s.lock with pending := s.lock.pending ++ [⟨n, subject, token, o⟩] } else s :=
  if_pos (by simp [h])

theorem queueFrame_only (s : State) (f : Frame) : LockOnly s (queueFrame s f) := by
  have h := queueFrame_silent (.refl s) f
  exact ⟨h.pins, h.seq, h.time, h.peers, h.sensor, h.keepOut, congrArg WindUnit.cells h.wind⟩

theorem answerLock_only (s : State) (n subject token o : Nat) :
    LockOnly s (answerLock s n subject token o) := by
  by_cases h : s.seq.station = .listen
  · rw [answerLock_kept h]
    split
    · exact ⟨rfl, rfl, rfl, rfl, rfl, rfl, rfl⟩
    · exact .refl s
  · rw [answerLock_sent h]
    exact queueFrame_only _ _

theorem answerLock_lock (s : State) (n subject token o : Nat) :
    (answerLock s n subject token o).lock = { s.lock with
      pending := if s.seq.station = .listen ∧ s.lock.pending.length < 8 then
        s.lock.pending ++ [⟨n, subject, token, o⟩] else s.lock.pending } := by
  by_cases h : s.seq.station = .listen
  · rw [answerLock_kept h]
    by_cases hp : s.lock.pending.length < 8
    · rw [if_pos hp, if_pos ⟨h, hp⟩]
      rfl
    · rw [if_neg hp, if_neg fun k => hp k.2]
  · rw [answerLock_sent h, if_neg fun k => h k.1]
    exact (queueFrame_silent (.refl s) _).lock

theorem answerLock_worked (s : State) (n subject token o : Nat) :
    Worked s (answerLock s n subject token o) := by
  by_cases h : s.seq.station = .listen
  · rw [answerLock_kept h]
    split
    · exact ⟨rfl, fun _ => rfl⟩
    · exact .refl s
  · rw [answerLock_sent h]
    exact queueFrame_worked s _

theorem answerLock_compact (s : State) (n subject token o : Nat) :
    (answerLock s n subject token o).compact = s.compact := by
  by_cases h : s.seq.station = .listen
  · rw [answerLock_kept h]
    split <;> rfl
  · rw [answerLock_sent h]
    exact (queueFrame_silent (.refl s) _).compact

theorem answerLock_heater (hn : NoTopUp s) (n subject token o : Nat) :
    (answerLock s n subject token o).heater = s.heater := by
  by_cases h : s.seq.station = .listen
  · rw [answerLock_kept h]
    split <;> rfl
  · rw [answerLock_sent h]
    exact (queueFrame_still hn (.refl s) _).heater

/-! ### The mask that a lockout gives -/

/-- The lockout joins the list, before its notice. -/
def lockJoined (s : State) (n token : Nat) (m : Scope) : State :=
  s.withLock { s.lock with list := joinedList s n token m }

theorem lockMask_joined (s : State) (n token : Nat) (m : Scope) :
    lockMask (lockJoined s n token m) = scopeUnion (lockMask s) m := by
  simp [lockMask, lockJoined, joinedList]

theorem setLockList_same {l : List LockEntry}
    (h : lockMask (s.withLock { s.lock with list := l }) = lockMask s) :
    setLockList s l = s.withLock { s.lock with list := l } := if_pos (beq_iff_eq.2 h)

theorem setLockList_notified {l : List LockEntry}
    (h : lockMask (s.withLock { s.lock with list := l }) ≠ lockMask s) :
    setLockList s l = maskChanged (s.withLock { s.lock with list := l }) (lockMask s)
      (lockMask (s.withLock { s.lock with list := l })) :=
  if_neg (by simpa using h)

theorem locksAxes_union (a b : Scope) :
    locksAxes a (scopeUnion a b) = (b.az && !a.az || b.el && !a.el) := by
  unfold locksAxes scopeUnion
  cases a.az <;> cases a.el <;> simp

theorem joined_notified (h : scopeUnion (lockMask s) m ≠ lockMask s) (n token : Nat) :
    setLockList s (joinedList s n token m) =
      maskChanged (lockJoined s n token m) (lockMask s) (scopeUnion (lockMask s) m) := by
  rw [← lockMask_joined s n token m] at h ⊢
  exact setLockList_notified h

theorem union_ne_of_axes (h : (m.az && !(lockMask s).az || m.el && !(lockMask s).el) = true) :
    scopeUnion (lockMask s) m ≠ lockMask s := fun he => by
  have haz := congrArg Scope.az he
  have hel := congrArg Scope.el he
  simp only [scopeUnion] at haz hel
  revert h haz hel
  cases m.az <;> cases m.el <;> cases (lockMask s).az <;> cases (lockMask s).el <;> simp

theorem union_ne_of_heat (hm : m.heat = true) (h : (lockMask s).heat = false) :
    scopeUnion (lockMask s) m ≠ lockMask s := fun he => by
  have := congrArg Scope.heat he
  simp [scopeUnion, hm, h] at this

/-- HEAT newly locked puts every zone OFF with cause LOCK (R44, R163). -/
theorem joined_heater (hm : m.heat = true) (h : (lockMask s).heat = false) (n token : Nat) :
    NoTopUp (setLockList s (joinedList s n token m)) ∧
    ∃ u, (setLockList s (joinedList s n token m)).heater = { u with
        zones := u.zones.map (zoneOff .lock), claims := [], onOrder := [], admitted := 0 } ∧
      u.zones.length = s.heater.zones.length ∧
      (s.axis.queue = [] → u = s.heater) ∧
      ∀ (i : Nat) (z : Zone), s.heater.zones[i]? = some z →
        ∃ x, u.zones[i]? = some x ∧ Dims z x := by
  have hn : NoTopUp (lockJoined s n token m) := by
    simp [NoTopUp, demand, lockMask_joined, scopeUnion, hm]
  have hlock := setLockList_keeps s (joinedList s n token m)
  refine ⟨?_, (axisMaskNotice (lockJoined s n token m) (lockMask s)
    (scopeUnion (lockMask s) m)).heater, ?_, ?_, ?_, ?_⟩
  · unfold NoTopUp demand isReady lockMask at hn ⊢
    rwa [hlock.sensor, hlock.lock, hlock.seq]
  · rw [joined_notified (union_ne_of_heat hm h), maskChanged_eq]
    exact afterAxisMask_heater ((axisMaskNotice_dimmed hn).noTopUp hn)
      (by simp [scopeUnion, hm, h])
  · exact (axisMaskNotice_dimmed hn).length
  · intro hq
    exact (axisMaskNotice_empty_still hn hq).heater
  · exact (axisMaskNotice_dimmed hn).zones

theorem zoneOff_dims {z x : Zone} (h : Dims z x) : (zoneOff .lock x).enable = z.enable ∧
    (zoneOff .lock x).shares = z.shares ∧ (zoneOff .lock x).state = .off ∧
    (z.state ≠ .off → zoneOff .lock x = { z with
      state := .off, switchedAt := none, onRun := 0, lastCause := some .lock }) := by
  have hoff : (zoneOff .lock x).state = .off := by
    unfold zoneOff
    split
    · exact beq_iff_eq.1 ‹_›
    · rfl
  have henable : (zoneOff .lock x).enable = x.enable := by
    unfold zoneOff
    split <;> rfl
  have hshares : (zoneOff .lock x).shares = x.shares := by
    unfold zoneOff
    split <;> rfl
  have hkept : x.enable = z.enable ∧ x.shares = z.shares :=
    ⟨congrArg Zone.enable (a₁ := lockedOff x) (a₂ := lockedOff z) h.off,
      congrArg Zone.shares (a₁ := lockedOff x) (a₂ := lockedOff z) h.off⟩
  refine ⟨henable.trans hkept.1, hshares.trans hkept.2,
    hoff, fun hz => ?_⟩
  have hx : zoneOff .lock x = lockedOff x := if_neg (by simpa using h.on hz)
  exact hx.trans h.off

theorem queueFrame_notice_flags (s : State) (f : Frame) : FlagsStay s (queueFrame s f) :=
  (queueFrame_silent (.refl s) f).flagsStay

/-- What a lockout set leaves besides the list, the ANSWER included. -/
theorem lockSet_only (l : List LockEntry) (subject token : Nat) :
    LockOnly s (answerLock (setLockList s l) n subject token 0) :=
  (setLockList_only s l).trans (answerLock_only _ _ _ _ _)

theorem lockSet_lock (l : List LockEntry) (subject token : Nat) :
    (answerLock (setLockList s l) n subject token 0).lock = { s.lock with
      list := l
      pending := if s.seq.station = .listen ∧ s.lock.pending.length < 8 then
        s.lock.pending ++ [⟨n, subject, token, 0⟩] else s.lock.pending } := by
  rw [answerLock_lock, setLockList_lock, (setLockList_only s l).seq]

/-- A compact that the station flies is left at a lockout of an axis, its ANSWER sent (R43). -/
theorem joined_leftBy {r : CompactRecord}
    (h : (m.az && !(lockMask s).az || m.el && !(lockMask s).el) = true) (hf : FliesAlone s r) :
    LeftBy s (answerLock (setLockList s (joinedList s n token m))
      n 4 token 0) r reasonLock := by
  have hfly : FliesAlone (lockJoined s n token m) r := hf
  have hleft := hfly.maskChanged_hasLeft (old := lockMask s) (new := scopeUnion (lockMask s) m)
    ((locksAxes_union _ _).trans h)
  rw [← joined_notified (union_ne_of_axes h)] at hleft
  have hst : (setLockList s (joinedList s n token m)).seq.station ≠
      .listen := by
    rw [(setLockList_only s _).seq, hf.1]
    exact nofun
  rw [answerLock_sent hst]
  exact HasLeft.leftBy (s := s) (hleft.after (m := 1) (queueFrame_silent (.refl _) _).compact
    (queueFrame_notice_flags _ _)
    (queueFrame_frugal (isLeaveFrame_kind _ _) (by simp [isLeaveFrame]) rfl) (by decide))

/-- A lockout of an axis stops a leg in flight and flushes the queue (R25). -/
theorem joined_axis (h : (m.az && !(lockMask s).az || m.el && !(lockMask s).el) = true)
    (hm : s.axis.motion = .leg) (subject : Nat) :
    (answerLock (setLockList s (joinedList s n token m))
      n subject token 0).axis = flushed (stopping s.axis .lock) := by
  have haxis : (setLockList s (joinedList s n token m)).axis =
      flushed (stopping s.axis .lock) := by
    rw [joined_notified (union_ne_of_axes h)]
    exact maskChanged_leg (s := lockJoined s n token m) ((locksAxes_union _ _).trans h) hm
  rw [(answerLock_worked _ n subject token 0).axis (haxis ▸ flushed_noJoint _), haxis]

/-- A record in FORMING stays at a lockout (R43). -/
theorem joined_compact (h : (m.az && !(lockMask s).az || m.el && !(lockMask s).el) = true)
    (hf : ∀ r ∈ s.compact.list, r.state = .forming) (subject : Nat) :
    (answerLock (setLockList s (joinedList s n token m))
      n subject token 0).compact = s.compact := by
  rw [answerLock_compact, joined_notified (union_ne_of_axes h)]
  exact maskChanged_grounded (s := lockJoined s n token m) ((locksAxes_union _ _).trans h)
    (ownFlying_forming (s := lockJoined s n token m) hf)

/-- The zones after a lockout that covers HEAT anew (R44, R163). -/
theorem joined_zones (hm : m.heat = true) (h : (lockMask s).heat = false)
    (ht : t = answerLock (setLockList s (joinedList s n token m)) n 4 token 0) :
    t.heater.claims = [] ∧ t.heater.onOrder = [] ∧
      t.heater.zones.length = s.heater.zones.length ∧
      (s.axis.queue = [] → t.heater.zones = s.heater.zones.map (zoneOff .lock)) ∧
      ∀ (i : Nat) (z : Zone), s.heater.zones[i]? = some z → ∃ x, t.heater.zones[i]? = some x ∧
        x.enable = z.enable ∧ x.shares = z.shares ∧ x.state = .off ∧
        (z.state ≠ .off → x = { z with
          state := .off, switchedAt := none, onRun := 0, lastCause := some .lock }) := by
  obtain ⟨hn, u, hu, hlen, hempty, hzones⟩ := joined_heater hm h n token
  rw [ht, answerLock_heater hn, hu]
  refine ⟨rfl, rfl, by rw [List.length_map]; exact hlen, fun hq => ?_, fun i z hz => ?_⟩
  · rw [hempty hq]
  · obtain ⟨x, hx, hd⟩ := hzones i z hz
    exact ⟨zoneOff .lock x, by rw [List.getElem?_map, hx]; rfl, zoneOff_dims hd⟩

/-- Settles O23: the outcomes by the list, and the lockout that joins or leaves by the notice of the
mask. -/
theorem remoteLocksAreSetAndCleared : Obligations.RemoteLocksAreSetAndCleared := by
  intro s n token m hk
  have hset := fun target => exec_lockSet hk target token m
  have hclear := fun target => exec_lockClear hk target token
  have hrefuse : ∀ o, lockSetOutcome s n token m = o → o ≠ 0 →
      exec (.lockSet n s.seq.number token m) s =
        .next (answerLock (frameRead s n) n 4 token o) := fun o ho h0 => by
    rw [hset]
    exact congrArg Host.Outcome.next (takeLockSet_refused (s := frameRead s n) ho h0)
  have hrefuse' : ∀ o, lockClearOutcome s n token = o → o ≠ 0 →
      exec (.lockClear n s.seq.number token) s =
        .next (answerLock (frameRead s n) n 5 token o) := fun o ho h0 => by
    rw [hclear]
    exact congrArg Host.Outcome.next (takeLockClear_refused (s := frameRead s n) ho h0)
  have hout := lockSetOutcome_eq s n token m
  have hout' := lockClearOutcome_eq s n token
  refine ⟨fun target ht => ?_, fun hst => ⟨fun hc => ?_, fun hc => ?_⟩, fun hst o kept hkept => ?_,
    fun hc hm ht hd hf => ?_, fun hc hd => ?_⟩
  · rw [hset, hclear, takeLockSet_other (s := frameRead s n) ht,
      takeLockClear_other (s := frameRead s n) ht]
    exact ⟨rfl, rfl⟩
  · have hsent := answerLock_sent (s := frameRead s n) hst n
    rw [if_pos hc] at hout hout'
    rw [hrefuse 6 hout (by decide), hrefuse' 6 hout' (by decide), hsent, hsent]
    exact ⟨rfl, rfl⟩
  · have hsent := answerLock_sent (s := frameRead s n) hst n
    rw [if_neg (by simp [hc])] at hout hout'
    refine ⟨fun h => ?_, fun hm ht hd => ?_, fun hm ht hd hf => ?_, fun hd => ?_⟩
    · rw [if_pos h] at hout
      rw [hrefuse 7 hout (by decide), hsent]
      rfl
    · rw [if_neg (by simp [hm, ht]), if_pos hd] at hout
      rw [hrefuse 4 hout (by decide), hsent]
      rfl
    · rw [if_neg (by simp [hm, ht]), if_neg (by simp [hd]), if_pos hf] at hout
      rw [hrefuse 3 hout (by decide), hsent]
      rfl
    · rw [if_neg (by simp [hd])] at hout'
      rw [hrefuse' 5 hout' (by decide), hsent]
      rfl
  · have hkeep := fun subject => answerLock_kept (s := frameRead s n) hst n subject token o
    refine ⟨fun ho h0 => ?_, fun ho hd => ?_⟩
    · rw [hrefuse o (hout.trans ho.symm) h0, hkeep, hkept]
      rfl
    · have ho' : lockClearOutcome s n token = o := by
        rw [hout', ho]
        by_cases hc : isConsole n = false
        · rw [if_pos hc, if_pos hc]
        · rw [if_neg hc, if_neg hc, if_neg (by simp [hd.resolve_left hc])]
      rw [hrefuse' o ho' (by rw [ho]; split <;> decide), hkeep, hkept]
      rfl
  · rw [if_neg (by simp [hc]), if_neg (by simp [hm, ht]), if_neg (by simp [hd]),
      if_neg (by omega)] at hout
    have hok : exec (.lockSet n s.seq.number token m) s = .next (answerLock (setLockList
        (frameRead s n) (joinedList (frameRead s n) n token m))
        n 4 token 0) := by
      rw [hset]
      exact congrArg Host.Outcome.next (takeLockSet_ok (s := frameRead s n) hout)
    have honly := lockSet_only (s := frameRead s n) (n := n)
      (joinedList (frameRead s n) n token m) 4 token
    have hlock := lockSet_lock (s := frameRead s n) (n := n)
      (joinedList (frameRead s n) n token m) 4 token
    have hsent : s.seq.station ≠ .listen → answerLock (setLockList (frameRead s n)
        (joinedList (frameRead s n) n token m)) n 4 token 0 =
        queueFrame (setLockList (frameRead s n)
          (s.lock.list ++ [⟨.remote token n, m, now s⟩])) (.answer n 4 token 0 none) := fun hst =>
      answerLock_sent (by rw [(setLockList_only _ _).seq]; exact hst) _ _ _ _
    have haxis := fun hax hleg => joined_axis (s := frameRead s n) (m := m) (n := n)
      (token := token) hax hleg 4
    have hcompact := fun hax hform => joined_compact (s := frameRead s n) (m := m) (n := n)
      (token := token) hax hform 4
    have hleft := fun r hax (hr : FliesAlone (frameRead s n) r) =>
      joined_leftBy (m := m) (n := n) (token := token) hax hr
    have hzones := fun hheat hcold => joined_zones (s := frameRead s n) (m := m) (n := n)
      (token := token) hheat hcold rfl
    generalize answerLock (setLockList (frameRead s n) (joinedList (frameRead s n) n token m))
      n 4 token 0 = w at hok honly hlock hsent haxis hcompact hleft hzones
    refine ⟨w, hok, by rw [hlock]; rfl, by rw [hlock]; rfl, by rw [hlock]; rfl, honly.peers,
      honly.time, honly.sensor, honly.keepOut, honly.cells, fun hsame hst => ?_,
      fun hleg hax => haxis hax hleg, fun hax => ⟨fun r hr => ?_,
        fun _ hform => hcompact hax hform⟩,
      hsent, fun hheat hcold => hzones hheat hcold⟩
    · exact (hsent hst).trans (congrArg (queueFrame · _) (setLockList_same (s := frameRead s n)
        ((lockMask_joined (frameRead s n) n token m).trans hsame)))
    · obtain ⟨hmem, hfail, hleave⟩ := hleft r hax hr
      exact ⟨hmem, hfail, hleave⟩
  · rw [if_neg (by simp [hc]), if_pos hd] at hout'
    have hok : exec (.lockClear n s.seq.number token) s = .next (answerLock (setLockList
        (frameRead s n) ((frameRead s n).lock.list.filter fun e => !hasToken token e))
        n 5 token 0) := by
      rw [hclear]
      exact congrArg Host.Outcome.next (takeLockClear_ok (s := frameRead s n) hout')
    have honly := lockSet_only (s := frameRead s n) (n := n)
      ((frameRead s n).lock.list.filter fun e => !hasToken token e) 5 token
    have hlock := lockSet_lock (s := frameRead s n) (n := n)
      ((frameRead s n).lock.list.filter fun e => !hasToken token e) 5 token
    refine ⟨_, hok, by rw [hlock]; rfl, by rw [hlock]; rfl, honly.peers, honly.time, honly.sensor,
      honly.keepOut, honly.cells, by rw [hlock]; rfl, fun hst => ?_⟩
    exact answerLock_sent (by rw [(setLockList_only _ _).seq]; exact hst) _ _ _ _

end Sys2Proof.Machine
end

section
/-! PROOFS. The Compact Unit's CALL, HOLD and RESUME, and the removal of a terminal record (R93 to
R96, R99, R101, R112). -/

namespace Sys2Proof.Machine

variable {s t : State} {r : CompactRecord} {n id : Nat} {p : CallPayload}

/-! ### The removal (R93, R112) -/

theorem removeRecord_due (h : findRecord s id = some r) (hl : isLive r = false)
    (hr : 5000 ≤ r.terminalRun) : removeRecord s id =
      (withdrawFrames s (isLeaveOf id)).withCompact { s.compact with
        list := s.compact.list.filter fun x => x.id != id } := by
  rw [removeRecord, h]
  exact if_pos (by simp [hl, hr])

theorem removeRecord_stays (h : findRecord s id = some r)
    (hl : isLive r = true ∨ r.terminalRun < 5000) : removeRecord s id = s := by
  rw [removeRecord, h]
  refine if_neg fun hc => ?_
  simp only [Bool.and_eq_true, Bool.not_eq_true', decide_eq_true_eq] at hc
  rcases hl with hl | hl
  · simp [hl] at hc
  · omega

/-- Settles O44: the record's state and its run decide. -/
theorem terminalRecordsAreRemoved : Obligations.TerminalRecordsAreRemoved := by
  intro s id r hr
  refine ⟨fun h => congrArg Host.Outcome.next (removeRecord_stays hr h), fun hl hrun => ?_⟩
  refine congrArg Host.Outcome.next ((removeRecord_due hr hl hrun).trans ?_)
  have hleave : isLeaveOf id = fun e => match e.frame with
      | .leave i reason => i == id && reason != reasonReset
      | _ => false := by
    funext e
    unfold isLeaveOf
    cases e.frame <;> rfl
  rw [hleave]
  rfl

/-! ### The hold set (R101) -/

theorem exec_hold (h : Known s n) (id : Nat) :
    exec (.hold n id) s = .next (takeHold (frameRead s n) n id) :=
  congrArg Host.Outcome.next (takeFrame_known h _)

theorem exec_resume (h : Known s n) (id : Nat) :
    exec (.resume n id) s = .next (takeResume (frameRead s n) n id) :=
  congrArg Host.Outcome.next (takeFrame_known h _)

theorem mayHold_eq (h : findRecord s id = some r) (n : Nat) :
    mayHold s n id = (isMember r n || isConsole n) := by
  rw [mayHold, h]

/-- A record with a number in its hold set (R101). -/
def held (n : Nat) (x : CompactRecord) : CompactRecord :=
  { x with
    holds := if x.holds.contains n then x.holds else x.holds ++ [n]
    state := if x.state == .moving then .held else x.state }

/-- A record with a number out of its hold set (R101). -/
def released (n : Nat) (x : CompactRecord) : CompactRecord :=
  { x with
    holds := x.holds.filter (· != n)
    state := if x.state == .held && (x.holds.filter (· != n)).isEmpty then .moving else x.state }

theorem isLive_of_forming (h : r.state = .forming ∨ r.state = .moving ∨ r.state = .held) :
    isLive r = true := by
  rcases h with h | h | h <;> simp [isLive, h]

theorem addHold_eq (h : findRecord s id = some r) (hl : isLive r = true) (n : Nat) :
    addHold s id n = if r.state == .moving && r.inserted then
      axisHold (changeRecord s id (held n)) id else changeRecord s id (held n) := by
  rw [addHold, h]
  exact if_pos hl

theorem addHold_dead (h : findRecord s id = some r) (hl : isLive r = false) (n : Nat) :
    addHold s id n = s := by
  rw [addHold, h]
  exact if_neg (by simp [hl])

theorem removeHold_eq (h : findRecord s id = some r) (hl : isLive r = true) (n : Nat) :
    removeHold s id n =
      if r.state == .held && (r.holds.filter (· != n)).isEmpty && r.inserted then
        axisRelease (changeRecord s id (released n)) id else changeRecord s id (released n) := by
  rw [removeHold, h]
  exact if_pos hl

theorem removeHold_dead (h : findRecord s id = some r) (hl : isLive r = false) (n : Nat) :
    removeHold s id n = s := by
  rw [removeHold, h]
  exact if_neg (by simp [hl])

/-- In MOVING the hold request reaches the JOINT entry that has been inserted (R27, R101). -/
theorem addHold_moving (h : findRecord s id = some r) (hm : r.state = .moving) (n : Nat) :
    addHold s id n = (changeRecord s id (held n)).withAxis
      (if r.inserted && headIsJoint s id then { s.axis with jointHeld := true } else s.axis) := by
  rw [addHold_eq h (isLive_of_forming (.inr (.inl hm))), hm]
  cases hi : r.inserted
  · rfl
  · show axisHold _ _ = _
    unfold axisHold
    show (if headIsJoint s id then _ else _) = _
    cases headIsJoint s id <;> rfl

theorem addHold_waiting (h : findRecord s id = some r) (hm : r.state = .forming ∨ r.state = .held)
    (n : Nat) : addHold s id n = changeRecord s id (held n) := by
  rw [addHold_eq h (isLive_of_forming (by tauto))]
  rcases hm with hm | hm <;> rw [hm] <;> rfl

theorem removeHold_stays (h : findRecord s id = some r)
    (hm : r.state = .forming ∨ r.state = .moving ∨
      r.state = .held ∧ r.holds.filter (· != n) ≠ []) :
    removeHold s id n = changeRecord s id (released n) := by
  rw [removeHold_eq h (isLive_of_forming (by tauto))]
  rcases hm with hm | hm | ⟨hm, he⟩
  · rw [hm]; rfl
  · rw [hm]; rfl
  · simp [hm, he]

/-- The set empties in HELD: the record moves, and the JOINT entry it has inserted is released (R27,
R101). -/
theorem removeHold_empties (h : findRecord s id = some r) (hm : r.state = .held)
    (he : r.holds.filter (· != n) = []) : removeHold s id n =
      if r.inserted && headIsJoint s id then
        tryStart ((changeRecord s id (released n)).withAxis { s.axis with jointHeld := false })
      else changeRecord s id (released n) := by
  rw [removeHold_eq h (isLive_of_forming (by tauto)), hm, he]
  cases hi : r.inserted
  · rfl
  · show axisRelease _ _ = _
    unfold axisRelease
    show (if headIsJoint s id then _ else _) = _
    cases headIsJoint s id <;> rfl

/-- Settles O38: who may hold, whether the record lives, and the state its hold set leaves it in. -/
theorem holdsFollowTheSet : Obligations.HoldsFollowTheSet := by
  intro s n id r hk hr
  rw [exec_hold hk, exec_resume hk, takeHold, takeResume, mayHold_eq (s := frameRead s n) hr]
  refine ⟨fun hm hc => ?_, fun hl => ?_, fun hm t ht => ?_, fun hm t ht => ?_⟩
  · rw [hm, hc]
    exact ⟨rfl, rfl⟩
  · rw [addHold_dead (s := frameRead s n) hr hl, removeHold_dead (s := frameRead s n) hr hl]
    simp only [ite_self, and_self]
  · rw [if_pos (by simpa using hm), ht]
    exact ⟨fun h => congrArg Host.Outcome.next (addHold_waiting (s := frameRead s n) hr h n),
      fun h => congrArg Host.Outcome.next (addHold_moving (s := frameRead s n) hr h n)⟩
  · rw [if_pos (by simpa using hm), ht]
    exact ⟨fun h => congrArg Host.Outcome.next (removeHold_stays (s := frameRead s n) hr h),
      fun h he => congrArg Host.Outcome.next (removeHold_empties (s := frameRead s n) hr h he)⟩

/-! ### CALL (R94 to R99) -/

theorem exec_call_known (h : KnownConsole s n) (p : CallPayload) :
    exec (.call n p) s = .next (takeCall (frameRead s n) n p) :=
  congrArg Host.Outcome.next (takeConsoleFrame_known h _)

theorem takeCall_ignored (h : callTaken s n p = false ∨ s.seq.station = .faulted .clash) :
    takeCall s n p = s := by
  unfold takeCall
  split
  · rename_i ht
    rw [h.resolve_left (by simp [ht])]
  · rfl

theorem callTaken_iff : callTaken s n p = true ↔ isConsole n = true ∧
    (callMembers p).contains s.seq.number = true ∧ p.mode ≤ 1 ∧ p.id ≠ 0 ∧ p.start.ms ≤ 999 ∧
      p.deadline.ms ≤ 999 := by
  simp [callTaken, and_assoc]

theorem callVerdict_eq (s : State) (p : CallPayload) : callVerdict s p =
    if 4 ≤ s.compact.list.length then .error 1
    else if toMs p.start < nowMs s + 500 ∨ toMs p.deadline ≤ toMs p.start then .error 3
    else if s.compact.list.any fun r => isLive r && windowsOverlap r p then .error 4
    else if windHolds s then .error 5
    else if scopeMotion (lockMask s) then .error 6
    else if s.axis.motion == .halted then .error 7
    else if !s.axis.refAz || !s.axis.refEl then .error 8
    else callTarget s p := by
  unfold callVerdict
  simp only [Bool.or_eq_true, decide_eq_true_eq]
  rfl

theorem callTarget_frameRead (s : State) (n : Nat) (p : CallPayload) :
    callTarget (frameRead s n) p = callTarget s p := by
  unfold callTarget
  dsimp only
  rw [finishEstimate_frameRead]
  rfl

theorem callVerdict_frameRead (s : State) (n : Nat) (p : CallPayload) :
    callVerdict (frameRead s n) p = callVerdict s p := by
  rw [callVerdict_eq, callVerdict_eq, callTarget_frameRead]
  rfl

theorem evaluateCall_known (h : findRecord s p.id = some r) (n : Nat) : evaluateCall s n p =
    queueFrame s (if sameCall r n p then .reply p.id 0 0 else .reply p.id 1 2) := by
  rw [evaluateCall, h]
  cases hc : sameCall r n p <;> simp [hc, reasonDuplicate]

theorem evaluateCall_declined (h : findRecord s p.id = none) {reason : Nat}
    (hv : callVerdict s p = .error reason) (n : Nat) :
    evaluateCall s n p = queueFrame s (.reply p.id 1 reason) := by
  rw [evaluateCall, h, hv]

theorem evaluateCall_accepted (h : findRecord s p.id = none) {az : Int}
    (hv : callVerdict s p = .ok az) (n : Nat) : evaluateCall s n p =
    if warning s then queueFrame (queueFrame (s.withCompact { s.compact with
        list := insertRecord (newRecord s n p az) s.compact.list }) (.reply p.id 0 0)) (.hold p.id)
    else queueFrame (s.withCompact { s.compact with
      list := insertRecord (newRecord s n p az) s.compact.list }) (.reply p.id 0 0) := by
  rw [evaluateCall, h, hv]

/-- Settles O36: whether the CALL is taken, the station's state, the record of its id, and the
verdict of the checks. -/
theorem callsAreEvaluated : Obligations.CallsAreEvaluated := by
  refine ⟨fun s n p hk => ?_, fun s n p hk => ⟨fun h => ?_, fun hmem hmode hid hsms hdms => ?_⟩⟩
  · exact congrArg Host.Outcome.next (takeConsoleFrame_dish hk.1 hk.2 _)
  · rw [exec_call_known hk, takeCall_ignored]
    by_cases hc : s.seq.station = .faulted .clash
    · exact .inr hc
    · refine .inl (Bool.eq_false_iff.2 fun ht => ?_)
      obtain ⟨-, hmem, hmode, hid, hsms, hdms⟩ := callTaken_iff.1 ht
      have hmem' : (callMembers p).contains s.seq.number = true := hmem
      rcases h with h | h | h | h | h | h
      · rw [hmem'] at h
        cases h
      · omega
      · exact hid h
      · omega
      · omega
      · exact hc h
  · have htaken : callTaken (frameRead s n) n p = true :=
      callTaken_iff.2 ⟨hk.2, hmem, hmode, hid, hsms, hdms⟩
    have htake : ∀ st, s.seq.station = st → takeCall (frameRead s n) n p = match st with
        | .ready => evaluateCall (frameRead s n) n p
        | .listen =>
          if (frameRead s n).compact.pending.length < 4 then
            (frameRead s n).withCompact { (frameRead s n).compact with
              pending := (frameRead s n).compact.pending ++ [p.id] }
          else frameRead s n
        | .faulted .config => queueFrame (frameRead s n) (.reply p.id 1 reasonNotReady)
        | _ => frameRead s n := by
      intro st hst
      subst hst
      rw [takeCall, if_pos htaken]
      rfl
    rw [exec_call_known hk]
    refine ⟨fun hst => ?_, fun hst => ?_, fun hst => ⟨fun r hr => ?_, fun hnone v hv => ?_⟩⟩
    · rw [htake _ hst]
      rfl
    · rw [htake _ hst]
      rfl
    · rw [htake _ hst]
      exact congrArg Host.Outcome.next (evaluateCall_known (s := frameRead s n) hr n)
    · have hverdict : callVerdict (frameRead s n) p = v := by
        rw [callVerdict_frameRead, callVerdict_eq, hv]
      rw [htake _ hst]
      refine ⟨fun reason hr => ?_, fun az u hok hu => ?_⟩
      · exact congrArg Host.Outcome.next
          (evaluateCall_declined (s := frameRead s n) hnone (hverdict.trans hr) n)
      · rw [hu]
        exact congrArg Host.Outcome.next
          (evaluateCall_accepted (s := frameRead s n) hnone (hverdict.trans hok) n)

end Sys2Proof.Machine
end

section
/-! PROOFS. What the station's own moves, orders and leaves keep: the loans, other flags, the
rosters, and of each record its deadline and the states of the other members. -/

namespace Sys2Proof.Machine

variable {s s0 t u : State} {r x y : CompactRecord} {n id k own : Nat}

/-! ### A record under the station's own acts -/

/-- The deadline and the states of the other members stand, and the record is not formed again. -/
structure Onward (own : Nat) (r x : CompactRecord) : Prop where
  deadline : x.deadline = r.deadline
  forming : x.state = .forming → r.state = .forming
  others : ∀ k, k ≠ own → memberState x k = memberState r k

theorem Onward.refl (own : Nat) (r : CompactRecord) : Onward own r r := ⟨rfl, id, fun _ _ => rfl⟩

theorem Onward.trans (h : Onward own r x) (k : Onward own x y) : Onward own r y :=
  ⟨k.deadline.trans h.deadline, fun hy => h.forming (k.forming hy),
    fun j hj => (k.others j hj).trans (h.others j hj)⟩

theorem memberState_setMember_ne (hk : k ≠ n) (r : CompactRecord) (m : MemberState) :
    memberState (setMember r n m) k = memberState r k := by
  unfold memberState setMember
  dsimp only
  induction r.members with
  | nil => rfl
  | cons e l ih =>
    by_cases hen : e.station = n
    · have hek : ¬ e.station = k := fun h => hk (h.symm.trans hen)
      have hnk : ¬ n = k := fun h => hk h.symm
      simpa [hen, hek, hnk] using ih
    · by_cases hek : e.station = k
      · simp [hk, hek]
      · simpa [hen, hek] using ih

theorem setMember_onward (own : Nat) (r : CompactRecord) (m : MemberState) :
    Onward own r (setMember r own m) :=
  ⟨rfl, id, fun _ hk => memberState_setMember_ne hk r m⟩

/-! ### The relation -/

/-- The flags that the station's moves, orders and leaves may set: STOW_BLOCKED, COMPACT_FAILED,
COMPACT_LATE and KEEP_OUT_STOP (R189). -/
def isWorkFlag (k : Nat) : Bool :=
  k == flagStowBlocked || k == flagCompactFailed || k == flagCompactLate || k == flagKeepOutStop

/-- Of the Line Unit the queue alone has changed. -/
def OnlyQueued (s t : State) : Prop :=
  ∃ queue age, t.line = { s.line with queue := queue, nextAge := age }

theorem OnlyQueued.of_eq (h : t.line = s.line) : OnlyQueued s t := ⟨s.line.queue, s.line.nextAge, h⟩

theorem OnlyQueued.trans (h : OnlyQueued s t) (k : OnlyQueued t u) : OnlyQueued s u := by
  obtain ⟨q, a, ht⟩ := h
  obtain ⟨q', a', hu⟩ := k
  exact ⟨q', a', by rw [hu, ht]⟩

theorem Silent.onlyQueued (h : Silent s t) : OnlyQueued s t := ⟨_, _, h.counters⟩

/-- The loans, the other flags and the rosters are as they were, the records go on, and of the Line
Unit the queue alone changes. -/
structure Beside (s t : State) : Prop where
  seq : t.seq = s.seq
  loans : t.share.loans = s.share.loans
  flags : ∀ k, isWorkFlag k = false → flagRecord t k = flagRecord s k
  rosters : t.wind.cells.map (·.roster) = s.wind.cells.map (·.roster)
  records : ∀ id r, findRecord s id = some r →
    ∃ x, findRecord t id = some x ∧ Onward s.seq.number r x
  line : OnlyQueued s t

theorem Beside.of_eq (hs : t.seq = s.seq) (hl : t.share.loans = s.share.loans)
    (hf : t.report.flags = s.report.flags) (hw : t.wind.cells = s.wind.cells)
    (hc : t.compact.list = s.compact.list) (hq : t.line = s.line) : Beside s t :=
  ⟨hs, hl, fun _ _ => by unfold flagRecord; rw [hf], by rw [hw], fun id r hr => ⟨r, by
    unfold findRecord at hr ⊢
    rwa [hc], .refl _ r⟩, .of_eq hq⟩

theorem Beside.refl (s : State) : Beside s s := .of_eq rfl rfl rfl rfl rfl rfl

theorem Beside.trans (h : Beside s t) (k : Beside t u) : Beside s u :=
  ⟨k.seq.trans h.seq, k.loans.trans h.loans, fun j hj => (k.flags j hj).trans (h.flags j hj),
    k.rosters.trans h.rosters, fun id r hr => by
      obtain ⟨x, hx, hrx⟩ := h.records id r hr
      obtain ⟨y, hy, hxy⟩ := k.records id x hx
      exact ⟨y, hy, hrx.trans (h.seq ▸ hxy)⟩, h.line.trans k.line⟩

/-- A change of other parts before a step. -/
theorem Beside.before (h : Beside t u) (hs : t.seq = s.seq) (hl : t.share.loans = s.share.loans)
    (hf : t.report.flags = s.report.flags) (hw : t.wind.cells = s.wind.cells)
    (hc : t.compact.list = s.compact.list) (hq : t.line = s.line) : Beside s u :=
  (Beside.of_eq hs hl hf hw hc hq).trans h

theorem Beside.foldl {α : Type} {f : State → α → State} (hf : ∀ t a, Beside t (f t a))
    (l : List α) (s : State) : Beside s (l.foldl f s) := by
  induction l generalizing s with
  | nil => exact .refl s
  | cons a l ih => exact (hf s a).trans (ih _)

theorem Silent.beside (h : Silent s t) : Beside s t :=
  ⟨h.seq, h.loans, fun _ _ => by unfold flagRecord; rw [h.report], by rw [h.wind],
    fun id r hr => ⟨r, (findRecord_congr h.compact id).trans hr, .refl _ r⟩, h.onlyQueued⟩

theorem withAxis_beside (s : State) (a : AxisUnit) : Beside s (s.withAxis a) :=
  .of_eq rfl rfl rfl rfl rfl rfl

theorem setFlag_beside (s : State) (hk : isWorkFlag k = true) (d e : Nat) :
    Beside s (setFlag s k d e) := by
  have h := setFlag_silent s k d e
  refine ⟨h.seq, h.loans, fun j hj => setFlag_other (fun hjk => ?_) d e, by rw [h.wind]; rfl,
    fun id r hr => ⟨r, (findRecord_congr h.compact id).trans hr, .refl _ r⟩,
    (OnlyQueued.of_eq rfl).trans h.onlyQueued⟩
  rw [hjk, hk] at hj
  cases hj

theorem queueFrame_beside (s : State) (f : Frame) : Beside s (queueFrame s f) :=
  (queueFrame_silent (.refl s) f).beside

theorem judgeBlocked_beside (s : State) : Beside s (judgeBlocked s) := by
  unfold judgeBlocked
  split
  · split
    · exact .refl s
    · exact (setFlag_beside _ (by decide) _ _).before rfl rfl rfl rfl rfl rfl
  · split
    · exact .of_eq rfl rfl rfl rfl rfl rfl
    · exact .refl s

theorem commitMotion_beside (s : State) (k : Nat) : Beside s (commitMotion s k) := by
  have hshed := (shed_silent (.refl s) (k + s.share.heaterCommit - heldShares s)).beside
  unfold commitMotion
  generalize shed s (k + s.share.heaterCommit - heldShares s) = v at hshed ⊢
  have hsettle := (settlePower_silent (.refl (v.withShare { v.share with motion := k })) s).beside
  exact hshed.trans (hsettle.before rfl rfl rfl rfl rfl rfl)

theorem changeRecord_beside (s : State) (id : Nat) {f : CompactRecord → CompactRecord}
    (hid : ∀ x, (f x).id = x.id) (hf : ∀ x, Onward s.seq.number x (f x)) :
    Beside s (changeRecord s id f) := by
  refine ⟨rfl, rfl, fun _ _ => rfl, rfl, fun k r hr => ?_, .of_eq rfl⟩
  by_cases hk : k = id
  · subst hk
    exact ⟨f r, by rw [findRecord_changeRecord s k hid, hr]; rfl, hf r⟩
  · exact ⟨r, by rw [findRecord_changeRecord_ne s hk hid, hr], .refl _ r⟩

/-! ### The Compact Unit's work on its records -/

theorem toIdle_beside (s : State) : Beside s (toIdle s) :=
  (withAxis_beside s _).trans (judgeBlocked_beside _)

theorem axisWithdraw_beside (s : State) (id : Nat) : Beside s (axisWithdraw s id) := by
  unfold axisWithdraw
  split
  · split
    · exact withAxis_beside s _
    · exact (withAxis_beside s _).trans (toIdle_beside _)
    · exact withAxis_beside s _
    · exact .refl s
  · exact .refl s

/-- A record that ends is in FORMING no more. -/
theorem ended_onward (s : State) {st : CompactState} (h : st ≠ .forming) (own : Nat)
    (r : CompactRecord) : Onward own r (ended s st r) :=
  ⟨rfl, fun hf => absurd hf h, fun _ _ => rfl⟩

theorem makeTerminal_beside (s : State) (r : CompactRecord) {st : CompactState}
    (h : st ≠ .forming) : Beside s (makeTerminal s r st) := by
  have hend : Beside s (changeRecord s r.id (ended s st)) :=
    changeRecord_beside s r.id (ended_id s st) (ended_onward s h _)
  cases hd : terminalDetail st with
  | none =>
    unfold makeTerminal
    rw [hd]
    exact hend
  | some d =>
    have hfail : Beside s (failedWith s r st d) :=
      hend.trans (setFlag_beside _ (by decide) _ _)
    rw [makeTerminal_failed hd]
    split
    · exact hfail.trans (axisWithdraw_beside _ _)
    · exact hfail

theorem completionTest_beside (s : State) (id : Nat) : Beside s (completionTest s id) := by
  unfold completionTest
  split
  · split
    · split
      · exact makeTerminal_beside s _ nofun
      · split
        · exact makeTerminal_beside s _ nofun
        · exact .refl s
    · exact .refl s
  · exact .refl s

theorem afterLeft_beside (s : State) (id : Nat) : Beside s (afterLeft s id) := by
  unfold afterLeft
  split
  · split
    · split
      · exact completionTest_beside s _
      · exact makeTerminal_beside s _ nofun
    · exact .refl s
  · exact .refl s

theorem ownMember_beside (s : State) (id : Nat) (m : MemberState) :
    Beside s (withMember s id s.seq.number m) :=
  changeRecord_beside s id (fun _ => rfl) fun x => setMember_onward _ x m

theorem ownLeave_beside (s : State) (r : CompactRecord) (reason : Nat) :
    Beside s (ownLeave s r reason) :=
  (((ownMember_beside s r.id (.left reason)).trans (queueLeave_silent _ r reason).beside).trans
    (setFlag_beside _ (by decide) _ _)).trans (afterLeft_beside _ _)

theorem leaveAll_beside (s : State) (reason : Nat) : Beside s (leaveAll s reason) :=
  Beside.foldl (fun _ _ => ownLeave_beside _ _ _) _ s

theorem jointWithdrawn_beside (s : State) (id cause : Nat) :
    Beside s (jointWithdrawn s id cause) := by
  unfold jointWithdrawn
  split
  · exact .refl s
  · split
    · exact ownLeave_beside s _ _
    · exact .refl s

theorem noticeRemoved_beside (s : State) (gone : List MoveEntry) (cause : Nat) :
    Beside s (noticeRemoved s gone cause) := by
  refine Beside.foldl (fun t e => ?_) gone s
  split
  · exact jointWithdrawn_beside t _ _
  · exact .refl t

theorem flush_beside (s : State) (cause : Nat) : Beside s (flush s cause) :=
  (withAxis_beside s (flushed s.axis)).trans (noticeRemoved_beside _ _ _)

theorem arrivalNotice_beside (s : State) (id : Nat) (az el : Int) :
    Beside s (arrivalNotice s id az el) := by
  unfold arrivalNotice
  split
  · dsimp only
    have harrive := (ownMember_beside s id (.arrived az el)).trans
      (queueFrame_beside _ (.arrive id az el))
    split
    · exact harrive.trans (completionTest_beside _ _)
    · split
      · exact harrive.trans (setFlag_beside _ (by decide) _ _)
      · exact .refl s
  · exact .refl s

/-! ### The Axis Engine's legs and stops -/

theorem startLeg_beside (s : State) (l : Leg) (m : Motion) : Beside s (startLeg s l m) :=
  ((withAxis_beside s (legAxis s.axis l m)).trans (commitMotion_beside _ _)).trans
    (judgeBlocked_beside _)

theorem becomeStowed_beside (s : State) : Beside s (becomeStowed s) :=
  (withAxis_beside s _).trans (judgeBlocked_beside _)

theorem flyStow_beside (s : State) (e : MoveEntry) : Beside s (flyStow s e) :=
  (withAxis_beside s _).trans (startLeg_beside _ _ _)

theorem startStow_beside (s : State) (e : MoveEntry) : Beside s (startStow s e) := by
  unfold startStow
  split
  · split
    · exact becomeStowed_beside s
    · exact flyStow_beside s e
  · split
    · exact becomeStowed_beside s
    · exact flyStow_beside s e

theorem completeHead_beside (s : State) (e : MoveEntry) : Beside s (completeHead s e) := by
  have hpop := withAxis_beside s (popHead s.axis)
  unfold completeHead
  dsimp only
  split
  · exact hpop.trans (arrivalNotice_beside _ _ _ _)
  · exact hpop

theorem removeForSector_beside (s : State) (e : MoveEntry) (b : Nat) :
    Beside s (removeForSector s e b) := by
  have hset := (withAxis_beside s (popHead s.axis)).trans
    (setFlag_beside _ (by decide : isWorkFlag flagKeepOutStop = true) 1 b)
  unfold removeForSector
  dsimp only
  split
  · exact hset.trans (jointWithdrawn_beside _ _ _)
  · exact hset

theorem flyLeg_beside (s : State) (e : MoveEntry) (p : LegPlan) (l : Leg) :
    Beside s (flyLeg s e p l) := by
  have hstart := (withAxis_beside s (planHead s.axis { p with index := p.index + 1 })).trans
    (startLeg_beside _ l .leg)
  unfold flyLeg
  dsimp only
  split
  · exact hstart.trans (changeRecord_beside _ _ (fun _ => rfl) fun _ =>
      ⟨rfl, id, fun _ _ => rfl⟩)
  · exact hstart

theorem tryStartN_beside (k : Nat) (s : State) : Beside s (tryStartN k s) := by
  induction k generalizing s with
  | zero => exact .refl s
  | succ k ih =>
    rw [tryStartN]
    split
    · split
      · split
        · exact toIdle_beside s
        · exact .refl s
      · split
        · split
          · exact .refl s
          · split
            · exact startStow_beside s _
            · exact (withAxis_beside s _).trans (ih _)
        · split
          · exact .refl s
          · dsimp only
            split
            · exact (completeHead_beside s _).trans (ih _)
            · split
              · exact .refl s
              · split
                · exact (removeForSector_beside s _ _).trans (ih _)
                · exact flyLeg_beside s _ _ _
    · exact .refl s

theorem tryStart_beside (s : State) : Beside s (tryStart s) := tryStartN_beside _ s

theorem beginStop_beside (s : State) (r : StopReason) : Beside s (beginStop s r) :=
  (withAxis_beside s _).trans (judgeBlocked_beside _)

theorem addReason_beside (s : State) (r : StopReason) : Beside s (addReason s r) := by
  unfold addReason
  split
  · exact withAxis_beside s _
  · exact .refl s

theorem axisTableChange_beside (s : State) : Beside s (axisTableChange s) := by
  unfold axisTableChange
  split
  · split
    · exact ((beginStop_beside s _).trans (flush_beside _ _)).trans
        (setFlag_beside _ (by decide) _ _)
    · exact .refl s
  · exact .refl s

theorem axisStowOrder_beside (s : State) : Beside s (axisStowOrder s) := by
  unfold axisStowOrder
  split
  · exact withAxis_beside s _
  · dsimp only
    have hgone := (withAxis_beside s { s.axis with
      stowMark := true, queue := [stowEntry s], jointHeld := false
      withdrawPending := false }).trans (noticeRemoved_beside _ s.axis.queue reasonStow)
    split
    · exact hgone.trans (tryStart_beside _)
    · split
      · exact hgone.trans (toIdle_beside _)
      · split
        · exact hgone.trans (startStow_beside _ _)
        · exact hgone
    · exact hgone.trans (beginStop_beside _ _)
    · exact hgone.trans (addReason_beside _ _)
    · exact hgone

theorem axisCalmNotice_beside (s : State) : Beside s (axisCalmNotice s) := by
  have hmark := withAxis_beside s { s.axis with stowMark := false }
  unfold axisCalmNotice
  dsimp only
  split
  · exact (hmark.trans (toIdle_beside _)).trans (tryStart_beside _)
  · exact (hmark.trans (withAxis_beside _ _)).trans (tryStart_beside _)
  · exact hmark.trans (withAxis_beside _ _)
  · exact (hmark.trans (withAxis_beside _ _)).trans (addReason_beside _ _)
  · exact hmark

/-! ### The orders and the judgements of the cells (R142 to R146) -/

theorem stowOrder_beside (s : State) : Beside s (stowOrder s) := by
  have hmark : Beside s (s.withWind { s.wind with ordered := true }) :=
    .of_eq rfl rfl rfl rfl rfl rfl
  have haxis := hmark.trans (axisStowOrder_beside _)
  unfold stowOrder
  generalize axisStowOrder (s.withWind { s.wind with ordered := true }) = v at haxis ⊢
  have hcompact : Beside v (compactStowOrder v) :=
    (leaveAll_beside (v.withCompact { v.compact with stowMark := true }) _).before
      rfl rfl rfl rfl rfl rfl
  exact (haxis.trans hcompact).trans (judgeBlocked_beside _)

theorem calmNotice_beside (s : State) : Beside s (calmNotice s) := by
  have hmark : Beside s (s.withWind { s.wind with ordered := false }) :=
    .of_eq rfl rfl rfl rfl rfl rfl
  have haxis := hmark.trans (axisCalmNotice_beside _)
  unfold calmNotice
  generalize axisCalmNotice (s.withWind { s.wind with ordered := false }) = v at haxis ⊢
  have hcompact : Beside v (compactCalmNotice v) := .of_eq rfl rfl rfl rfl rfl rfl
  exact (haxis.trans hcompact).trans (judgeBlocked_beside _)

theorem map_roster_modify (l : List Cell) (c : Nat) {f : Cell → Cell}
    (hf : ∀ x, (f x).roster = x.roster) :
    (l.modify c f).map (·.roster) = l.map (·.roster) := by
  induction l generalizing c with
  | nil => cases c <;> rfl
  | cons x l ih =>
    cases c with
    | zero => simp [hf]
    | succ c => simp [ih]

theorem changeCell_beside (s : State) (c : Nat) {f : Cell → Cell}
    (hf : ∀ x, (f x).roster = x.roster) : Beside s (changeCell s c f) :=
  ⟨rfl, rfl, fun _ _ => rfl, map_roster_modify _ c hf, fun _ r hr => ⟨r, hr, .refl _ r⟩,
    .of_eq rfl⟩

theorem orderFor_beside (s : State) (c : Nat) : Beside s (orderFor s c) := by
  unfold orderFor
  split
  · exact stowOrder_beside s
  · exact .refl s

theorem calmFor_beside (s : State) (c : Nat) : Beside s (calmFor s c) := by
  unfold calmFor
  split
  · exact calmNotice_beside s
  · exact .refl s

theorem judgeNoSensor_beside (o : Bool) (s : State) (c : Nat) :
    Beside s (judgeNoSensor o s c) := by
  have hrun : Beside s (changeCell s c fun x => { x with holdRun := 0 }) :=
    changeCell_beside s c fun _ => rfl
  have hstow := hrun.trans (changeCell_beside _ c (f := cellStow .noSensor) fun _ => rfl)
  unfold judgeNoSensor
  dsimp only
  split
  · split
    · split
      · exact hstow
      · split
        · exact hstow.trans (orderFor_beside _ c)
        · exact hstow
    · exact hrun
  · exact .refl s

theorem judgeLevels_beside (s : State) (c : Nat) : Beside s (judgeLevels s c) := by
  have hcalm : Beside s (calmFor (changeCell s c (cellRelease .calm)) c) :=
    (changeCell_beside s c (f := cellRelease .calm) fun _ => rfl).trans (calmFor_beside _ c)
  unfold judgeLevels
  dsimp only
  split
  · split
    · exact changeCell_beside s c fun _ => rfl
    · exact .refl s
  · split
    · exact hcalm
    · split
      · exact changeCell_beside s c fun _ => rfl
      · exact .refl s
  · split
    · exact hcalm
    · exact .refl s
  · exact .refl s

theorem judgeCell_beside (o : Bool) (s : State) (c : Nat) : Beside s (judgeCell o s c) :=
  (judgeNoSensor_beside o s c).trans (judgeLevels_beside _ c)

theorem judgeCells_beside (s : State) (o : Bool) : Beside s (judgeCells s o) :=
  Beside.foldl (fun t c => judgeCell_beside o t c) _ s

end Sys2Proof.Machine
end

section
/-! PROOFS. The start time and the deadline of a record (R103 to R106, R114, R115). -/

namespace Sys2Proof.Machine

variable {s t : State} {r x : CompactRecord} {id : Nat} {az : Int} {reason : Nat}

/-! ### The start decision (R103) -/

/-- The members of a record at the start of its compact: those that have not accepted have left a
PARTIAL one (R103). -/
def atStart (r : CompactRecord) : CompactRecord :=
  if r.partialMode then
    { r with members := r.members.map fun m => { m with state := leftAtStart m.state } } else r

/-- The compact goes ahead (R103). -/
def goesAhead (s : State) (r : CompactRecord) : Bool :=
  if r.partialMode then r.members.any fun m => m.state == .accepted && m.station != s.seq.number
  else r.members.all fun m => m.state == .accepted

/-- A record that goes ahead: HELD where the hold set is not empty (R103). -/
def underWay (r : CompactRecord) : CompactRecord :=
  { r with state := if r.holds.isEmpty then .moving else .held }

/-- The members of a record as its start finds them. -/
def startMembers (s : State) (r : CompactRecord) : State :=
  if r.partialMode then
    changeRecord s r.id fun x =>
      { x with members := x.members.map fun m => { m with state := leftAtStart m.state } }
  else s

theorem startTime_stays (h : findRecord s id = some r)
    (hs : r.state ≠ .forming ∨ nowMs s < toMs r.start) : startTime s id = s := by
  rw [startTime, h]
  refine if_neg fun hc => ?_
  simp only [Bool.and_eq_true, beq_iff_eq, decide_eq_true_eq] at hc
  rcases hs with hs | hs
  · exact hs hc.1
  · omega

theorem startTime_due (h : findRecord s id = some r) (hs : r.state = .forming)
    (ht : toMs r.start ≤ nowMs s) : startTime s id = decideStart s r := by
  rw [startTime, h]
  exact if_pos (by simp [hs, ht])

theorem decideStart_ends (h : goesAhead s r = false) :
    decideStart s r = makeTerminal (startMembers s r) (atStart r) .abandoned := by
  unfold decideStart goesAhead startMembers atStart at *
  cases hp : r.partialMode
  · simp only [hp, Bool.false_eq_true, if_false] at h ⊢
    rw [if_neg (by simp [h])]
  · simp only [hp, if_true] at h ⊢
    rw [if_neg (by simp [h])]
    rfl

theorem decideStart_goes (h : goesAhead s r = true) : decideStart s r =
    motionStart (changeRecord (startMembers s r) r.id underWay) r.id := by
  unfold decideStart goesAhead startMembers at *
  cases hp : r.partialMode
  · simp only [hp, Bool.false_eq_true, if_false] at h ⊢
    rw [if_pos h]
    rfl
  · simp only [hp, if_true] at h ⊢
    rw [if_pos h]
    rfl

theorem findRecord_startMembers (h : findRecord s r.id = some r) :
    findRecord (startMembers s r) r.id = some (atStart r) := by
  unfold startMembers atStart
  split
  · rw [findRecord_changeRecord s r.id (by exact fun _ => rfl), h]
    rfl
  · exact h

/-- The rest of the state is as it was. -/
structure RecordsOnly (s t : State) : Prop where
  axis : t.axis = s.axis
  report : t.report = s.report
  mark : t.compact.stowMark = s.compact.stowMark
  elsewhere : Elsewhere s t

theorem changeRecord_only (s : State) (id : Nat) (f : CompactRecord → CompactRecord) :
    RecordsOnly s (changeRecord s id f) :=
  ⟨rfl, rfl, rfl, rfl, rfl, rfl, rfl, rfl, rfl, rfl, rfl, rfl, rfl⟩

theorem startMembers_only (s : State) (r : CompactRecord) : RecordsOnly s (startMembers s r) := by
  unfold startMembers
  split
  · exact changeRecord_only s _ _
  · exact ⟨rfl, rfl, rfl, .refl s⟩

/-- The state in which a compact that goes ahead starts its motion (R104). -/
def decided (s : State) (r : CompactRecord) : State :=
  changeRecord (startMembers s r) r.id underWay

theorem findRecord_decided (h : findRecord s r.id = some r) :
    findRecord (decided s r) r.id = some (underWay (atStart r)) := by
  rw [decided, findRecord_changeRecord _ r.id (by exact fun _ => rfl), findRecord_startMembers h]
  rfl

theorem decided_only (s : State) (r : CompactRecord) : RecordsOnly s (decided s r) := by
  obtain ⟨ha, hr, hm, he⟩ := startMembers_only s r
  have h := changeRecord_only (startMembers s r) r.id underWay
  exact ⟨h.axis.trans ha, h.report.trans hr, h.mark.trans hm, he.trans h.elsewhere⟩

theorem startCheck_decided (s : State) (r : CompactRecord) :
    startCheck (decided s r) (underWay (atStart r)) = startCheck s r := by
  unfold decided startMembers atStart
  cases r.partialMode <;> rfl

theorem memberState_atStart {n : Nat} (h : memberState r n = some .accepted) :
    memberState (underWay (atStart r)) n = some .accepted := by
  unfold atStart
  split
  · obtain ⟨e, he, hm⟩ := Option.map_eq_some_iff.1 h
    show Option.map _ (List.find? _ (List.map _ _)) = _
    rw [List.find?_map]
    show Option.map _ (Option.map _ (r.members.find? fun m => m.station == n)) = _
    rw [he]
    simp [hm, leftAtStart]
  · exact h

/-! ### The motion start (R104, R105) -/

theorem motionStart_refused (h : findRecord s id = some r) (hv : startCheck s r = .error reason)
    (ha : memberState r s.seq.number = some .accepted) :
    motionStart s id = ownLeave s r reason := by
  rw [motionStart, h]
  simp [hv, ownAccepted, ha]

/-- The state in which the JOINT entry of a record has been inserted (R104). -/
def inserted (s : State) (r : CompactRecord) (az : Int) : State :=
  (changeRecord s r.id fun x => { x with ownAz := az, inserted := true }).withAxis { s.axis with
    queue := [jointEntry s { r with ownAz := az }]
    jointHeld := r.state == .held
    withdrawPending := false }

theorem motionStart_ok (h : findRecord s id = some r) (hv : startCheck s r = .ok az) :
    motionStart s id = tryStart (inserted s r az) := by
  obtain rfl : r.id = id := (findRecord_some h).2
  rw [motionStart, h]
  simp only [hv]
  rfl

theorem findRecord_inserted (h : findRecord s id = some r) (az : Int) :
    findRecord (inserted s r az) id = some { r with ownAz := az, inserted := true } := by
  obtain rfl : r.id = id := (findRecord_some h).2
  show findRecord (changeRecord s r.id _) r.id = _
  rw [findRecord_changeRecord _ r.id (by exact fun _ => rfl), h]
  rfl

theorem inserted_axis (s : State) (r : CompactRecord) (az : Int) :
    (inserted s r az).axis = { s.axis with
      queue := [jointEntry s { r with ownAz := az }]
      jointHeld := r.state == .held
      withdrawPending := false } := rfl

theorem inserted_elsewhere (s : State) (r : CompactRecord) (az : Int) :
    Elsewhere s (inserted s r az) := ⟨rfl, rfl, rfl, rfl, rfl, rfl, rfl, rfl, rfl, rfl⟩

/-- The own LEAVE of a live record (R105, R109, R111, R116). -/
theorem ownLeave_fails (h : findRecord s id = some r) (hl : isLive r = true)
    (ha : memberState r s.seq.number = some .accepted) (hf : s.report.flags.length = 16)
    (reason : Nat) : (∃ x, findRecord (ownLeave s r reason) id = some x ∧
        memberState x s.seq.number = some (.left reason) ∧
        (r.partialMode = false → x.state = .abandoned)) ∧
      flagOn (ownLeave s r reason) flagCompactFailed = true := by
  obtain rfl : r.id = id := (findRecord_some h).2
  have hset := findRecord_withMember h s.seq.number (.left reason)
  have hq := queueLeave_silent (withMember s r.id s.seq.number (.left reason)) r reason
  have hflags : (queueLeave (withMember s r.id s.seq.number (.left reason)) r
      reason).report.flags.length = 16 := by
    rw [hq.report]
    exact hf
  have hfail := setFlag_quiet (.refl (queueLeave (withMember s r.id s.seq.number (.left reason)) r
    reason)) flagCompactFailed reason r.id
  have hon := (setFlag_records hflags (by decide : flagCompactFailed < 16) reason r.id).1
  have hrec := (findRecord_congr (hfail.compact.trans hq.compact) r.id).trans hset
  refine ⟨member_afterLeft (r := setMember r s.seq.number (.left reason)) hrec hl
    (memberState_setMember ha _),
    (afterLeft_flagsStay _ _).stays (hfail.flags.trans hflags) _ ?_⟩
  show (flagRecord (setFlag _ _ _ _) _).on = true
  rw [hon]

theorem makeTerminal_elsewhere (s : State) (r : CompactRecord) {st : CompactState}
    (h : st ≠ .forming ∧ st ≠ .moving ∧ st ≠ .held) : Elsewhere s (makeTerminal s r st) :=
  (makeTerminal_recs (.refl s) r h).elsewhere

theorem motionStart_beside (s : State) (id : Nat) : Beside s (motionStart s id) := by
  cases h : findRecord s id with
  | none =>
    rw [motionStart, h]
    exact .refl s
  | some r =>
    cases hv : startCheck s r with
    | error reason =>
      rw [motionStart, h]
      simp only [hv]
      split
      · exact ownLeave_beside s r reason
      · exact .refl s
    | ok az =>
      rw [motionStart_ok h hv]
      exact ((changeRecord_beside s r.id (by exact fun _ => rfl) (by
        exact fun _ => ⟨rfl, fun hf => hf, fun _ _ => rfl⟩)).trans (withAxis_beside _ _)).trans
          (tryStart_beside _)

theorem isLive_underWay (r : CompactRecord) : isLive (underWay r) = true := by
  unfold isLive underWay
  split <;> rfl

/-- Settles O42: the decision by the members, and the motion start by its check. -/
theorem theStartTimeDecides : Obligations.TheStartTimeDecides := by
  intro s id r hr hid
  subst hid
  refine ⟨fun h => congrArg Host.Outcome.next (startTime_stays hr h),
    fun hs ht hf r' goes hr' hgoes => ⟨fun hg => ?_, fun hg => ?_⟩⟩
  · have hend := (startTime_due hr hs ht).trans (decideStart_ends (hgoes.symm.trans hg))
    obtain ⟨-, hreport, -, helse⟩ := startMembers_only s r
    have hfind := findRecord_startMembers hr
    have hid' : (atStart r).id = r.id := by
      unfold atStart
      split <;> rfl
    have hnow : now (startMembers s r) = now s := by
      unfold now
      rw [helse.time]
    refine ⟨_, congrArg Host.Outcome.next hend, ?_, ?_,
      helse.trans (makeTerminal_elsewhere _ _ (by decide))⟩
    · rw [findRecord_makeTerminal hfind, ended, hnow, hr']
      rfl
    · rw [makeTerminal_flag (d := 20) rfl (hreport ▸ hf), hid', hnow]
  · have hgo := (startTime_due hr hs ht).trans (decideStart_goes (hgoes.symm.trans hg))
    have hfind := findRecord_decided hr
    obtain ⟨haxis, hreport, -, helse⟩ := decided_only s r
    have hcheck := startCheck_decided s r
    have hmember := fun h => memberState_atStart (r := r) (n := s.seq.number) h
    have hid' : (underWay (atStart r)).id = r.id := by
      unfold atStart
      split <;> rfl
    have hholds : (atStart r).holds = r.holds := by
      unfold atStart
      split <;> rfl
    have hpartial : (underWay (atStart r)).partialMode = r.partialMode := by
      unfold atStart
      split <;> rfl
    have hel : (underWay (atStart r)).el = r.el := by
      unfold atStart
      split <;> rfl
    have hr'' : r' = atStart r := hr'
    change startTime s r.id = motionStart (decided s r) r.id at hgo
    generalize decided s r = u at *
    have hcfg : cfg u = cfg s := by
      unfold cfg
      rw [helse.seq]
    have hjoint : ∀ az, jointEntry u { underWay (atStart r) with ownAz := az } =
        ⟨.joint, az, r.el, (cfg s).azMax, (cfg s).elMax, r.id, 0, none⟩ := fun az => by
      rw [jointEntry, hcfg]
      simp only [hel, hid']
    refine ⟨fun az hv hh => ?_, fun az hv hh => ?_, fun reason hv ha => ?_⟩
    · have hstart := motionStart_ok hfind (hcheck.trans hv)
      have hstate : (underWay (atStart r)).state = .held := by
        simp [underWay, hholds, hh]
      rw [tryStart_held (s := inserted u _ az) rfl rfl (by
        show ((underWay (atStart r)).state == .held) = true
        rw [hstate]
        rfl)] at hstart
      refine ⟨_, congrArg Host.Outcome.next (hgo.trans hstart), ?_, ?_,
        helse.trans (inserted_elsewhere _ _ _)⟩
      · rw [findRecord_inserted hfind az, hr'', ← hstate]
        rfl
      · rw [inserted_axis, hjoint, hstate, haxis]
        rfl
    · have hstart := motionStart_ok hfind (hcheck.trans hv)
      have hstate : (underWay (atStart r)).state = .moving := by
        simp [underWay, hholds, hh]
      refine ⟨_, congrArg Host.Outcome.next (hgo.trans hstart), ?_, ?_,
        helse.trans (inserted_elsewhere _ _ _)⟩
      · rw [findRecord_inserted hfind az, hr'', ← hstate]
        rfl
      · rw [inserted_axis, hjoint, hstate, haxis]
        rfl
    · have hnum : u.seq.number = s.seq.number := by rw [helse.seq]
      have ha' : memberState (underWay (atStart r)) u.seq.number = some .accepted := by
        rw [hnum]
        exact hmember ha
      have hstart := motionStart_refused hfind (hcheck.trans hv) ha'
      obtain ⟨⟨x, hx, hmem, hab⟩, hfail⟩ := ownLeave_fails hfind (isLive_underWay _) ha'
        (hreport ▸ hf) reason
      rw [hnum] at hmem
      exact ⟨_, x, congrArg Host.Outcome.next (hgo.trans hstart), hx, hmem,
        fun hp => hab (hpartial.trans hp), hfail,
        helse.trans (ownLeave_recs (.refl u) _ _).elsewhere⟩

/-! ### The deadline (R106, R114, R115) -/

theorem deadline_stays (h : findRecord s id = some r)
    (hd : isLive r = false ∨ nowMs s < toMs r.deadline) : deadline s id = s := by
  rw [deadline, h]
  refine if_neg fun hc => ?_
  simp only [Bool.and_eq_true, decide_eq_true_eq] at hc
  rcases hd with hd | hd
  · simp [hd] at hc
  · omega

theorem deadline_due (h : findRecord s id = some r) (hl : isLive r = true)
    (hd : toMs r.deadline ≤ nowMs s) : deadline s id =
      match findRecord (startTime s id) id with
      | some x => if isLive x then makeTerminal (startTime s id) x .timedOut else startTime s id
      | none => startTime s id := by
  rw [deadline, h]
  exact if_pos (by simp [hl, hd])

/-- The start that is decided keeps the deadline, and leaves FORMING (R103). -/
theorem startTime_record (h : findRecord s r.id = some r) (hs : r.state = .forming)
    (ht : toMs r.start ≤ nowMs s) : ∃ x, findRecord (startTime s r.id) r.id = some x ∧
      x.deadline = r.deadline ∧ x.state ≠ .forming := by
  have hkept : (atStart r).deadline = r.deadline := by
    unfold atStart
    split <;> rfl
  rw [startTime_due h hs ht]
  by_cases hg : goesAhead s r = true
  · have hforming : (underWay (atStart r)).state ≠ .forming := fun h => by
      unfold underWay at h
      dsimp only at h
      split at h <;> cases h
    rw [decideStart_goes hg]
    obtain ⟨x, hx, hon⟩ := (motionStart_beside (decided s r) r.id).records r.id _
      (findRecord_decided h)
    exact ⟨x, hx, hon.deadline.trans hkept, fun hf => hforming (hon.forming hf)⟩
  · rw [decideStart_ends (by simpa using hg)]
    exact ⟨_, findRecord_makeTerminal (findRecord_startMembers h) _, hkept, nofun⟩

/-- Settles O43: a record under way ends, and one in FORMING ends as its start decision leaves it.
-/
theorem theDeadlineTimesOut : Obligations.TheDeadlineTimesOut := by
  intro s id r hr hid
  subst hid
  refine ⟨fun h => congrArg Host.Outcome.next (deadline_stays hr h), fun hs hd hf => ?_,
    fun hs ht hd u hu => ?_⟩
  · have hlive : isLive r = true := isLive_of_forming (.inr hs)
    have hstays : startTime s r.id = s := startTime_stays hr (.inl (by
      rcases hs with hs | hs <;> rw [hs] <;> exact nofun))
    have hend : deadline s r.id = makeTerminal s r .timedOut := by
      rw [deadline_due hr hlive hd, hstays, hr]
      exact if_pos hlive
    exact ⟨_, congrArg Host.Outcome.next hend, makeTerminal_compact s r _,
      makeTerminal_flag (d := 21) rfl hf, makeTerminal_elsewhere s r (by decide),
      fun hi => makeTerminal_axis_of_not_inserted (d := 21) hi rfl,
      fun hi hm hj => makeTerminal_axis_of_leg (d := 21) hi rfl hm hj⟩
  · obtain rfl : startTime s r.id = u := Host.Outcome.next.inj hu
    refine congrArg Host.Outcome.next ?_
    obtain ⟨x, hx, hdead, hforming⟩ := startTime_record hr hs ht
    have hnow : nowMs (startTime s r.id) = nowMs s :=
      nowMs_congr (startTime_keeps (.refl s) r.id).time
    have hdue := deadline_due hr (isLive_of_forming (.inl hs)) hd
    rw [hdue, hx]
    have hagain : startTime (startTime s r.id) r.id = startTime s r.id :=
      startTime_stays hx (.inl hforming)
    by_cases hl : isLive x = true
    · rw [deadline_due hx hl (by rw [hdead, hnow]; exact hd), hagain, hx]
    · rw [deadline_stays hx (.inl (by simpa using hl))]
      exact if_neg hl

end Sys2Proof.Machine
end

section
/-! PROOFS. The QUERYs and their ANSWERs (R192, R193). -/

namespace Sys2Proof.Machine

variable {s t : State} {n target item index : Nat} {v : Option AnswerValue} {p : Encoders}

/-! ### One QUERY (R192) -/

theorem takeQuery_other (h : target ≠ s.seq.number) (item index : Nat) (v : Option AnswerValue) :
    takeQuery s n target item index v = s := if_neg (by simpa using h)

theorem takeQuery_clash (h : s.seq.station = .faulted .clash) (target item index : Nat)
    (v : Option AnswerValue) : takeQuery s n target item index v = s := by
  simp [takeQuery, isClash, h]

theorem takeQuery_listen (h : s.seq.station = .listen) (item index : Nat)
    (v : Option AnswerValue) : takeQuery s n s.seq.number item index v =
      if s.report.pending.length < 4 then
        s.withReport { s.report with
          pending := s.report.pending ++ [⟨n, 1, item * 256 + index⟩] }
      else s := by
  simp [takeQuery, h, keepQuery, subjectQuery, queryKey]

theorem takeQuery_answered (h : s.seq.station = .ready ∨ s.seq.station = .faulted .config)
    (item index : Nat) (v : Option AnswerValue) : takeQuery s n s.seq.number item index v =
      queueFrame s (.answer n 1 (item * 256 + index) (if v.isSome then 0 else 1) v) := by
  rcases h with h | h <;>
    simp [takeQuery, h, isClash, answerQuery, subjectQuery, queryKey, outcomeOk, outcomeNoItem]

/-! ### The plain QUERYs -/

/-- A frame that only consoles send, from a PRESENT console. -/
theorem readOfConsole (h : KnownConsole s n) (deliver : State → State) :
    (.next (takeConsoleFrame s n deliver) : Host.Outcome State Fault Refusal) =
      .next (deliver (frameRead s n)) := by
  rw [takeConsoleFrame_known h]

/-- A frame that only consoles send, from a PRESENT dish. -/
theorem readOfDish (h : KnownDish s n) (deliver : State → State) :
    (.next (takeConsoleFrame s n deliver) : Host.Outcome State Fault Refusal) =
      .next (frameRead s n) := by
  rw [takeConsoleFrame_dish h.1 h.2]

theorem exec_plainQueries (h : KnownConsole s n) (target index : Nat) :
    ∀ q ∈ plainQueries (frameRead s n) n target index,
      exec q.1 s = .next (takeQuery (frameRead s n) n target q.2.1 index q.2.2) := by
  have hread := readOfConsole h
  simp only [plainQueries, List.forall_mem_cons, List.not_mem_nil, false_implies, implies_true,
    and_true]
  exact ⟨hread _, hread _, hread _, hread _, hread _, hread _, hread _, hread _, hread _, hread _,
    hread _, hread _⟩

theorem exec_plainQueries_dish (h : KnownDish s n) (target index : Nat) :
    ∀ q ∈ plainQueries (frameRead s n) n target index, exec q.1 s = .next (frameRead s n) := by
  have hread := readOfDish h
  simp only [plainQueries, List.forall_mem_cons, List.not_mem_nil, false_implies, implies_true,
    and_true]
  exact ⟨hread _, hread _, hread _, hread _, hread _, hread _, hread _, hread _, hread _, hread _,
    hread _, hread _⟩

theorem exec_queryIdent (h : KnownConsole s n) (target item index : Nat) :
    exec (.queryIdent n target item index) s = .next (takeQuery (frameRead s n) n target item index
      (if item == 1 then identValue index else none)) :=
  congrArg Host.Outcome.next (takeConsoleFrame_known h _)

theorem exec_queryDish (h : KnownConsole s n) (target index : Nat) (p : Encoders) :
    exec (.queryDish n target index p) s =
      .next (takeDishQuery (frameRead s n) n target index p) :=
  congrArg Host.Outcome.next (takeConsoleFrame_known h _)

theorem exec_queryMelt (h : KnownConsole s n) (target index : Nat) :
    exec (.queryMelt n target index) s =
      .next (takeMeltQuery (frameRead s n) n target index) :=
  congrArg Host.Outcome.next (takeConsoleFrame_known h _)

/-! ### DISH and MELT (R1, R129, R193) -/

theorem takeDishQuery_other (h : target ≠ s.seq.number) :
    takeDishQuery s n target index p = s := by
  have hn : (target == s.seq.number) = false := beq_eq_false_iff_ne.2 h
  simp only [takeDishQuery, hn, Bool.false_and, Bool.false_eq_true, if_false]
  exact takeQuery_other h _ _ _

/-- A station that sends no frame reads no encoder for the QUERY. -/
theorem takeDishQuery_mute (h : transmits s = false) (target index : Nat) (p : Encoders) :
    takeDishQuery s n target index p = takeQuery s n target 3 index (dishValue s index) := by
  simp [takeDishQuery, h]

theorem takeDishQuery_answered (h : s.seq.station = .ready ∨ s.seq.station = .faulted .config)
    (hh : s.seq.held = false) (p : Encoders) : takeDishQuery s n s.seq.number index p =
      queueFrame (readEncoders s p) (.answer n 1 (3 * 256 + index) (if index = 0 then 0 else 1)
        (dishValue (readEncoders s p) index)) := by
  have ht : transmits s = true := by
    rcases h with h | h <;> simp [transmits, isReady, isConfigFault, h, hh]
  have hsome : (dishValue (readEncoders s p) index).isSome = decide (index = 0) := by
    by_cases hi : index = 0 <;> simp [dishValue, hi]
  simp only [takeDishQuery, ht, beq_self_eq_true, Bool.and_self, if_true]
  refine (takeQuery_answered (s := readEncoders s p) h 3 index _).trans ?_
  rw [hsome]
  simp

theorem takeMeltQuery_mute (h : s.seq.station = .listen ∨ s.seq.station = .faulted .clash)
    (target index : Nat) : takeMeltQuery s n target index =
      takeQuery s n target 10 index (meltValue s index) := by
  rcases h with h | h <;> simp [takeMeltQuery, isReady, isConfigFault, h]

theorem takeMeltQuery_other (h : target ≠ s.seq.number) : takeMeltQuery s n target index = s := by
  simp [takeMeltQuery, h, takeQuery_other h]

/-- An ANSWER of outcome OK clears the mark (R193). -/
theorem takeMeltQuery_answered (h : s.seq.station = .ready ∨ s.seq.station = .faulted .config) :
    takeMeltQuery s n s.seq.number index =
      (queueFrame s (.answer n 1 (10 * 256 + index) (if index = 0 then 0 else 1)
        (meltValue s index))).withSensor
          (if index = 0 then { s.sensor with meltChanged := false } else s.sensor) := by
  have hsome : (if (meltValue s index).isSome then 0 else 1) = if index = 0 then 0 else 1 := by
    by_cases hi : index = 0 <;> simp [meltValue, hi]
  have hmay : (isReady s || isConfigFault s) = true := by
    rcases h with h | h <;> simp [isReady, isConfigFault, h]
  have htake := takeQuery_answered (n := n) h 10 index (meltValue s index)
  rw [hsome] at htake
  simp only [takeMeltQuery, htake, hmay, beq_self_eq_true, Bool.true_and]
  have hsensor := (queueFrame_silent (.refl s) (.answer n 1 (10 * 256 + index)
    (if index = 0 then 0 else 1) (meltValue s index))).sensor
  generalize queueFrame s _ = w at hsensor ⊢
  by_cases hi : (index == 0) = true
  · rw [if_pos hi, if_pos (beq_iff_eq.1 hi), clearMeltMark, hsensor]
  · rw [if_neg hi, if_neg (fun h => hi (beq_iff_eq.2 h)), ← hsensor]
    rfl

/-! ### The indices of the items (R193) -/

theorem isSome_getElem?_eq {α : Type} (l : List α) (i : Nat) :
    l[i]?.isSome = decide (i < l.length) := by
  by_cases h : i < l.length <;> simp [h]

theorem configValue_isSome (s : State) (i : Nat) :
    (configValue s i).isSome = decide (i ≤ 8) := by
  unfold configValue
  by_cases h0 : i = 0
  · simp [h0]
  · by_cases h8 : i ≤ 8 <;> simp [h0, h8]

theorem membersValue_isSome (s : State) (i : Nat) : (membersValue s i).isSome =
    decide (i < (s.compact.list.map fun r => r.members.length).sum) := by
  simp [membersValue, List.length_flatMap, isSome_getElem?_eq]

theorem scanValue_isSome (s : State) (i : Nat) : (scanValue s i).isSome = decide (i ≤ 5) := by
  match i with
  | 0 | 1 | 2 | 3 | 4 | 5 => rfl
  | i + 6 => simp [scanValue, scanChannel]

theorem flagsValue_isSome (s : State) (i : Nat) : (flagsValue s i).isSome = decide (i ≤ 16) := by
  unfold flagsValue
  by_cases h0 : i = 0
  · simp [h0]
  · by_cases h16 : i ≤ 16 <;> simp [h0, h16]

theorem peerValue_isSome (s : State) (i : Nat) : (peerValue s i).isSome =
    decide (1 ≤ i ∧ i ≤ 63 ∧ i ≠ s.seq.number) := by
  unfold peerValue
  by_cases h : 1 ≤ i ∧ i ≤ 63 ∧ i ≠ s.seq.number
  · simp [h]
  · rw [if_neg (by simpa [and_assoc] using h)]
    simp [h]

/-- Each QUERY's index lies in its item's range where the item holds a value. -/
theorem itemRanges_eq (hw : s.wind.cells.length = 8) (n target index : Nat) :
    itemRanges s n target index = (plainQueries (frameRead s n) n target index).map fun q =>
      (q.1, q.2.1, q.2.2.isSome) := by
  have hident : (identValue index).isSome = (index == 0) := by
    by_cases hi : index = 0 <;> simp [identValue, hi]
  have hshares : (sharesValue (frameRead s n) index).isSome = (index == 0) := by
    by_cases hi : index = 0 <;> simp [sharesValue, hi]
  have hcells : (cellsValue (frameRead s n) index).isSome = decide (index ≤ 7) := by
    have hlen : (frameRead s n).wind.cells.length = 8 := hw
    simp only [cellsValue, Option.isSome_map, isSome_getElem?_eq, hlen]
    exact decide_eq_decide.2 (by omega)
  simp only [itemRanges, plainQueries, List.map_cons, List.map_nil, hident, configValue_isSome,
    membersValue_isSome, hshares, hcells, scanValue_isSome, flagsValue_isSome, peerValue_isSome,
    locksValue, compactsValue, loansValue, zonesValue, Option.isSome_map, isSome_getElem?_eq]
  rfl

/-! ### The statement -/

/-- Settles O26: the sender, the station's state and the item decide. -/
theorem queriesAreAnswered : Obligations.QueriesAreAnswered := by
  refine ⟨fun s n target item index p h => ?_, fun s n index p hk => ⟨fun hst => ?_, fun hst q hq =>
    ?_, fun target ht => ?_, fun hst hw q hq => ?_⟩⟩
  · rcases h with hd | ⟨hk, hst⟩
    · have hread := readOfDish hd
      exact ⟨exec_plainQueries_dish hd target index, hread _, hread _, hread _⟩
    · have hclash := fun item v =>
        takeQuery_clash (s := frameRead s n) (n := n) hst target item index v
      have hmute : transmits (frameRead s n) = false := by
        simp [transmits, isReady, isConfigFault, frameRead, hst]
      refine ⟨fun q hq => ?_, ?_, ?_, ?_⟩
      · rw [exec_plainQueries hk target index q hq, hclash]
      · rw [exec_queryIdent hk, hclash]
      · rw [exec_queryDish hk, takeDishQuery_mute hmute, hclash]
      · rw [exec_queryMelt hk, takeMeltQuery_mute (s := frameRead s n) (.inr hst), hclash]
  · have hanswer := takeQuery_answered (s := frameRead s n) (n := n) hst
    have hrec := hk.1.1
    have hheld : s.seq.held = false := by
      simp only [receives, Bool.and_eq_true, Bool.not_eq_true'] at hrec
      exact hrec.1
    refine ⟨fun q hq => ?_, fun item hi => ?_, ?_, ?_⟩
    · rw [exec_plainQueries hk _ index q hq]
      exact congrArg Host.Outcome.next (hanswer _ _ _)
    · have hne : (item == 1) = false := by
        rw [beq_eq_false_iff_ne]
        omega
      rw [exec_queryIdent hk, hne]
      exact congrArg Host.Outcome.next (hanswer item index none)
    · rw [exec_queryDish hk]
      exact congrArg Host.Outcome.next
        (takeDishQuery_answered (s := frameRead s n) hst hheld p)
    · rw [exec_queryMelt hk]
      exact congrArg Host.Outcome.next (takeMeltQuery_answered (s := frameRead s n) hst)
  · have hkeep := takeQuery_listen (s := frameRead s n) (n := n) hst
    have hmute : transmits (frameRead s n) = false := by
      simp [transmits, isReady, isConfigFault, frameRead, hst]
    rcases hq with hq | rfl | rfl
    · obtain ⟨x, hx, rfl⟩ := List.mem_map.1 hq
      rw [exec_plainQueries hk _ index x hx]
      exact congrArg Host.Outcome.next (hkeep _ _ _)
    · rw [exec_queryDish hk, takeDishQuery_mute hmute]
      exact congrArg Host.Outcome.next (hkeep _ _ _)
    · rw [exec_queryMelt hk, takeMeltQuery_mute (s := frameRead s n) (.inl hst)]
      exact congrArg Host.Outcome.next (hkeep _ _ _)
  · refine ⟨fun q hq => ?_, ?_, ?_⟩
    · rw [exec_plainQueries hk target index q hq, takeQuery_other (s := frameRead s n) ht]
    · rw [exec_queryDish hk, takeDishQuery_other (s := frameRead s n) ht]
    · rw [exec_queryMelt hk, takeMeltQuery_other (s := frameRead s n) ht]
  · rw [itemRanges_eq hw] at hq
    obtain ⟨x, hx, rfl⟩ := List.mem_map.1 hq
    have hanswer := takeQuery_answered (s := frameRead s n) (n := n) hst x.2.1 index x.2.2
    have hexec := (exec_plainQueries hk _ index x hx).trans (congrArg Host.Outcome.next hanswer)
    refine ⟨fun hnone => ?_, fun hsome => ?_⟩
    · have hv : x.2.2 = none := Option.isNone_iff_eq_none.1 (by simpa using hnone)
      rw [hexec, hv]
      rfl
    · obtain ⟨v, hv⟩ := Option.isSome_iff_exists.1 hsome
      refine ⟨v, ?_⟩
      rw [hexec, hv]
      rfl

end Sys2Proof.Machine
end

section
/-! PROOFS. CLEAR: the named flags, and those that are set again (R191). -/

namespace Sys2Proof.Machine

variable {s t u : State} {n k : Nat} {f : BitVec 16}

/-! ### Conditions that persist (R189) -/

/-- What a flag's condition is judged from is as it was: only flag records and the transmit queue
may have changed. -/
structure Judged (s t : State) : Prop where
  axis : t.axis = s.axis
  lock : t.lock = s.lock
  compact : t.compact = s.compact
  sensor : t.sensor = s.sensor
  wind : t.wind = s.wind
  time : t.time = s.time
  seq : t.seq = s.seq
  keepOut : t.keepOut = s.keepOut
  pins : t.pins = s.pins
  passive : t.line.passive = s.line.passive
  quiet : t.line.quiet = s.line.quiet
  halted : t.report.haltedFlags = s.report.haltedFlags
  flags : t.report.flags.length = s.report.flags.length

theorem Judged.refl (s : State) : Judged s s :=
  ⟨rfl, rfl, rfl, rfl, rfl, rfl, rfl, rfl, rfl, rfl, rfl, rfl, rfl⟩

theorem Judged.trans (h : Judged s t) (k : Judged t u) : Judged s u :=
  ⟨k.axis.trans h.axis, k.lock.trans h.lock, k.compact.trans h.compact, k.sensor.trans h.sensor,
    k.wind.trans h.wind, k.time.trans h.time, k.seq.trans h.seq, k.keepOut.trans h.keepOut,
    k.pins.trans h.pins, k.passive.trans h.passive, k.quiet.trans h.quiet,
    k.halted.trans h.halted, k.flags.trans h.flags⟩

theorem Judged.isSome (h : Judged s t) (k : Nat) :
    (persisting t k).isSome = (persisting s k).isSome := by
  obtain ⟨haxis, hlock, -, hsensor, hwind, htime, hseq, -, hpins, hpassive, hquiet, hhalted, -⟩ := h
  unfold persisting isClash
  rw [haxis, hsensor, hwind, htime, hseq, hpins, hpassive, hquiet, hhalted]
  have hif : ∀ (c : Bool) (a b : Nat × Nat),
      (if c then some a else none).isSome = (if c then some b else none).isSome := by
    intro c a b
    cases c <;> rfl
  split
  · exact hif _ _ _
  · exact hif _ _ _
  · exact hif _ _ _
  · exact hif _ _ _
  · exact hif _ _ _
  · exact hif _ _ _
  all_goals rfl

theorem clearFlags_judged (s : State) (f : BitVec 16) : Judged s (clearFlags s f) :=
  ⟨rfl, rfl, rfl, rfl, rfl, rfl, rfl, rfl, rfl, rfl, rfl, rfl, List.length_mapIdx⟩

/-- The flags 1 to 4 persist in HALTED where their setting there is noted. -/
theorem noted_of_persisting (h : (persisting s k).isSome = true) (hk : 1 ≤ k ∧ k ≤ 4) :
    s.report.haltedFlags.contains k = true := by
  have hshape : persisting s k =
      if s.axis.motion == .halted && s.report.haltedFlags.contains k then
        some ((flagRecord s k).detail, (flagRecord s k).extra)
      else none := by
    obtain rfl | rfl | rfl | rfl : k = 1 ∨ k = 2 ∨ k = 3 ∨ k = 4 := by omega
    all_goals rfl
  rw [hshape] at h
  split at h
  · rename_i hc
    exact (Bool.and_eq_true_iff.1 hc).2
  · cases h

/-- A flag set again, whose setting in HALTED is noted already. -/
theorem recordFlag_judged (h : (persisting s k).isSome = true) (d x : Nat) :
    Judged s (recordFlag s k d x) := by
  refine ⟨rfl, rfl, rfl, rfl, rfl, rfl, rfl, rfl, rfl, rfl, rfl, if_neg fun hc => ?_,
    List.length_set⟩
  simp only [Bool.and_eq_true, decide_eq_true_eq] at hc
  rw [noted_of_persisting h hc.1.2] at hc
  exact absurd hc.2 (by simp)

theorem Silent.judged (h : Silent s t) : Judged s t :=
  ⟨h.axis, h.lock, h.compact, h.sensor, h.wind, h.time, h.seq, h.keepOut, h.pins,
    by rw [h.counters], by rw [h.counters], by rw [h.report], by rw [h.report]⟩

/-! ### The flags set again (R191) -/

theorem resetFlag_none (h : persisting s k = none) : resetFlag s k = s := by
  rw [resetFlag, h]

theorem resetFlag_some {d x : Nat} (h : persisting s k = some (d, x)) :
    resetFlag s k = setFlag s k d x := by
  rw [resetFlag, h]

theorem resetFlag_judged (s : State) (k : Nat) : Judged s (resetFlag s k) := by
  cases h : persisting s k with
  | none =>
    rw [resetFlag_none h]
    exact .refl s
  | some x =>
    rw [resetFlag_some h]
    exact (recordFlag_judged (by rw [h]; rfl) _ _).trans (setFlag_silent s k _ _).judged

/-- A flag as a list of others and it leaves it: set anew where its condition persists. -/
theorem resetFlags_spec {l : List Nat} (hl : l.Nodup) (hlt : ∀ k ∈ l, k < 16)
    (hf : s.report.flags.length = 16) :
    Judged s (l.foldl resetFlag s) ∧ ∀ k,
      (k ∈ l ∧ (persisting s k).isSome = true → ∃ d x,
        flagRecord (l.foldl resetFlag s) k = ⟨true, d, x, now s⟩) ∧
      (k ∉ l ∨ persisting s k = none →
        flagRecord (l.foldl resetFlag s) k = flagRecord s k) := by
  induction l generalizing s with
  | nil => exact ⟨.refl s, fun k => ⟨fun h => absurd h.1 (List.not_mem_nil), fun _ => rfl⟩⟩
  | cons a l ih =>
    obtain ⟨ha, hnodup⟩ := List.nodup_cons.1 hl
    have hstep := resetFlag_judged s a
    obtain ⟨hrest, hspec⟩ := ih (s := resetFlag s a) hnodup
      (fun k hk => hlt k (List.mem_cons_of_mem a hk)) (hstep.flags.trans hf)
    have hnow : now (resetFlag s a) = now s := by
      unfold now
      rw [hstep.time]
    have hset : ∀ k, (k = a → (persisting s a).isSome = true →
        ∃ d x, flagRecord (resetFlag s a) k = ⟨true, d, x, now s⟩) ∧
        (k ≠ a ∨ persisting s a = none → flagRecord (resetFlag s a) k = flagRecord s k) := by
      intro k
      cases h : persisting s a with
      | none =>
        rw [resetFlag_none h]
        exact ⟨fun _ h => absurd h Bool.false_ne_true, fun _ => rfl⟩
      | some p =>
        have hrec := setFlag_records hf (hlt a List.mem_cons_self) p.1 p.2
        rw [resetFlag_some h]
        refine ⟨fun hk _ => ⟨p.1, p.2, hk ▸ hrec.1⟩, fun hk => ?_⟩
        exact hrec.2 k (hk.resolve_right nofun)
    refine ⟨hstep.trans hrest, fun k => ⟨fun hk => ?_, fun hk => ?_⟩⟩
    · rw [List.foldl_cons]
      by_cases hka : k = a
      · obtain ⟨d, x, hx⟩ := (hset k).1 hka (hka ▸ hk.2)
        exact ⟨d, x, ((hspec k).2 (.inl (hka ▸ ha))).trans hx⟩
      · have hmem : k ∈ l := (List.mem_cons.1 hk.1).resolve_left hka
        obtain ⟨d, x, hx⟩ := (hspec k).1 ⟨hmem, (hstep.isSome k).trans hk.2⟩
        exact ⟨d, x, hnow ▸ hx⟩
    · rw [List.foldl_cons]
      have hnone : k ∉ l ∨ persisting (resetFlag s a) k = none := by
        rcases hk with hk | hk
        · exact .inl fun h => hk (List.mem_cons_of_mem a h)
        · refine .inr (Option.isNone_iff_eq_none.1 ?_)
          have := hstep.isSome k
          rw [hk] at this
          simpa using this
      rw [(hspec k).2 hnone]
      refine (hset k).2 ?_
      by_cases hka : k = a
      · rcases hk with hk | hk
        · exact absurd (hka ▸ List.mem_cons_self) hk
        · exact .inr (hka ▸ hk)
      · exact .inl hka

/-! ### CLEAR (R191) -/

/-- The numbers of the flags named (R191). -/
def namedFlags (f : BitVec 16) : List Nat := (List.range 16).filter fun n => f.getLsbD n

theorem mem_namedFlags : k ∈ namedFlags f ↔ k < 16 ∧ f.getLsbD k = true := by
  simp [namedFlags]

theorem applyClear_eq (s : State) (f : BitVec 16) :
    applyClear s f = (namedFlags f).foldl resetFlag (clearFlags s f) := rfl

theorem flagRecord_clearFlags (hf : s.report.flags.length = 16) (hk : k < 16) (f : BitVec 16) :
    flagRecord (clearFlags s f) k =
      if f.getLsbD k then { flagRecord s k with on := false } else flagRecord s k := by
  have hlt : k < s.report.flags.length := by omega
  simp [flagRecord, clearFlags, List.getD_eq_getElem?_getD, hlt]

/-- The flags named are cleared, and those whose condition persists set anew (R191). -/
theorem applyClear_spec (hf : s.report.flags.length = 16) (f : BitVec 16) :
    Judged s (applyClear s f) ∧
      (∀ k, k < 16 → f.getLsbD k = false → flagRecord (applyClear s f) k = flagRecord s k) ∧
      (∀ k, k < 16 → f.getLsbD k = true →
        flagOn (applyClear s f) k = (persisting s k).isSome) ∧
      ∀ k, k < 16 → f.getLsbD k = true → (persisting s k).isSome = true →
        (flagRecord (applyClear s f) k).time = now s := by
  have hclear := clearFlags_judged s f
  obtain ⟨hfold, hspec⟩ := resetFlags_spec (s := clearFlags s f) (l := namedFlags f)
    (List.nodup_range.filter _) (fun k hk => (mem_namedFlags.1 hk).1) (hclear.flags.trans hf)
  have hpersist := hclear.isSome
  rw [applyClear_eq]
  refine ⟨hclear.trans hfold, fun k hk hb => ?_, fun k hk hb => ?_, fun k hk hb hp => ?_⟩
  · rw [(hspec k).2 (.inl fun h => by simp [(mem_namedFlags.1 h).2] at hb),
      flagRecord_clearFlags hf hk, if_neg (by simp [hb])]
  · cases hp : persisting s k with
    | none =>
      have hnone : persisting (clearFlags s f) k = none :=
        Option.isNone_iff_eq_none.1 (by simpa [hp] using hpersist k)
      rw [flagOn, (hspec k).2 (.inr hnone), flagRecord_clearFlags hf hk, if_pos hb]
      rfl
    | some x =>
      obtain ⟨d, y, hx⟩ := (hspec k).1 ⟨mem_namedFlags.2 ⟨hk, hb⟩,
        (hpersist k).trans (by rw [hp]; rfl)⟩
      rw [flagOn, hx]
      rfl
  · obtain ⟨d, y, hx⟩ := (hspec k).1 ⟨mem_namedFlags.2 ⟨hk, hb⟩, (hpersist k).trans hp⟩
    rw [hx]
    rfl

/-- Where no condition persists the flags are cleared and nothing else happens. -/
theorem applyClear_none (h : ∀ k, k < 16 → f.getLsbD k = true → persisting s k = none) :
    applyClear s f = clearFlags s f := by
  have hpersist := (clearFlags_judged s f).isSome
  rw [applyClear_eq]
  have hall : ∀ k ∈ namedFlags f, resetFlag (clearFlags s f) k = clearFlags s f := fun k hk => by
    obtain ⟨hlt, hb⟩ := mem_namedFlags.1 hk
    exact resetFlag_none (Option.isNone_iff_eq_none.1 (by simpa [h k hlt hb] using hpersist k))
  generalize clearFlags s f = v at hall ⊢
  generalize namedFlags f = l at hall ⊢
  induction l with
  | nil => rfl
  | cons a l ih =>
    rw [List.foldl_cons, hall a List.mem_cons_self]
    exact ih fun k hk => hall k (List.mem_cons_of_mem a hk)

/-- In FAULTED for a clash a flag is set without a frame (R76, R190). -/
theorem setFlag_clash (h : isClash s = true) (k d x : Nat) :
    setFlag s k d x = recordFlag s k d x := by
  have hst : s.seq.station = .faulted .clash := by simpa [isClash] using h
  have hready : isReady (recordFlag s k d x) = false := by
    simp [isReady, recordFlag, hst]
  have hmute : transmits (recordFlag s k d x) = false := by
    simp [transmits, isReady, isConfigFault, recordFlag, hst]
  have hevent : queueEvent (recordFlag s k d x) k = recordFlag s k d x := by
    unfold queueEvent enqueue enqueueEntry
    rw [hmute]
    simp
  have hraw : setFlagRaw s k d x = recordFlag s k d x := by
    unfold setFlagRaw
    rw [hevent, ite_self]
  rw [setFlag, hraw, settlePower_not_ready hready]

theorem applyClear_clash (h : isClash s = true) (f : BitVec 16) :
    (applyClear s f).line = s.line := by
  have hfold : ∀ (l : List Nat) (v : State), isClash v = true →
      (l.foldl resetFlag v).line = v.line := fun l => by
    induction l with
    | nil => exact fun _ _ => rfl
    | cons a l ih =>
      intro v hv
      have hstep : (resetFlag v a).line = v.line ∧ isClash (resetFlag v a) = true := by
        cases hp : persisting v a with
        | none =>
          rw [resetFlag_none hp]
          exact ⟨rfl, hv⟩
        | some x =>
          rw [resetFlag_some hp, setFlag_clash hv]
          exact ⟨rfl, hv⟩
      rw [List.foldl_cons, ih _ hstep.2, hstep.1]
  exact hfold (namedFlags f) (clearFlags s f) h

theorem exec_clear (h : KnownConsole s n) (target : Nat) (f : BitVec 16) :
    exec (.clear n target f) s = .next (takeClear (frameRead s n) n target f) :=
  readOfConsole h _

theorem takeClear_answered (h : s.seq.station = .ready ∨ s.seq.station = .faulted .config)
    (n : Nat) (f : BitVec 16) : takeClear s n s.seq.number f =
      queueFrame (applyClear s f) (.answer n 2 f.toNat 0 none) := by
  rcases h with h | h <;> simp [takeClear, h, isClash, subjectClear, outcomeOk]

theorem takeClear_clash (h : s.seq.station = .faulted .clash) (n : Nat) (f : BitVec 16) :
    takeClear s n s.seq.number f = applyClear s f := by
  simp [takeClear, h, isClash]

theorem takeClear_listen (h : s.seq.station = .listen) (n : Nat) (f : BitVec 16) :
    takeClear s n s.seq.number f = if s.report.pending.length < 4 then
      s.withReport { s.report with pending := s.report.pending ++ [⟨n, 2, f.toNat⟩] } else s := by
  simp [takeClear, h, keepQuery, subjectClear]

/-- Settles O27: the named flags are judged one by one, and the ANSWER follows. -/
theorem clearClearsTheNamedFlags : Obligations.ClearClearsTheNamedFlags := by
  refine ⟨fun s n target f h => readOfDish h _, fun s n f hk hf => ⟨fun hst => ?_,
    fun hst hp => ?_, fun hst hp => ?_, fun target ht => ?_⟩⟩
  · obtain ⟨hjudged, hother, hon, htime⟩ := applyClear_spec (s := frameRead s n) hf f
    have hnone := applyClear_none (s := frameRead s n) (f := f)
    have hclash := fun h => applyClear_clash (s := frameRead s n) h f
    rw [exec_clear hk]
    by_cases hc : s.seq.station = .faulted .clash
    · have htake := takeClear_clash (s := frameRead s n) hc n f
      exact ⟨_, congrArg Host.Outcome.next htake, fun h => absurd hc h, fun h => absurd hc h,
        fun _ => hclash (by simp [isClash, frameRead, hc]), hother, hon, htime, hjudged.axis,
        hjudged.lock, hjudged.compact, hjudged.sensor, hjudged.wind, hjudged.time, hjudged.seq,
        hjudged.keepOut⟩
    · have htake := takeClear_answered (s := frameRead s n) (by
        rcases hst with h | h | h
        · exact .inl h
        · exact .inr h
        · exact absurd h hc) n f
      have hsilent := queueFrame_silent (.refl (applyClear (frameRead s n) f))
        (.answer n 2 f.toNat 0 none)
      have hanswered := hjudged.trans hsilent.judged
      have hrec : ∀ k, flagRecord (queueFrame (applyClear (frameRead s n) f)
          (.answer n 2 f.toNat 0 none)) k = flagRecord (applyClear (frameRead s n) f) k :=
        fun k => by
          unfold flagRecord
          rw [hsilent.report]
      refine ⟨_, congrArg Host.Outcome.next htake,
        fun _ => ⟨_, rfl, congrArg ReportUnit.flags hsilent.report.symm⟩, fun _ h => ?_,
        fun h => absurd h hc, fun k hk hb => (hrec k).trans (hother k hk hb), fun k hk hb => ?_,
        fun k hk hb hp => ?_, hanswered.axis, hanswered.lock, hanswered.compact, hanswered.sensor,
        hanswered.wind, hanswered.time, hanswered.seq, hanswered.keepOut⟩
      · rw [hnone h]
        rfl
      · rw [flagOn, hrec]
        exact hon k hk hb
      · rw [hrec]
        exact htime k hk hb hp
  · rw [exec_clear hk]
    exact congrArg Host.Outcome.next
      ((takeClear_listen (s := frameRead s n) hst n f).trans (if_pos hp))
  · rw [exec_clear hk]
    exact congrArg Host.Outcome.next
      ((takeClear_listen (s := frameRead s n) hst n f).trans (if_neg (Nat.not_lt.2 hp)))
  · rw [exec_clear hk]
    exact congrArg Host.Outcome.next (if_neg fun h => ht (beq_iff_eq.1 h))

end Sys2Proof.Machine
end

section
/-! PROOFS. Scans begun, pulses counted, the WIND told again, and the lamps (R47, R120, R123, R132,
R148, R194). -/

namespace Sys2Proof.Machine

variable {s : State}

/-! ### The scan instants and the pulses (R120, R123) -/

theorem scanInstant_begins (hc : s.seq.config.isSome = true) (hl : s.sensor.latched = true)
    (ht : s.sensor.nextScan ≤ nowMs s) (hn : s.sensor.scan = none) :
    scanInstant s = beginScan s := by
  simp [scanInstant, hc, hl, ht, hn]

theorem scanInstant_busy (hc : s.seq.config.isSome = true) (hl : s.sensor.latched = true)
    (ht : s.sensor.nextScan ≤ nowMs s) (hn : s.sensor.scan.isSome = true) :
    scanInstant s = s.withSensor { s.sensor with
      nextScan := (nowMs s / (cfg s).scanInterval + 1) * (cfg s).scanInterval } := by
  simp [scanInstant, hc, hl, ht, hn]

theorem beginScan_latched (hl : s.sensor.latched = true) : beginScan s =
    s.withSensor { s.sensor with
      scan := some ⟨0, s.sensor.pulsesA, s.sensor.pulsesB, some s.sensor.sinceLatch⟩
      nextScan := (nowMs s / (cfg s).scanInterval + 1) * (cfg s).scanInterval
      sinceLatch := 0, pulsesA := 0, pulsesB := 0 } := by
  rw [beginScan, if_pos hl, ← hl]

theorem pulse_counted (hs : (cfg s).sensor = true) (hl : s.sensor.latched = true) {w : Nat}
    (hw : (cfg s).filterWidth ≤ w) (x : Anemometer) : pulse s x w = match x with
      | .a => s.withSensor { s.sensor with pulsesA := s.sensor.pulsesA + 1 }
      | .b => s.withSensor { s.sensor with pulsesB := s.sensor.pulsesB + 1 } :=
  if_pos (by simp [hs, hl, hw])

theorem pulse_ignored {w : Nat} (h : (cfg s).sensor = false ∨ w < (cfg s).filterWidth)
    (x : Anemometer) : pulse s x w = s := by
  refine if_neg fun hc => ?_
  simp only [Bool.and_eq_true, decide_eq_true_eq] at hc
  rcases h with h | h
  · simp [h] at hc
  · omega

/-- Settles O45: whether a scan is in flight, and the pulse's width. -/
theorem scansBeginAndPulsesAreCounted : Obligations.ScansBeginAndPulsesAreCounted := by
  refine fun s hc hl => ⟨fun ht => ⟨fun hn => ?_, fun hn => ?_⟩, fun w => ⟨fun hs hw => ⟨?_, ?_⟩,
    fun h x => ?_⟩⟩
  · exact congrArg Host.Outcome.next ((scanInstant_begins hc hl ht hn).trans
      (beginScan_latched hl))
  · exact congrArg Host.Outcome.next (scanInstant_busy hc hl ht hn)
  · exact congrArg Host.Outcome.next (pulse_counted hs hl hw .a)
  · exact congrArg Host.Outcome.next (pulse_counted hs hl hw .b)
  · exact congrArg Host.Outcome.next (pulse_ignored h x)

/-! ### The WIND told again (R132) -/

theorem resendDue_iff (s : State) {r : Nat} (hr : s.sensor.windRun = some r) :
    resendDue s = true ↔ s.seq.station = .ready ∧ (cfg s).sensor = true ∧
      s.sensor.level = .stow ∧ s.sensor.status ≠ .faulted ∧ 30000 ≤ r := by
  simp [resendDue, hr, isReady, and_assoc]

/-- The level's own cause in a WIND of level STOW (R132). -/
theorem levelCause_stow (h : s.sensor.level = .stow) :
    levelCause s = if s.sensor.stowCause = some .gust then 1 else 0 := by
  unfold levelCause
  rw [h]
  cases s.sensor.stowCause with
  | none => rfl
  | some c => cases c <;> rfl

theorem queueWind_eq (s : State) (cause : Nat) : queueWind s cause =
    (queueFrame s (.wind (cfg s).ownCell (levelCode s.sensor.level) s.sensor.combined
      cause)).withSensor { s.sensor with windRun := some 0 } := by
  have h := (queueFrame_silent (.refl s) (.wind (cfg s).ownCell (levelCode s.sensor.level)
    s.sensor.combined cause)).sensor
  unfold queueWind
  dsimp only
  rw [h]

/-! ### The lamps and the FAULT line (R47, R148, R194) -/

theorem scopeEmpty_foldl (l : List LockEntry) (m : Scope) :
    scopeEmpty (l.foldl (fun m e => scopeUnion m e.scope) m) = true ↔
      scopeEmpty m = true ∧ ∀ e ∈ l, scopeEmpty e.scope = true := by
  induction l generalizing m with
  | nil => simp
  | cons e l ih =>
    have hunion : scopeEmpty (scopeUnion m e.scope) = true ↔
        scopeEmpty m = true ∧ scopeEmpty e.scope = true := by
      simp only [scopeEmpty, scopeUnion, Bool.not_eq_true', Bool.or_eq_false_iff]
      tauto
    rw [List.foldl_cons, ih, hunion, List.forall_mem_cons, and_assoc]

/-- The LOCK lamp is lit while some entry covers a part (R47). -/
theorem lockLamp_iff (s : State) :
    lockLamp s = true ↔ ∃ e ∈ s.lock.list, scopeEmpty e.scope = false := by
  have h := scopeEmpty_foldl s.lock.list Scope.none
  rw [lockLamp, Bool.not_eq_true', ← Bool.not_eq_true, lockMask, h]
  have hnone : scopeEmpty Scope.none = true := rfl
  simp [hnone]

theorem isFaultFlag_iff (n : Nat) : isFaultFlag n = true ↔ n ∈ [0, 1, 2, 3, 4, 5, 7, 8, 15] :=
  List.contains_iff_mem

theorem faultSummary_iff (s : State) :
    faultSummary s = true ↔ ∃ n ∈ [0, 1, 2, 3, 4, 5, 7, 8, 15], flagOn s n = true := by
  have hlt : ∀ n ∈ [0, 1, 2, 3, 4, 5, 7, 8, 15], n < 16 := by decide
  simp only [faultSummary, List.any_eq_true, Bool.and_eq_true, isFaultFlag_iff, List.mem_range]
  exact ⟨fun ⟨n, _, hn, hf⟩ => ⟨n, hn, hf⟩, fun ⟨n, hn, hf⟩ => ⟨n, hlt n hn, hn, hf⟩⟩

theorem faultLine_iff (s : State) : faultLine s = true ↔
    (∃ n ∈ [0, 1, 2, 3, 4, 5, 7, 8, 15], flagOn s n = true) ∨
      ∃ k, s.seq.station = .faulted k := by
  rw [faultLine, Bool.or_eq_true, faultSummary_iff]
  refine or_congr Iff.rfl ?_
  cases s.seq.station <;> simp

theorem judgeBlocked_blocked (s : State) : (judgeBlocked s).wind.blocked =
    (s.wind.ordered && (blockCause s (lockMask s)).isSome) := by
  unfold judgeBlocked
  split
  · rename_i cause ho hc
    rw [ho, hc]
    split
    · assumption
    · exact congrArg WindUnit.blocked (setFlag_silent _ _ _ _).wind
  · rename_i hne
    have hfalse : (s.wind.ordered && (blockCause s (lockMask s)).isSome) = false := by
      cases ho : s.wind.ordered with
      | false => rfl
      | true =>
        cases hc : blockCause s (lockMask s) with
        | none => rfl
        | some c => exact (hne c ho hc).elim
    rw [hfalse]
    split
    · rfl
    · simpa using ‹¬ s.wind.blocked = true›

/-- A flash begins with its lit half (R194). -/
theorem judgeBlocked_begins (h : s.wind.blocked = false)
    (hb : (judgeBlocked s).wind.blocked = true) :
    stowLamp (judgeBlocked s) = true ∧ (judgeBlocked s).report.lampRun = 0 := by
  obtain ⟨ho, hc⟩ := Bool.and_eq_true_iff.1 ((judgeBlocked_blocked s).symm.trans hb)
  obtain ⟨c, hc⟩ := Option.isSome_iff_exists.1 hc
  have heq : judgeBlocked s = setFlag ((s.withWind { s.wind with blocked := true }).withReport
      { s.report with lampOn := true, lampRun := 0 }) flagStowBlocked c 0 := by
    unfold judgeBlocked
    rw [ho, hc]
    exact if_neg (by simp [h])
  have hreport := (setFlag_silent ((s.withWind { s.wind with blocked := true }).withReport
    { s.report with lampOn := true, lampRun := 0 }) flagStowBlocked c 0).report
  rw [stowLamp, if_pos hb, heq, hreport]
  exact ⟨rfl, rfl⟩

/-- Settles O49: the WIND by the level and the status, the lamps from the state. -/
theorem theStowIsToldAgain : Obligations.TheStowIsToldAgain := by
  refine ⟨fun s k r hst hs hl hr h30 => ⟨fun hf hk => ?_, fun hf => ?_⟩, fun s hb hrun => ?_,
    fun s => ⟨lockLamp_iff s, fun hb => ?_, fun hb => ?_, faultLine_iff s, judgeBlocked_blocked s,
      judgeBlocked_begins⟩⟩
  · have hdue := (resendDue_iff s hr).2 ⟨hst, hs, hl, hf, h30⟩
    refine congrArg Host.Outcome.next ((if_pos hdue).trans ?_)
    rw [queueWind_eq, levelCause_stow hl, hl, hk]
    rfl
  · refine congrArg Host.Outcome.next (if_neg fun hdue => ?_)
    obtain ⟨-, -, -, hne, -⟩ := (resendDue_iff s hr).1 hdue
    exact hne hf
  · exact congrArg Host.Outcome.next (if_pos (by simp [hb, hrun]))
  · rw [stowLamp, if_pos hb]
  · rw [stowLamp, if_neg (by simp [hb])]
    simp

end Sys2Proof.Machine
end

section
/-! PROOFS. A scan's results: what is recorded of it, the level and the status, and the notices that
follow (R121 to R133). -/

namespace Sys2Proof.Machine

variable {s t v : State} {c : Scan} {r : ScanReadings} {k : Nat}

/-! ### The unit after a scan (R121 to R130) -/

/-- What the judgement of the anemometers, the status and the level leaves of a scan's results. -/
structure Measured (u x : SensorUnit) : Prop where
  discarded : x.discarded = u.discarded
  good : x.good = u.good
  latest : x.latest = u.latest
  reference : x.reference = u.reference
  surface : x.surface = u.surface
  air : x.air = u.air
  ice : x.ice = u.ice
  cold : x.cold = u.cold
  icePresent : x.icePresent = u.icePresent
  melt : x.melt = u.melt
  meltChanged : x.meltChanged = u.meltChanged
  failed : x.referenceFailed = u.referenceFailed

theorem Measured.refl (u : SensorUnit) : Measured u u :=
  ⟨rfl, rfl, rfl, rfl, rfl, rfl, rfl, rfl, rfl, rfl, rfl, rfl⟩

theorem Measured.trans {u x y : SensorUnit} (h : Measured u x) (k : Measured x y) : Measured u y :=
  ⟨k.discarded.trans h.discarded, k.good.trans h.good, k.latest.trans h.latest,
    k.reference.trans h.reference, k.surface.trans h.surface, k.air.trans h.air,
    k.ice.trans h.ice, k.cold.trans h.cold, k.icePresent.trans h.icePresent, k.melt.trans h.melt,
    k.meltChanged.trans h.meltChanged, k.failed.trans h.failed⟩

/-- The level machine changes the level, its cause, its counts and its calm run. -/
theorem judgeLevel_eq (s : State) (u : SensorUnit) : ∃ l c w k r, judgeLevel s u = { u with
    level := l, stowCause := c, watchCount := w, stowCount := k, calmRun := r } := by
  unfold judgeLevel levelStep
  split
  · exact ⟨_, _, _, _, _, rfl⟩
  · split
    · exact ⟨_, _, _, _, _, rfl⟩
    · split
      · exact ⟨_, _, _, _, _, rfl⟩
      · split
        · exact ⟨_, _, _, _, _, rfl⟩
        · exact ⟨_, _, _, _, _, rfl⟩

/-- The end of a scan: the status judged, and the level machine besides (R126, R130, R131). -/
theorem finishScan_eq (s : State) (u : SensorUnit) (judged : Bool) : ∃ l c w k r,
    finishScan s u judged = { u with
      status := statusNow u, scan := none
      level := l, stowCause := c, watchCount := w, stowCount := k, calmRun := r } := by
  unfold finishScan
  dsimp only
  split
  · split
    · exact ⟨_, _, _, _, _, rfl⟩
    · exact ⟨_, _, _, _, _, rfl⟩
  · split
    · exact judgeLevel_eq s { u with status := statusNow u, scan := none }
    · exact ⟨_, _, _, _, _, rfl⟩

theorem finishScan_measured (s : State) (u : SensorUnit) (judged : Bool) :
    Measured u (finishScan s u judged) := by
  obtain ⟨l, c, w, k, r, h⟩ := finishScan_eq s u judged
  rw [h]
  exact ⟨rfl, rfl, rfl, rfl, rfl, rfl, rfl, rfl, rfl, rfl, rfl, rfl⟩

theorem finishScan_ends (s : State) (u : SensorUnit) (judged : Bool) :
    (finishScan s u judged).scan = none ∧ (finishScan s u judged).status = statusNow u ∧
      (finishScan s u judged).channelA = u.channelA ∧
      (finishScan s u judged).channelB = u.channelB ∧
      (finishScan s u judged).combined = u.combined := by
  obtain ⟨l, c, w, k, r, h⟩ := finishScan_eq s u judged
  rw [h]
  exact ⟨rfl, rfl, rfl, rfl, rfl⟩

/-- A scan that is not judged leaves the level (R130). -/
theorem finishScan_level (s : State) (u : SensorUnit) :
    (finishScan s u false).level = u.level := by
  unfold finishScan
  dsimp only
  split
  · split <;> rfl
  · rfl

theorem goodAnemos_measured (s : State) (u : SensorUnit) (c : Scan) :
    Measured u (goodAnemos s u c) := by
  unfold goodAnemos anemoChannels
  split <;> exact ⟨rfl, rfl, rfl, rfl, rfl, rfl, rfl, rfl, rfl, rfl, rfl, rfl⟩

theorem scanResult_good (s : State) (c : Scan) (r : ScanReadings)
    (h : inRange (cfg s).refLo (cfg s).refHi (clampInt 0 4095 r.reference) = true) :
    scanResult s c r = if (cfg s).sensor then
      finishScan s (goodAnemos s (goodChannels s s.sensor r) c) c.window.isSome
    else finishScan s (goodChannels s s.sensor r) false := if_pos h

theorem scanResult_discarded (s : State) (c : Scan) (r : ScanReadings)
    (h : inRange (cfg s).refLo (cfg s).refHi (clampInt 0 4095 r.reference) = false) :
    scanResult s c r =
      finishScan s (discardedScan s s.sensor (clampInt 0 4095 r.reference)) false :=
  if_neg (by simp [h])

theorem scanResult_measured (h : inRange (cfg s).refLo (cfg s).refHi
    (clampInt 0 4095 r.reference) = true) :
    Measured (goodChannels s s.sensor r) (scanResult s c r) ∧ (scanResult s c r).scan = none := by
  rw [scanResult_good s c r h]
  split
  · exact ⟨(goodAnemos_measured _ _ _).trans (finishScan_measured _ _ _),
      (finishScan_ends _ _ _).1⟩
  · exact ⟨finishScan_measured _ _ _, (finishScan_ends _ _ _).1⟩

/-! ### The notices (R133) -/

/-- The flags of a scan set (R121, R124, R125, R129). -/
def scanFlagged (before s : State) (judged : Bool) : State :=
  scanHeatFlags before (scanDisagreeFlag (scanFaultFlags before s) judged)

/-- The notices of a scan but for its WIND (R133). -/
def scanTold (before s : State) (judged : Bool) : State :=
  heaterConditions (if s.sensor.level != before.sensor.level ||
      s.sensor.status != before.sensor.status then ownSensorNotice (scanFlagged before s judged)
    else scanFlagged before s judged) (demand before)

theorem scanNotices_eq (before s : State) (judged : Bool) :
    scanNotices before s judged = windAfterScan before (scanTold before s judged) := rfl

theorem setFlag_after {a : State} (h : Quiet v a) (k d x : Nat) : Quiet v (setFlag a k d x) :=
  h.trans (setFlag_quiet (.refl a) k d x)

theorem scanFaultFlags_quiet (before s : State) : Quiet s (scanFaultFlags before s) := by
  unfold scanFaultFlags
  dsimp only
  have hif : ∀ {c : Bool} {a : State} (k d x : Nat), Quiet s a →
      Quiet s (if c then setFlag a k d x else a) := fun k d x h => by
    split
    · exact setFlag_after h k d x
    · exact h
  exact hif _ _ _ (hif _ _ _ (hif _ _ _ (.refl s)))

theorem scanDisagreeFlag_quiet (s : State) (judged : Bool) :
    Quiet s (scanDisagreeFlag s judged) := by
  unfold scanDisagreeFlag
  split
  · split
    · exact setFlag_quiet (.refl s) _ _ _
    · exact setFlag_quiet (.refl s) _ _ _
    · exact .refl s
  · exact .refl s

theorem scanHeatFlags_quiet (before s : State) : Quiet s (scanHeatFlags before s) := by
  unfold scanHeatFlags
  split
  · exact setFlag_quiet (.refl s) _ _ _
  · split
    · exact .refl s
    · split
      · exact setFlag_quiet (.refl s) _ _ _
      · split
        · exact setFlag_quiet (.refl s) _ _ _
        · exact .refl s

theorem scanFlagged_quiet (before s : State) (judged : Bool) :
    Quiet s (scanFlagged before s judged) :=
  ((scanFaultFlags_quiet before s).trans (scanDisagreeFlag_quiet _ judged)).trans
    (scanHeatFlags_quiet before _)

theorem scanTold_sways (before s : State) (judged : Bool) : Sways s (scanTold before s judged) := by
  have hflags : Sways s (scanFlagged before s judged) :=
    (scanFlagged_quiet before s judged).recs.keeps.sways
  unfold scanTold
  split
  · exact (ownSensorNotice_sways hflags).trans
      (heaterConditions_silent (.refl _) _).quiet.recs.keeps.sways
  · exact hflags.trans (heaterConditions_silent (.refl _) _).quiet.recs.keeps.sways

/-- The WIND of a scan begins the run of the next. -/
theorem windAfterScan_cases (before s : State) : windAfterScan before s = s ∨
    Silent (s.withSensor { s.sensor with windRun := some 0 }) (windAfterScan before s) := by
  unfold windAfterScan
  split
  · split
    · exact .inr (queueWind_silent s _)
    · split
      · exact .inr (queueWind_silent s _)
      · split
        · exact .inr (queueWind_silent s _)
        · exact .inl rfl
  · exact .inl rfl

/-- What the notices of a scan leave: of the sensor but the run of its WIND, and of the blocks out
of their reach. -/
structure ScanTaken (s t : State) : Prop where
  sensor : ∃ w, t.sensor = { s.sensor with windRun := w }
  seq : t.seq = if s.seq.station = .selfcheck then
    { s.seq with station := .listen, listenRun := 0 } else s.seq
  time : t.time = s.time
  pins : t.pins = s.pins
  lock : t.lock = s.lock
  peers : t.peers = s.peers
  keepOut : t.keepOut = s.keepOut

theorem endSelfcheck_eq (s : State) : endSelfcheck s = s.withSeq
    (if s.seq.station = .selfcheck then { s.seq with station := .listen, listenRun := 0 }
      else s.seq) := by
  unfold endSelfcheck
  by_cases h : s.seq.station = .selfcheck
  · rw [if_pos (by simp [h]), if_pos h]
  · rw [if_neg (by simpa using h), if_neg h]
    rfl

theorem scanNotices_taken (before s : State) (judged : Bool) :
    ScanTaken s (endSelfcheck (scanNotices before s judged)) := by
  have hs := scanTold_sways before s judged
  rw [scanNotices_eq, endSelfcheck_eq]
  generalize scanTold before s judged = v at hs ⊢
  rcases windAfterScan_cases before v with h | h
  · rw [h]
    refine ⟨⟨s.sensor.windRun, hs.sensor⟩, ?_, hs.time, hs.pins, hs.lock, hs.peers, hs.keepOut⟩
    rw [withSeq_seq, hs.seq]
  · generalize windAfterScan before v = w at h ⊢
    refine ⟨⟨some 0, ?_⟩, ?_, h.time.trans hs.time, h.pins.trans hs.pins, h.lock.trans hs.lock,
      h.peers.trans hs.peers, h.keepOut.trans hs.keepOut⟩
    · exact h.sensor.trans (by rw [← hs.sensor]; rfl)
    · rw [withSeq_seq, h.seq]
      exact (by rw [← hs.seq]; rfl)

/-! ### Flags and zones after the notices -/

theorem ownSensorNotice_flags (hk : isWorkFlag k = false) :
    flagRecord (ownSensorNotice s) k = flagRecord s k := by
  unfold ownSensorNotice
  split
  · exact (judgeCells_beside _ true).flags k hk
  · rfl

/-- A flag of the Sensor Unit stands from its setting to the end of the scan. -/
theorem scanNotices_flags (hk : isWorkFlag k = false) (before s : State) (judged : Bool) :
    flagRecord (endSelfcheck (scanNotices before s judged)) k =
      flagRecord (scanFlagged before s judged) k := by
  have htold : flagRecord (scanTold before s judged) k =
      flagRecord (scanFlagged before s judged) k := by
    have hheat := fun v : State => heaterConditions_silent (.refl v) (demand before)
    unfold scanTold
    generalize scanFlagged before s judged = a
    split
    · rw [← ownSensorNotice_flags (s := a) hk]
      unfold flagRecord
      rw [(hheat _).report]
    · unfold flagRecord
      rw [(hheat _).report]
  rw [scanNotices_eq, endSelfcheck_eq, ← htold]
  generalize scanTold before s judged = v
  rcases windAfterScan_cases before v with h | h
  · rw [h]
    rfl
  · generalize windAfterScan before v = w at h ⊢
    show flagRecord w k = _
    unfold flagRecord
    rw [h.report]
    rfl

theorem scanFlagged_still (hn : NoTopUp s) (before : State) (judged : Bool) :
    Still s (scanFlagged before s judged) := by
  have hif : ∀ {c : Bool} {a : State} (k d x : Nat), Still s a →
      Still s (if c then setFlag a k d x else a) := fun k d x h => by
    split
    · exact setFlag_still hn h k d x
    · exact h
  have hfault : Still s (scanFaultFlags before s) :=
    hif flagSensorFault 3 0 (hif flagSensorFault 2 0 (hif flagSensorFault 1 0 (.refl s)))
  have hdis : Still s (scanDisagreeFlag (scanFaultFlags before s) judged) := by
    generalize scanFaultFlags before s = a at hfault ⊢
    unfold scanDisagreeFlag
    split
    · split
      · exact setFlag_still hn hfault _ _ _
      · exact setFlag_still hn hfault _ _ _
      · exact hfault
    · exact hfault
  unfold scanFlagged
  generalize scanDisagreeFlag (scanFaultFlags before s) judged = a at hdis ⊢
  unfold scanHeatFlags
  split
  · exact setFlag_still hn hdis _ _ _
  · split
    · exact hdis
    · split
      · exact setFlag_still hn hdis _ _ _
      · split
        · exact setFlag_still hn hdis _ _ _
        · exact hdis

/-- A scan that ends demand, with no other notice, switches every zone off (R154, R162). -/
theorem scanNotices_heater {before : State} (hd : demand before = true) (hn : demand s = false)
    (hl : s.sensor.level = before.sensor.level) (hs : s.sensor.status = before.sensor.status)
    (judged : Bool) : (endSelfcheck (scanNotices before s judged)).heater = { s.heater with
      zones := s.heater.zones.map
        (zoneOff (if s.sensor.melt = 0 ∨ s.sensor.melt = 6 then .sensor else .demand))
      claims := [], onOrder := [], admitted := 0 } := by
  have htop : NoTopUp s := by simp [NoTopUp, hn]
  have hstill := scanFlagged_still htop before judged
  have htold : scanTold before s judged =
      heaterConditions (scanFlagged before s judged) true := by
    unfold scanTold
    rw [hd, if_neg (by simp [hl, hs])]
  have hwind : windAfterScan before (scanTold before s judged) = scanTold before s judged := by
    have hsensor : (scanTold before s judged).sensor = s.sensor :=
      (scanTold_sways before s judged).sensor
    unfold windAfterScan
    rw [hsensor, hl, hs]
    cases hb : before.sensor.status == .faulted <;> simp [bne, hb]
  rw [endSelfcheck_eq]
  show (scanNotices before s judged).heater = _
  rw [scanNotices_eq, hwind, htold]
  generalize scanFlagged before s judged = a at hstill ⊢
  have hoff : heaterConditions a true =
      allOff a (if a.sensor.melt == 0 || a.sensor.melt == 6 then .sensor else .demand) :=
    if_pos (by simp [hstill.demand, hn])
  rw [hoff, allOff_heater (hstill.noTopUp htop), hstill.heater, hstill.sensor]
  simp

/-! ### The scan as a whole (R121) -/

/-- The good scan of a sensor station with a window is judged (R124, R130). -/
def scanJudged (s : State) (c : Scan) (r : ScanReadings) : Bool :=
  ((scanResult s c r).latest.map (·.2)) == some true && (cfg s).sensor && c.window.isSome

theorem scanDone_eq (hc : s.sensor.scan = some c) (h12 : 12 ≤ c.run) (r : ScanReadings) :
    scanDone s r = endSelfcheck (scanNotices s (s.withSensor (scanResult s c r))
      (scanJudged s c r)) := by
  rw [scanDone, hc]
  exact if_pos h12

theorem demand_congr (h : t.sensor.icePresent = s.sensor.icePresent)
    (hm : t.sensor.melt = s.sensor.melt) (hl : t.lock = s.lock) : demand t = demand s := by
  unfold demand lockMask
  rw [h, hm, hl]

theorem hysteresis_cold (lo hi x : Int) (was : Bool) :
    hysteresis .below .above (bandOf lo hi x) was =
      if x < lo then true else if hi < x then false else was := by
  unfold bandOf
  by_cases h1 : x < lo
  · simp [h1, hysteresis]
  · by_cases h2 : hi < x <;> simp [h1, h2, hysteresis]

theorem hysteresis_ice (lo hi x : Int) (was : Bool) :
    hysteresis .above .below (bandOf lo hi x) was =
      if x < lo then false else if hi < x then true else was := by
  unfold bandOf
  by_cases h1 : x < lo
  · simp [h1, hysteresis]
  · by_cases h2 : hi < x <;> simp [h1, h2, hysteresis]

/-- Settles O46: the channels recorded by the scan, and the notices that follow. -/
theorem aGoodScanIsRecorded : Obligations.AGoodScanIsRecorded := by
  intro s r c hc h12 hlo hhi surface air ice hsurface hair hice
  have hin : inRange (cfg s).refLo (cfg s).refHi (clampInt 0 4095 r.reference) = true :=
    decide_eq_true ⟨hlo, hhi⟩
  obtain ⟨hm, hscan⟩ := scanResult_measured (c := c) hin
  have htaken := scanNotices_taken s (s.withSensor (scanResult s c r)) (scanJudged s c r)
  have hheater := fun hd hn hl hs => scanNotices_heater (before := s)
    (s := s.withSensor (scanResult s c r)) hd hn hl hs (scanJudged s c r)
  obtain ⟨⟨w, hsensor⟩, hseq, htime, hpins, hlock, hpeers, hkeep⟩ := htaken
  refine ⟨_, congrArg Host.Outcome.next (scanDone_eq hc h12 r), ?_⟩
  generalize endSelfcheck (scanNotices s (s.withSensor (scanResult s c r)) (scanJudged s c r)) = t
    at hsensor hseq htime hpins hlock hpeers hkeep hheater ⊢
  rw [withSensor_sensor] at hsensor
  have hdemand : demand t = demand (s.withSensor (scanResult s c r)) :=
    demand_congr (by rw [hsensor]; rfl) (by rw [hsensor]; rfl) hlock
  rw [hsensor]
  refine ⟨hscan, hm.discarded, hm.good, hm.latest, hm.reference, ?_, ?_, ?_, ?_, ?_, ?_, ?_, hseq,
    htime, hpins, hlock, hpeers, hkeep, fun hd hn hl hs k hk => ?_⟩
  · rw [hsurface]
    exact hm.surface
  · rw [hair]
    exact hm.air
  · rw [hice]
    exact hm.ice
  · rw [hair, ← hysteresis_cold]
    exact hm.cold
  · rw [hice, ← hysteresis_ice]
    exact hm.icePresent
  · rw [hsurface]
    exact hm.melt
  · exact hm.meltChanged.trans (by rw [hm.melt]; rfl)
  · rw [hheater hd (hdemand.symm.trans hn) hl hs, hk]
    exact ⟨rfl, rfl, rfl⟩

/-! ### A discarded scan (R121, R126) -/

theorem finishScan_discarded (s : State) (x : Int) :
    Measured (discardedScan s s.sensor x) (finishScan s (discardedScan s s.sensor x) false) :=
  finishScan_measured _ _ _

/-- The flags of a scan without a valid reference: SENSOR_FAULT, and then HEAT_SENSOR where it is
the third in a row (R121, R129). -/
theorem scanFlagged_discarded {u : SensorUnit} (hl : u.latest.map (·.2) = some false)
    (ha : u.channelA = s.sensor.channelA) (hb : u.channelB = s.sensor.channelB)
    (hf : s.report.flags.length = 16) :
    flagRecord (scanFlagged s (s.withSensor u) false) flagSensorFault = ⟨true, 1, 0, now s⟩ ∧
      (s.sensor.discarded ≠ 3 → u.discarded = 3 →
        flagRecord (scanFlagged s (s.withSensor u) false) flagHeatSensor =
          ⟨true, 2, 0, now s⟩) := by
  have hset := setFlag_silent (s.withSensor u) flagSensorFault 1 0
  have hfault : scanFlagged s (s.withSensor u) false =
      scanHeatFlags s (setFlag (s.withSensor u) flagSensorFault 1 0) := by
    unfold scanFlagged scanFaultFlags scanDisagreeFlag
    have hoff : ∀ b : Bool, (b && !b) = false := by decide
    simp only [withSensor_sensor, hl, ha, hb, hoff, beq_self_eq_true, Bool.false_eq_true, if_true,
      if_false]
  have hrec := (setFlag_records (s := s.withSensor u) hf
    (by decide : flagSensorFault < 16) 1 0).1
  have hother : ∀ {k : Nat} (d x : Nat), flagSensorFault ≠ k →
      flagRecord (setFlag (setFlag (s.withSensor u) flagSensorFault 1 0) k d x) flagSensorFault =
        ⟨true, 1, 0, now s⟩ := fun d x hk => (setFlag_other hk d x).trans hrec
  rw [hfault]
  refine ⟨?_, fun h3 hu => ?_⟩
  · unfold scanHeatFlags
    split
    · exact hother 2 0 (by decide)
    · split
      · exact hrec
      · split
        · exact hother 1 0 (by decide)
        · split
          · exact hother 0 0 (by decide)
          · exact hrec
  · have hdis : (setFlag (s.withSensor u) flagSensorFault 1 0).sensor.discarded = 3 := by
      rw [hset.sensor]
      exact hu
    have hlen : (setFlag (s.withSensor u) flagSensorFault 1 0).report.flags.length = 16 :=
      (setFlag_quiet (.refl _) _ _ _).flags.trans hf
    have hnow : now (setFlag (s.withSensor u) flagSensorFault 1 0) = now s := by
      unfold now
      rw [hset.time]
      rfl
    unfold scanHeatFlags
    rw [if_pos (by simp [hdis, h3]), (setFlag_records hlen
      (by decide : flagHeatSensor < 16) 2 0).1, hnow]

/-- Settles O47: only the REFERENCE is recorded, and the flags stand to the scan's end. -/
theorem aDiscardedScanIsCounted : Obligations.ADiscardedScanIsCounted := by
  intro s r c x hc h12 hx hout hf
  have hin : inRange (cfg s).refLo (cfg s).refHi (clampInt 0 4095 r.reference) = false := by
    refine decide_eq_false fun h => ?_
    have hclamp : clampInt 0 4095 r.reference = x := hx.symm
    rw [hclamp] at h
    omega
  have hresult : scanResult s c r = finishScan s (discardedScan s s.sensor x) false :=
    (scanResult_discarded s c r hin).trans (by rw [hx]; rfl)
  have hjudged : scanJudged s c r = false := by
    rw [scanJudged, hresult, (finishScan_discarded s x).latest]
    rfl
  have hdone := scanDone_eq hc h12 r
  rw [hresult, hjudged] at hdone
  have hm := finishScan_discarded s x
  obtain ⟨hscan, hstatus, ha, hb, hcombined⟩ := finishScan_ends s (discardedScan s s.sensor x) false
  have hlevel := finishScan_level s (discardedScan s s.sensor x)
  generalize finishScan s (discardedScan s s.sensor x) false = u at *
  obtain ⟨hfault, hheat⟩ := scanFlagged_discarded (s := s) (u := u)
    (by rw [hm.latest]; rfl) ha hb hf
  obtain ⟨⟨w, hsensor⟩, -, htime, hpins, hlock, hpeers, hkeep⟩ :=
    scanNotices_taken s (s.withSensor u) false
  have hflags := fun {k} hk => scanNotices_flags (k := k) hk s (s.withSensor u) false
  refine ⟨_, congrArg Host.Outcome.next hdone, ?_⟩
  generalize endSelfcheck (scanNotices s (s.withSensor u) false) = t at *
  rw [withSensor_sensor] at hsensor
  rw [hsensor]
  have hthird : s.sensor.discarded = 2 → (discardedScan s s.sensor x).discarded = 3 := fun h => by
    show min 3 (s.sensor.discarded + 1) = 3
    omega
  refine ⟨hscan, hm.reference, hm.discarded, hm.good, hm.latest, hm.surface, hm.air, hm.ice,
    hm.cold, hm.icePresent, hlevel, hcombined, hm.melt.trans ?_, (hflags rfl).trans hfault,
    fun h2 => ⟨?_, (hflags rfl).trans (hheat (by omega) (hm.discarded.trans (hthird h2)))⟩, htime,
    hpins, hlock, hpeers, hkeep⟩
  · show (if min 3 (s.sensor.discarded + 1) == 3 then 0 else s.sensor.melt) = _
    by_cases h : 2 ≤ s.sensor.discarded
    · simp [h]
    · have hmin : min 3 (s.sensor.discarded + 1) ≠ 3 := by omega
      simp [h, hmin]
  · refine hstatus.trans ?_
    have hfailed : (discardedScan s s.sensor x).referenceFailed = true := by
      show (s.sensor.referenceFailed || (discardedScan s s.sensor x).discarded == 3) = true
      rw [hthird h2]
      simp
    simp [statusNow, hfailed]

end Sys2Proof.Machine
end

section
/-! PROOFS. The anemometers of a scan and the level machine (R123, R124, R130). -/

namespace Sys2Proof.Machine

variable {s t v : State} {c : Scan} {r : ScanReadings} {u : SensorUnit}

/-! ### The anemometers (R123, R124) -/

/-- Two channels that work disagree just when their speeds differ by more than the limit. -/
theorem disagreement_isSome (s : State) {a b : AnemoRecord}
    (h : a.working = true ∧ b.working = true) :
    (disagreement s a b).isSome = true ↔ ¬(a.speed - b.speed ≤ (cfg s).disagreeLimit ∧
      b.speed - a.speed ≤ (cfg s).disagreeLimit) := by
  unfold disagreement
  rw [if_pos (by simp [h])]
  split
  · exact iff_of_true rfl (by omega)
  · split
    · exact iff_of_true rfl (by omega)
    · exact iff_of_false nofun (by omega)

theorem combinedSpeed_eq (s : State) (a b : AnemoRecord) : combinedSpeed s a b =
    if a.working ∧ b.working then
      if a.speed - b.speed ≤ (cfg s).disagreeLimit ∧ b.speed - a.speed ≤ (cfg s).disagreeLimit
      then (a.speed + b.speed) / 2 else max a.speed b.speed
    else if a.working then a.speed else if b.working then b.speed else 0 := by
  unfold combinedSpeed
  by_cases h : a.working = true ∧ b.working = true
  · rw [if_pos (by simp [h]), if_pos h]
    by_cases hd : a.speed - b.speed ≤ (cfg s).disagreeLimit ∧
        b.speed - a.speed ≤ (cfg s).disagreeLimit
    · rw [if_neg fun hs => (disagreement_isSome s h).1 hs hd, if_pos hd]
    · rw [if_pos ((disagreement_isSome s h).2 hd), if_neg hd]
  · rw [if_neg (by simpa using h), if_neg h]

/-- The record of both channels after a good scan with a window. -/
theorem goodAnemos_window {w : Nat} (hw : c.window = some w) :
    (goodAnemos s u c).channelA.speed = anemoSpeed s c.countA w ∧
      (goodAnemos s u c).channelB.speed = anemoSpeed s c.countB w ∧
      (goodAnemos s u c).combined =
        combinedSpeed s (goodAnemos s u c).channelA (goodAnemos s u c).channelB := by
  unfold goodAnemos
  rw [hw]
  exact ⟨judgeAnemo_speed .., judgeAnemo_speed .., rfl⟩

/-- The anemometers leave the level machine. -/
theorem goodAnemos_levels (s : State) (u : SensorUnit) (c : Scan) :
    (goodAnemos s u c).level = u.level ∧ (goodAnemos s u c).watchCount = u.watchCount ∧
      (goodAnemos s u c).stowCount = u.stowCount ∧ (goodAnemos s u c).calmRun = u.calmRun := by
  unfold goodAnemos anemoChannels
  split <;> exact ⟨rfl, rfl, rfl, rfl⟩

/-! ### The level machine (R130) -/

/-- The level machine is judged at a scan that leaves the station not FAULTED. -/
theorem finishScan_judged (h : statusNow u ≠ .faulted) :
    finishScan s u true = judgeLevel s { u with status := statusNow u, scan := none } := by
  unfold finishScan
  dsimp only
  rw [if_neg (by simpa using h), if_pos rfl]

theorem levelStep_counts (s : State) (u : SensorUnit) :
    (levelStep s u).watchCount = u.watchCount ∧ (levelStep s u).stowCount = u.stowCount := by
  unfold levelStep
  split
  · exact ⟨rfl, rfl⟩
  · split
    · exact ⟨rfl, rfl⟩
    · split
      · exact ⟨rfl, rfl⟩
      · split <;> exact ⟨rfl, rfl⟩

theorem levelStep_gust (h : u.level ≠ .stow) (hg : (cfg s).gustSpeed ≤ u.combined) :
    levelStep s u = { u with level := .stow, stowCause := some .gust } :=
  if_pos (by simp [h, hg])

theorem levelStep_speed (h : u.level ≠ .stow) (hg : u.combined < (cfg s).gustSpeed)
    (hk : (cfg s).stowConfirm ≤ u.stowCount) :
    levelStep s u = { u with level := .stow, stowCause := some .speed } := by
  unfold levelStep
  rw [if_neg (by simp [hg]), if_pos (by simp [h, hk])]

theorem levelStep_calm (h : u.level = .calm) (hg : u.combined < (cfg s).gustSpeed)
    (hk : u.stowCount < (cfg s).stowConfirm) : (levelStep s u).level =
      if (cfg s).watchConfirm ≤ u.watchCount then .watch else .calm := by
  unfold levelStep
  rw [if_neg (by simp [hg]), if_neg (by simp [hk])]
  by_cases hw : (cfg s).watchConfirm ≤ u.watchCount
  · rw [if_pos (by simp [h, hw]), if_pos hw]
  · rw [if_neg (by simp [hw]), if_neg (by simp [h]), if_neg hw, h]

/-- STOW, or a WATCH that neither wind rule raises, ends only by a calm run. -/
theorem levelStep_held (h : u.level = .stow ∨ u.level = .watch ∧
    u.combined < (cfg s).gustSpeed ∧ u.stowCount < (cfg s).stowConfirm) :
    (levelStep s u).level =
      if (u.calmRun.map fun r => decide ((cfg s).calmTime * 1000 ≤ r)) = some true then .calm
      else u.level := by
  have hgust : ¬(u.level != .stow && decide ((cfg s).gustSpeed ≤ u.combined)) = true := by
    rcases h with h | ⟨-, h, -⟩
    · simp [h]
    · simp [h]
  have hspeed : ¬(u.level != .stow && decide ((cfg s).stowConfirm ≤ u.stowCount)) = true := by
    rcases h with h | ⟨-, -, h⟩
    · simp [h]
    · simp [h]
  have hcalm : u.level ≠ .calm := by
    rcases h with h | ⟨h, -⟩ <;> simp [h]
  unfold levelStep
  rw [if_neg hgust, if_neg hspeed, if_neg (by simp [hcalm])]
  by_cases hr : (u.calmRun.map fun r => decide ((cfg s).calmTime * 1000 ≤ r)) = some true
  · rw [if_pos (by simp [hcalm, hr]), if_pos hr]
  · rw [if_neg (by simp [hr]), if_neg hr]

/-- The calm run a scan leaves is as long as required just when the speed is below CALM and the run
before it was. -/
theorem levelCounts_calmRun (s : State) (u : SensorUnit) (n : Nat) :
    ((levelCounts s u).calmRun.map fun r => decide (n ≤ r)) = some true ↔
      u.combined < (cfg s).calmSpeed ∧ n ≤ u.calmRun.getD 0 := by
  show ((if u.combined < (cfg s).calmSpeed then some (u.calmRun.getD 0) else none).map _) = _ ↔ _
  split <;> simp [*]

/-- Settles O48: the anemometers judged, and then the level machine on the combined speed. -/
theorem theWindLevelFollowsTheSpeeds : Obligations.TheWindLevelFollowsTheSpeeds := by
  intro s r c w hc h12 hw hsensor hlo hhi
  have hin : inRange (cfg s).refLo (cfg s).refHi (clampInt 0 4095 r.reference) = true :=
    decide_eq_true ⟨hlo, hhi⟩
  have hresult : scanResult s c r =
      finishScan s (goodAnemos s (goodChannels s s.sensor r) c) true := by
    rw [scanResult_good s c r hin, if_pos hsensor, hw]
    rfl
  have hdone := scanDone_eq hc h12 r
  rw [hresult] at hdone
  obtain ⟨hA, hB, hV⟩ := goodAnemos_window (s := s) (u := goodChannels s s.sensor r) hw
  obtain ⟨hl, hwc, hsc, hcr⟩ := goodAnemos_levels s (goodChannels s s.sensor r) c
  generalize goodAnemos s (goodChannels s s.sensor r) c = u at *
  obtain ⟨-, hstatus, ha, hb, hcomb⟩ := finishScan_ends s u true
  have hjudge := finishScan_judged (s := s) (u := u)
  generalize finishScan s u true = x at *
  obtain ⟨⟨run, hs⟩, -⟩ := scanNotices_taken s (s.withSensor x) (scanJudged s c r)
  refine ⟨_, congrArg Host.Outcome.next hdone, ?_⟩
  generalize endSelfcheck (scanNotices s (s.withSensor x) (scanJudged s c r)) = t at hs ⊢
  rw [withSensor_sensor] at hs
  rw [hs]
  refine ⟨(congrArg _ ha).trans hA, (congrArg _ hb).trans hB, ?_, ?_⟩
  · rintro _ _ rfl rfl
    rw [← combinedSpeed_eq]
    exact hcomb.trans (hV.trans (by rw [← ha, ← hb]))
  · rintro hne v k l hv hk hl'
    replace hv : u.combined = v := hcomb.symm.trans hv.symm
    have hx : x = levelStep s (levelCounts s { u with status := statusNow u, scan := none }) :=
      hjudge fun h => hne (hstatus.trans h)
    obtain ⟨y, hy⟩ : ∃ y, y = levelCounts s { u with status := statusNow u, scan := none } :=
      ⟨_, rfl⟩
    rw [← hy] at hx
    have hyl : y.level = s.sensor.level := by
      rw [hy]
      exact hl
    have hyv : y.combined = v := by
      rw [hy]
      exact hv
    have hyk : y.watchCount = k := by
      rw [hy, hk, ← hv, levelCounts]
      simp only [hwc]
      rfl
    have hyl' : y.stowCount = l := by
      rw [hy, hl', ← hv, levelCounts]
      simp only [hsc]
      rfl
    have hyr : (y.calmRun.map fun r => decide ((cfg s).calmTime * 1000 ≤ r)) = some true ↔
        v < (cfg s).calmSpeed ∧ (cfg s).calmTime * 1000 ≤ s.sensor.calmRun.getD 0 := by
      rw [hy, levelCounts_calmRun, ← hv]
      exact Iff.of_eq (congrArg (fun o : Option Nat => _ ∧ _ ≤ o.getD 0) hcr)
    obtain ⟨hcw, hcs⟩ := levelStep_counts s y
    subst hx
    subst hyv hyk hyl'
    rw [← hyl]
    refine ⟨hcw, hcs, fun h hg => ?_, fun h hg hk => ?_, fun h hg hk => levelStep_calm h hg hk,
      fun h => ?_⟩
    · rw [levelStep_gust h hg]
      exact ⟨rfl, rfl⟩
    · rw [levelStep_speed h hg hk]
      exact ⟨rfl, rfl⟩
    · exact (levelStep_held h).trans (by simp only [hyr])

end Sys2Proof.Machine
end

section
/-! PROOFS. The batch selection of the heater zones and the top-up that may follow it (R154 to
R158). -/

namespace Sys2Proof.Machine

variable {s t v : State} {i : Nat} {z : Zone}

/-! ### Zones changed, and zones taken in a walk -/

theorem changeZones_mem {zones : List Zone} {which : List Nat} (f : Zone → Zone)
    (h : i ∈ which) : (changeZones zones which f)[i]? = zones[i]?.map f := by
  simp [changeZones, h]

theorem changeZones_not_mem {zones : List Zone} {which : List Nat} (f : Zone → Zone)
    (h : i ∉ which) : (changeZones zones which f)[i]? = zones[i]? := by
  simp [changeZones, h]

theorem changeZones_nil (zones : List Zone) (f : Zone → Zone) :
    changeZones zones [] f = zones := by
  refine List.ext_getElem? fun i => ?_
  exact changeZones_not_mem f (List.not_mem_nil)

/-- A zone taken in a walk is one of the list's that passes the test. -/
theorem takeWalk_passes {zones : List Zone} {p : Zone → Bool} {l : List Nat} {room : Nat}
    (h : i ∈ takeWalk zones p l room) : ∃ z, zones[i]? = some z ∧ p z = true := by
  induction l generalizing room with
  | nil => cases h
  | cons k rest ih =>
    unfold takeWalk at h
    split at h
    · rename_i z hz
      split at h
      · rename_i hp
        rcases List.mem_cons.1 h with rfl | h
        · exact ⟨z, hz, (Bool.and_eq_true_iff.1 hp).1⟩
        · exact ih h
      · exact ih h
    · exact ih h

/-- A walk takes nothing where no zone passes the test. -/
theorem takeWalk_none {zones : List Zone} {p : Zone → Bool} (h : ∀ z, p z = false)
    (l : List Nat) (room : Nat) : takeWalk zones p l room = [] := by
  refine List.eq_nil_iff_forall_not_mem.2 fun i hi => ?_
  obtain ⟨z, -, hz⟩ := takeWalk_passes hi
  rw [h z] at hz
  cases hz

/-! ### The top-up of an account (R158) -/

/-- The zones in `l`, which waited for shares, have entered CLAIM after the others. -/
structure ToppedUp (s t : State) (l : List Nat) : Prop where
  heater : t.heater = { s.heater with
    zones := changeZones s.heater.zones l zoneClaim, claims := s.heater.claims ++ l }
  wanted : ∀ i ∈ l, ∃ z, s.heater.zones[i]? = some z ∧ z.enable = true ∧ z.state = .want
  idle : NoTopUp s → l = []

theorem Still.toppedUp (h : Still s t) : ToppedUp s t [] :=
  ⟨by rw [changeZones_nil, List.append_nil]; exact h.heater, nofun, fun _ => rfl⟩

/-- The zones that a top-up takes (R158). -/
def topUpTaken (s : State) : List Nat :=
  takeWalk s.heater.zones (fun z => z.enable && z.state == .want) (walk s) (freeShares s)

theorem topUp_heater (hd : demand s = true) (hr : s.seq.station = .ready) :
    (topUp s).heater = { s.heater with
      zones := changeZones s.heater.zones (topUpTaken s) zoneClaim
      claims := s.heater.claims ++ topUpTaken s } := by
  unfold topUp
  rw [if_pos (by simp [hd, isReady, hr])]
  exact (heaterNotice_still (.refl _)).heater

theorem topUp_none (h : NoTopUp s) : topUp s = s :=
  if_neg (Bool.eq_false_iff.1 h)

theorem topUp_toppedUp (s : State) : ∃ l, ToppedUp s (topUp s) l := by
  by_cases h : NoTopUp s
  · rw [topUp_none h]
    exact ⟨[], (Still.refl s).toppedUp⟩
  · have hboth : demand s = true ∧ isReady s = true := by simpa [NoTopUp] using h
    refine ⟨topUpTaken s, topUp_heater hboth.1 (by simpa [isReady] using hboth.2), fun i hi => ?_,
      fun hn => (h hn).elim⟩
    obtain ⟨z, hz, hp⟩ := takeWalk_passes hi
    exact ⟨z, hz, by simpa using hp⟩

/-- What follows an event of the account is a top-up at most (R158). -/
theorem settlePower_toppedUp (before s : State) : ∃ l, ToppedUp s (settlePower before s) l := by
  unfold settlePower
  split
  · obtain ⟨l, hl⟩ := topUp_toppedUp s
    exact ⟨l, (updateAsk_still (.refl _)).heater.trans hl.heater, hl.wanted, hl.idle⟩
  · exact ⟨[], (updateAsk_still (.refl s)).toppedUp⟩

theorem settlePower_heater_of_le {before : State} (h : freeShares s ≤ freeShares before) :
    (settlePower before s).heater = s.heater := (settlePower_still_of_le (.refl s) h).heater

/-- A zone that does not wait for shares is left by a top-up. -/
theorem ToppedUp.kept {l : List Nat} (h : ToppedUp s t l) (hz : s.heater.zones[i]? = some z)
    (hw : z.enable = false ∨ z.state ≠ .want) : t.heater.zones[i]? = some z := by
  have hi : i ∉ l := fun hi => by
    obtain ⟨x, hx, he, hs⟩ := h.wanted i hi
    obtain rfl : x = z := Option.some.inj (hx.symm.trans hz)
    rcases hw with hw | hw
    · rw [he] at hw
      cases hw
    · exact hw hs
  rw [h.heater]
  exact (changeZones_not_mem _ hi).trans hz

/-- A zone that waits for shares waits still, or enters CLAIM. -/
theorem ToppedUp.either {l : List Nat} (h : ToppedUp s t l) (hz : s.heater.zones[i]? = some z)
    (hw : z = zoneWant z) : ∃ x, (x = ZoneState.want ∨ x = .claim) ∧
      t.heater.zones[i]? = some { z with state := x, switchedAt := none, onRun := 0 } := by
  rw [h.heater]
  by_cases hi : i ∈ l
  · exact ⟨.claim, .inr rfl, (changeZones_mem _ hi).trans (by rw [hz]; rfl)⟩
  · exact ⟨.want, .inl rfl, (changeZones_not_mem _ hi).trans (by rw [hz]; exact congrArg some hw)⟩

/-! ### The selection (R155, R156) -/

/-- The zones that a batch selection takes (R156). -/
def selectionTaken (s : State) : List Nat :=
  takeWalk s.heater.zones (fun z => z.enable && demand s) (walk s)
    (heldShares s - s.share.motion)

/-- The zones taken that are neither ON nor in CLAIM (R156). -/
def newlyTaken (s : State) (taken : List Nat) : List Nat :=
  taken.filter fun i =>
    match s.heater.zones[i]? with
    | some z => z.state != .on && z.state != .claim
    | none => false

/-- The Zone Table as a batch selection leaves it, before its notice (R155, R156). -/
def selected (s : State) (taken : List Nat) : State :=
  s.withHeater { s.heater with
    zones := s.heater.zones.mapIdx fun i z => selectZone (demand s) (taken.contains i) z
    pointer := pointerAfter s taken
    nextBoundary := some (boundaryAfter s)
    duty := dutyOf s.sensor.melt
    claims := (s.heater.claims.filter fun i => taken.contains i) ++ newlyTaken s taken
    admitted := endIfNone ((s.heater.claims.filter fun i => taken.contains i) ++
      newlyTaken s taken) s.heater.admitted
    onOrder := s.heater.onOrder.filter fun i => taken.contains i }

theorem selection_eq (s : State) : selection s =
    settlePower s (heaterNotice (selected s (selectionTaken s))) := rfl

theorem selectionTaken_none (h : demand s = false) : selectionTaken s = [] :=
  takeWalk_none (fun z => by rw [h, Bool.and_false]) _ _

theorem boundaryReached_ready {b : Nat} (hb : s.heater.nextBoundary = some b)
    (hr : s.seq.station = .ready) (h : b ≤ s.time.sec) : boundaryReached s = selection s := by
  rw [boundaryReached, hb]
  exact if_pos (by simp [isReady, hr, h])

theorem boundaryReached_early {b : Nat} (hb : s.heater.nextBoundary = some b)
    (h : s.seq.station ≠ .ready ∨ s.time.sec < b) : boundaryReached s = s := by
  rw [boundaryReached, hb]
  refine if_neg ?_
  rcases h with h | h
  · simp [isReady, h]
  · simp [h]

theorem selected_zone (hz : s.heater.zones[i]? = some z) (taken : List Nat) :
    (selected s taken).heater.zones[i]? = some (selectZone (demand s) (taken.contains i) z) := by
  show (s.heater.zones.mapIdx _)[i]? = _
  rw [List.getElem?_mapIdx, hz]
  rfl

/-- Where demand does not hold, a selection switches every enabled zone off. -/
theorem selected_zones_off (h : demand s = false) : (selected s []).heater.zones =
    s.heater.zones.map (fun z => if z.enable then zoneOff .demand z else z) := by
  refine List.ext_getElem? fun i => ?_
  rw [List.getElem?_map]
  show (s.heater.zones.mapIdx _)[i]? = _
  rw [List.getElem?_mapIdx]
  refine congrArg (fun f => Option.map f _) (funext fun z => ?_)
  rw [h]
  cases he : z.enable <;> simp [selectZone, he]

/-! ### The choices of a selection, zone by zone -/

variable {holds taken : Bool}

theorem selectZone_disabled (h : z.enable = false) : selectZone holds taken z = z := by
  simp [selectZone, h]

theorem selectZone_on (he : z.enable = true) (h : z.state = .on) :
    selectZone holds true z = { z with onRun := 0 } := by
  simp [selectZone, he, h]

theorem selectZone_claim (h : z.state = .claim) : selectZone holds true z = z := by
  cases he : z.enable <;> simp [selectZone, he, h]

theorem selectZone_new (he : z.enable = true) (hc : z.state ≠ .claim) (ho : z.state ≠ .on) :
    selectZone holds true z = zoneClaim z := by
  unfold selectZone
  rw [if_neg (by simp [he]), if_pos rfl]
  split
  · exact (ho ‹_›).elim
  · exact (hc ‹_›).elim
  · rfl

theorem selectZone_untaken (he : z.enable = true) : selectZone true false z =
    zoneWant { z with lastCause := if z.state = .on then some .duty else z.lastCause } := by
  by_cases h : z.state = .on <;> simp [selectZone, he, h, zoneWant]

/-- Settles O52: the selection, zone by zone, and the top-up that may follow. -/
theorem aBoundaryMakesASelection : Obligations.ABoundaryMakesASelection := by
  intro s b hb
  refine ⟨fun h => congrArg Host.Outcome.next (boundaryReached_early hb (.inr h)),
    fun hr h taken ht => ?_,
    fun h => congrArg Host.Outcome.next (boundaryReached_early hb (.inl h))⟩
  have hexec : boundaryReached s = settlePower s (heaterNotice (selected s taken)) := by
    rw [boundaryReached_ready hb hr h, selection_eq, ht]
    rfl
  have hpass : ∀ i ∈ taken, ∃ z, s.heater.zones[i]? = some z ∧ z.enable = true := fun i hi => by
    obtain ⟨z, hz, hp⟩ := takeWalk_passes (ht ▸ hi)
    exact ⟨z, hz, (Bool.and_eq_true_iff.1 hp).1⟩
  have hstill : Still (selected s taken) (heaterNotice (selected s taken)) :=
    heaterNotice_still (.refl _)
  have hsilent : Silent (selected s taken) (settlePower s (heaterNotice (selected s taken))) :=
    settlePower_silent (heaterNotice_silent (.refl _)) s
  obtain ⟨l, hl⟩ := settlePower_toppedUp s (heaterNotice (selected s taken))
  have hle := settlePower_heater_of_le (s := heaterNotice (selected s taken)) (before := s)
  refine ⟨_, congrArg Host.Outcome.next hexec, ?_⟩
  have hheater := hl.heater
  rw [hstill.heater] at hheater hle
  have hzone : ∀ {i z}, s.heater.zones[i]? = some z →
      (heaterNotice (selected s taken)).heater.zones[i]? =
        some (selectZone (demand s) (taken.contains i) z) := fun {i z} hz => by
    rw [hstill.heater]
    exact selected_zone hz taken
  have hin : ∀ {i}, i ∈ taken → taken.contains i = true := fun h => by simpa using h
  generalize hpower : settlePower s (heaterNotice (selected s taken)) = t at *
  rw [hheater]
  refine ⟨rfl, rfl, rfl, fun hd => ?_, fun hd i hi z hz hon => ?_, hsilent.axis, hsilent.lock,
    hsilent.compact, hsilent.sensor, hsilent.wind, hsilent.time, hsilent.report, hsilent.loans,
    hsilent.motion, ?_, fun i z hz he => ?_, fun hd i z hz he => ⟨fun hi hc => ?_,
      fun hi hc ho => ?_, fun hi => ?_⟩⟩
  · have hnil : taken = [] := ht.trans (selectionTaken_none hd)
    have hl' : l = [] := hl.idle (hstill.noTopUp (by
      show (demand s && _) = false
      rw [hd, Bool.false_and]))
    rw [hl', hnil, changeZones_nil, selected_zones_off hd]
    refine ⟨rfl, ?_, ?_⟩
    · show s.heater.claims.filter (fun i => [].contains i) ++ [] ++ [] = []
      simp
    · show s.heater.onOrder.filter (fun i => [].contains i) = []
      simp
  · rw [← hheater]
    obtain ⟨y, hy, he⟩ := hpass i hi
    obtain rfl : y = z := Option.some.inj (hy.symm.trans hz)
    have hu := hzone hz
    rw [hin hi, selectZone_on he hon] at hu
    exact hl.kept hu (.inr (by simp [hon]))
  · rintro newly hnewly u hu
    have hsel : u = selected s taken := by
      rw [hu, hnewly, selected, endIfNone_eq]
      rfl
    rw [hsel, ← hheater]
    refine ⟨congrArg Host.Outcome.next (hexec.trans hpower.symm), hle, l, ?_⟩
    rw [hheater]
  · rw [← hheater]
    exact hl.kept ((hzone hz).trans (by rw [selectZone_disabled he])) (.inl he)
  · rw [← hheater]
    have hu := hzone hz
    rw [hin hi, selectZone_claim hc] at hu
    exact hl.kept hu (.inr (by simp [hc]))
  · rw [← hheater]
    have hu := hzone hz
    rw [hin hi, selectZone_new he hc ho] at hu
    exact hl.kept hu (.inr nofun)
  · rw [← hheater]
    have hu := hzone hz
    have hout : taken.contains i = false := by simpa using hi
    rw [hd, hout, selectZone_untaken he] at hu
    exact hl.either hu rfl

end Sys2Proof.Machine
end

section
/-! PROOFS. The inrush windows and the switch-ons within them (R159, R177). -/

namespace Sys2Proof.Machine

variable {s t v : State} {i n start : Nat} {rest : List Nat}

/-! ### The notice and the claim (R157, R177) -/

/-- A heater notice leaves a claim that is neither NONE nor QUEUED, and so the queue (R157). -/
theorem heaterNotice_claimed (h0 : s.share.claim ≠ .none) (hq : s.share.claim ≠ .queued) :
    heaterNotice s = s.withShare { s.share with
      heaterCommit := heaterCommitment s, heaterWant := heaterWantSum s
      claimCount := s.heater.claims.length } := by
  unfold heaterNotice
  dsimp only
  split
  · rename_i h
    simp only [Bool.and_eq_true, beq_iff_eq] at h
    obtain ⟨⟨hc, hw⟩, hn⟩ := h
    rw [hc, hw, hn]
    rfl
  · unfold updateClaim
    split
    · exact (h0 ‹_›).elim
    · exact (hq ‹_›).elim
    · rfl

/-- No zone to start, or a station that is not READY, leaves no claim (R177). -/
theorem claimFromNone_idle (h : s.share.claimCount = 0 ∨ s.seq.station ≠ .ready) :
    claimFromNone s = s.withShare { s.share with claim := .none } := by
  unfold claimFromNone
  dsimp only
  refine if_neg ?_
  rcases h with h | h <;> simp [h, isReady]

/-- The claim made anew queues its INRUSH in the lowest free slot (R177; log 46). -/
theorem claimFromNone_queued {k : Nat} (hc : s.share.claimCount ≠ 0) (hr : s.seq.station = .ready)
    (hh : s.seq.held = false) (hk : freeSlot s.line.queue 0 8 = some k) :
    claimFromNone s = (s.withShare { s.share with claim := .queued }).withLine
      (s.line.append k (TxEntry.fresh (.inrush (inrushStart s) s.share.claimCount))) := by
  unfold claimFromNone
  dsimp only
  rw [if_pos (by simp [hc, hr, hh, isReady]), place_free hk]

/-! ### A switch-on (R159) -/

/-- The zones with one of them switched on. -/
def zonesWithOn (s : State) (i : Nat) : List Zone :=
  s.heater.zones.mapIdx fun k z => if k = i then
    { z with state := .on, switchedAt := some (now s), onRun := 0 } else z

theorem changeZones_single (zones : List Zone) (i : Nat) (f : Zone → Zone) :
    changeZones zones [i] f = zones.mapIdx fun k z => if k = i then f z else z := by
  unfold changeZones
  congr 1
  funext k z
  simp

theorem zonesWithOn_get (h : i < s.heater.zones.length) :
    ∃ z, (zonesWithOn s i)[i]? = some z ∧ z.state = .on := by
  refine ⟨{ s.heater.zones[i] with state := .on, switchedAt := some (now s), onRun := 0 }, ?_, rfl⟩
  rw [zonesWithOn, List.getElem?_mapIdx, List.getElem?_eq_getElem h, Option.map_some, if_pos rfl]

/-- A switch-on under a claim that is won changes the Zone Table and the figures of the notice. -/
theorem switchOne_claimed (hc : s.heater.claims = i :: rest) (h0 : s.share.claim ≠ .none)
    (hq : s.share.claim ≠ .queued) : ∃ c w, switchOne s = { s with
      heater := { s.heater with
        zones := zonesWithOn s i, claims := rest, onOrder := s.heater.onOrder ++ [i]
        admitted := if rest = [] then 0 else s.heater.admitted - 1, stepRun := 0 }
      share := { s.share with
        heaterCommit := c, heaterWant := w, claimCount := rest.length } } := by
  unfold switchOne
  rw [hc]
  dsimp only
  rw [heaterNotice_claimed (by exact h0) (by exact hq), changeZones_single, endIfNone_eq]
  exact ⟨_, _, rfl⟩

theorem switchOne_none (hc : s.heater.claims = []) :
    switchOne s = s.withHeater { s.heater with admitted := 0 } := by
  rw [switchOne, hc]

/-! ### The windows (R159, R177) -/

theorem windowOpen_ready (hr : s.seq.station = .ready) (n : Nat) : windowOpen s n =
    switchOne (s.withHeater { s.heater with admitted := n, stepRun := 0 }) :=
  if_pos (by simp [isReady, hr])

theorem windowOpen_idle (hr : s.seq.station ≠ .ready) (n : Nat) : windowOpen s n = s :=
  if_neg (by simp [isReady, hr])

theorem windowReached_won (hc : s.share.claim = .won start n false) (h : start ≤ nowMs s) :
    windowReached s =
      windowOpen (s.withShare { s.share with claim := .won start n true }) n := by
  rw [windowReached, hc]
  exact if_pos h

theorem windowEnded_won (hc : s.share.claim = .won start n true) : windowEnded s =
    if start + 500 ≤ nowMs s then claimFromNone s else s := by
  rw [windowEnded, hc]

theorem switchStep_due (h : s.heater.admitted ≠ 0) (hr : 50 ≤ s.heater.stepRun) :
    switchStep s = switchOne s := if_pos (by simp [h, hr])

/-- Settles O53: the claim is won throughout a window, so each notice leaves the queue. -/
theorem inrushWindowsRun : Obligations.InrushWindowsRun := by
  refine ⟨fun s i rest hc => ⟨fun n start hr hw h => ?_, fun n start hw ha hs => ?_⟩,
    fun s start n hw => ⟨fun h => ?_, fun h => ⟨fun hn => ?_, fun h0 hr hh k w hk hw' => ?_⟩⟩⟩
  · obtain ⟨c, w, hone⟩ := switchOne_claimed
      (s := (s.withShare { s.share with claim := .won start n true }).withHeater
        { s.heater with admitted := n, stepRun := 0 }) hc nofun nofun
    refine ⟨_, congrArg Host.Outcome.next ((windowReached_won hw h).trans
      ((windowOpen_ready (by exact hr) n).trans hone)), rfl, rfl, rfl, rfl, rfl, rfl, rfl,
      fun hi => contactor_iff.2 (zonesWithOn_get (s := s) hi)⟩
  · obtain ⟨c, w, hone⟩ := switchOne_claimed (s := s) hc (by simp [hw]) (by simp [hw])
    exact ⟨_, congrArg Host.Outcome.next ((switchStep_due ha hs).trans hone), rfl, rfl, rfl, rfl,
      rfl, rfl, rfl, fun hi => contactor_iff.2 (zonesWithOn_get (s := s) hi)⟩
  · exact congrArg Host.Outcome.next ((windowEnded_won hw).trans (if_neg (by omega)))
  · exact congrArg Host.Outcome.next ((windowEnded_won hw).trans
      ((if_pos h).trans (claimFromNone_idle hn)))
  · rw [hw']
    exact congrArg Host.Outcome.next ((windowEnded_won hw).trans
      ((if_pos h).trans (claimFromNone_queued h0 hr hh hk)))

end Sys2Proof.Machine
end

section
/-! PROOFS. The end of a zone's duty (R158, R160). -/

namespace Sys2Proof.Machine

variable {s t v : State} {i : Nat} {z : Zone}

/-- The Zone Table with one zone at rest, before its notice (R160). -/
def rested (s : State) (i : Nat) : State :=
  s.withHeater { s.heater with
    zones := s.heater.zones.mapIdx fun k x => if k = i then
      { x with state := .rest, switchedAt := none, onRun := 0, lastCause := some .duty } else x
    onOrder := s.heater.onOrder.filter (· != i) }

theorem dutyEnded_served (hz : s.heater.zones[i]? = some z) (hon : z.state = .on)
    (hd : s.heater.duty < 100) (h : s.heater.duty * (cfg s).heaterPeriod * 10 ≤ z.onRun) :
    dutyEnded s i = settlePower s (heaterNotice (rested s i)) := by
  unfold dutyEnded
  rw [hz]
  dsimp only
  rw [if_pos (by simp [dutyServed, hon, hd, h]), changeZones_single]
  rfl

theorem dutyEnded_early (hz : s.heater.zones[i]? = some z)
    (h : s.heater.duty = 100 ∨ z.onRun < s.heater.duty * (cfg s).heaterPeriod * 10) :
    dutyEnded s i = s := by
  rw [dutyEnded, hz]
  refine if_neg ?_
  rcases h with h | h <;> simp [dutyServed, h]

theorem rested_zone (hz : s.heater.zones[i]? = some z) :
    (rested s i).heater.zones[i]? = some { z with
      state := .rest, switchedAt := none, onRun := 0, lastCause := some .duty } := by
  show (s.heater.zones.mapIdx _)[i]? = _
  rw [List.getElem?_mapIdx, hz, Option.map_some, if_pos rfl]

theorem walk_congr (hz : t.heater.zones.length = s.heater.zones.length)
    (hp : t.heater.pointer = s.heater.pointer) : walk t = walk s := by
  unfold walk
  rw [hz, hp]

/-- Settles O54: the zone at rest is not one that a top-up takes. -/
theorem dutyEndsAZonesRun : Obligations.DutyEndsAZonesRun := by
  refine fun s i z hz hon => ⟨fun h => congrArg Host.Outcome.next (dutyEnded_early hz h),
    fun hd h => ⟨_, congrArg Host.Outcome.next (dutyEnded_served hz hon hd h), ?_⟩⟩
  have hstill : Still (rested s i) (heaterNotice (rested s i)) := heaterNotice_still (.refl _)
  have hwalk : walk (heaterNotice (rested s i)) = walk s :=
    walk_congr (by rw [hstill.heater]; exact List.length_mapIdx) (by rw [hstill.heater]; rfl)
  have hsilent : Silent (rested s i) (settlePower s (heaterNotice (rested s i))) :=
    settlePower_silent (heaterNotice_silent (.refl _)) s
  obtain ⟨l, hl⟩ := settlePower_toppedUp s (heaterNotice (rested s i))
  have hzone := hl.kept ((congrArg (·.zones[i]?) hstill.heater).trans (rested_zone hz))
    (.inr nofun)
  have hheater := hl.heater
  rw [hstill.heater] at hheater
  refine ⟨hzone, by rw [hheater]; rfl, by rw [hheater]; rfl, by rw [hheater]; rfl,
    by rw [hheater]; rfl, hsilent.axis, hsilent.lock, hsilent.compact, hsilent.sensor,
    hsilent.wind, hsilent.time, hsilent.report, hsilent.loans, ?_, fun u hu =>
    ⟨fun h => ?_, fun hlt hdem hr taken ht => ?_⟩⟩
  · refine Bool.eq_false_iff.2 fun h => ?_
    obtain ⟨y, hy, hyon⟩ := contactor_iff.1 h
    rw [← Option.some.inj (hzone.symm.trans hy)] at hyon
    cases hyon
  · obtain rfl : u = heaterNotice (rested s i) := hu
    rcases h with h | h | h
    · exact settlePower_heater_of_le h
    · have hno : NoTopUp (rested s i) := by
        show (demand s && _) = false
        rw [h, Bool.false_and]
      exact (settlePower_still (hstill.noTopUp hno) (.refl _) s).heater
    · have hno : NoTopUp (rested s i) := by
        show (_ && isReady s) = false
        simp [isReady, h]
      exact (settlePower_still (hstill.noTopUp hno) (.refl _) s).heater
  · obtain rfl : u = heaterNotice (rested s i) := hu
    have htaken : taken = topUpTaken (heaterNotice (rested s i)) := by
      rw [ht, topUpTaken, hwalk]
    have hdem' : demand (heaterNotice (rested s i)) = true := hstill.demand.trans hdem
    have hr' : (heaterNotice (rested s i)).seq.station = .ready := by
      rw [hstill.seq]
      exact hr
    rw [settlePower, if_pos hlt, (updateAsk_still (.refl _)).heater, topUp_heater hdem' hr',
      ← htaken]
    have hclaims : (heaterNotice (rested s i)).heater.claims = s.heater.claims := by
      rw [hstill.heater]
      rfl
    rw [hclaims]
    refine congrArg (fun x => { (heaterNotice (rested s i)).heater with
      zones := x, claims := s.heater.claims ++ taken }) ?_
    unfold changeZones
    rfl

end Sys2Proof.Machine
end

section
/-! PROOFS. The remote HEAT reset: with every zone OFF, the account asks for nothing and sheds
nothing, and the BORROWED loans are returned one after the other (R165, R178). -/

namespace Sys2Proof.Machine

variable {s t v : State} {n p : Nat} {e : Loan}

/-! ### The figures of a heater notice (R157) -/

theorem claimFromNone_share (s : State) :
    ∃ c, (claimFromNone s).share = { s.share with claim := c } := by
  unfold claimFromNone
  dsimp only
  split
  · split <;> exact ⟨_, rfl⟩
  · exact ⟨_, rfl⟩

theorem updateClaim_share (s : State) :
    ∃ c, (updateClaim s).share = { s.share with claim := c } := by
  unfold updateClaim
  split
  · split
    · exact claimFromNone_share s
    · exact ⟨_, rfl⟩
  · split
    · exact ⟨_, rfl⟩
    · exact ⟨_, rfl⟩
  · exact ⟨_, rfl⟩

/-- After a notice the account holds its three figures as the zones give them. -/
theorem heaterNotice_share (s : State) : ∃ c, (heaterNotice s).share = { s.share with
    heaterCommit := heaterCommitment s, heaterWant := heaterWantSum s
    claimCount := s.heater.claims.length, claim := c } := by
  unfold heaterNotice
  dsimp only
  split
  · rename_i h
    simp only [Bool.and_eq_true, beq_iff_eq] at h
    obtain ⟨⟨hc, hw⟩, hn⟩ := h
    refine ⟨s.share.claim, ?_⟩
    rw [hc, hw, hn]
  · exact updateClaim_share _

/-- Without a zone to start, a notice queues nothing. -/
theorem heaterNotice_queue (h : s.heater.claims = []) (hq : s.line.queue = []) :
    (heaterNotice s).line.queue = [] := by
  unfold heaterNotice
  dsimp only
  split
  · exact hq
  · rw [h]
    unfold updateClaim
    split
    · exact hq
    · show s.line.queue.filter _ = []
      rw [hq]
      rfl
    · exact hq

/-! ### Every zone OFF -/

/-- Every zone is OFF, none is claimed, and the account holds the figures of that. -/
structure Dark (s : State) : Prop where
  zones : ∀ z ∈ s.heater.zones, z.state = .off
  claims : s.heater.claims = []
  onOrder : s.heater.onOrder = []
  admitted : s.heater.admitted = 0
  commit : s.share.heaterCommit = 0
  want : s.share.heaterWant = 0
  count : s.share.claimCount = 0

theorem Dark.of_eq (h : Dark s) (hh : t.heater = s.heater)
    (hc : t.share.heaterCommit = s.share.heaterCommit)
    (hw : t.share.heaterWant = s.share.heaterWant)
    (hn : t.share.claimCount = s.share.claimCount) : Dark t :=
  ⟨by rw [hh]; exact h.zones, by rw [hh]; exact h.claims, by rw [hh]; exact h.onOrder,
    by rw [hh]; exact h.admitted, hc.trans h.commit, hw.trans h.want, hn.trans h.count⟩

theorem zoneSum_off (h : ∀ z ∈ s.heater.zones, z.state = .off) {p : ZoneState → Bool}
    (hp : p .off = false) : zoneSum s p = 0 := by
  unfold zoneSum
  rw [List.filter_eq_nil_iff.2 fun z hz => by rw [h z hz, hp]; exact Bool.false_ne_true]
  rfl

theorem Dark.heaterNotice (h : Dark s) : heaterNotice s = s := by
  have hc : heaterCommitment s = 0 := zoneSum_off h.zones rfl
  have hw : heaterWantSum s = 0 := zoneSum_off h.zones rfl
  unfold Machine.heaterNotice
  exact if_pos (by simp [hc, hw, h.claims, h.commit, h.want, h.count])

theorem Dark.topUp (h : Dark s) : topUp s = s := by
  have hnone : topUpTaken s = [] := by
    refine List.eq_nil_iff_forall_not_mem.2 fun i hi => ?_
    obtain ⟨z, hz, hp⟩ := takeWalk_passes hi
    have hoff := h.zones z (List.mem_of_getElem? hz)
    simp [hoff] at hp
  unfold Machine.topUp
  split
  · rw [← topUpTaken, hnone]
    dsimp only
    rw [changeZones_nil, List.append_nil]
    exact h.heaterNotice
  · rfl

theorem HeaterUnit.idle_eq : ∀ {u : HeaterUnit}, u.claims = [] → u.onOrder = [] →
    u.admitted = 0 → { u with claims := [], onOrder := [], admitted := 0 } = u := by
  rintro ⟨⟩ rfl rfl rfl
  rfl

theorem Dark.shed (h : Dark s) (amount : Nat) : shed s amount = s := by
  unfold Machine.shed
  split
  · rfl
  · simp only [h.claims, h.onOrder, List.reverse_nil, shedPick, changeZones_nil, List.filter_nil,
      endIfNone_nil]
    rw [HeaterUnit.idle_eq h.claims h.onOrder h.admitted]
    exact h.heaterNotice

theorem Dark.shortfall (h : Dark s) : shortfall s = 0 := by
  unfold Machine.shortfall
  rw [h.want, Nat.zero_sub]

/-- Where every zone is OFF, an event of the account withdraws an ask at most. -/
theorem Dark.settlePower (h : Dark s) (before : State) :
    settlePower before s = updateAsk s := by
  unfold Machine.settlePower
  rw [h.topUp, ite_self]

/-- Where every zone is OFF, an ask that waits is withdrawn. -/
theorem Dark.updateAsk (h : Dark s) :
    ∃ l, updateAsk s = s.withLine l := by
  unfold Machine.updateAsk
  split
  · rw [if_pos (by simp [h.shortfall])]
    exact ⟨_, rfl⟩
  · exact ⟨s.line, rfl⟩

theorem Dark.withLine (h : Dark s) (l : LineUnit) : Dark (s.withLine l) :=
  h.of_eq rfl rfl rfl rfl

/-- No SHARE_ASK waits. -/
def NoAsk (s : State) : Prop := ∀ x ∈ s.line.queue, isAsk x = false

theorem Dark.updateAsk_noAsk (h : Dark s) (hq : NoAsk s) : Machine.updateAsk s = s :=
  updateAsk_settled h.shortfall fun x hx => .inl (hq x hx)

/-- Switching off leaves every zone OFF, and queues nothing into an empty queue. -/
theorem allOff_dark (s : State) (c : OffCause) : Dark (allOff s c) ∧
    (allOff s c).heater = { s.heater with
      zones := s.heater.zones.map (zoneOff c), claims := [], onOrder := [], admitted := 0 } ∧
    (s.line.queue = [] → (allOff s c).line.queue = []) := by
  obtain ⟨u, hu⟩ : ∃ u, u = s.withHeater { s.heater with
    zones := s.heater.zones.map (zoneOff c), claims := [], onOrder := [], admitted := 0 } :=
    ⟨_, rfl⟩
  have heq : allOff s c = settlePower s (heaterNotice u) := by
    rw [hu]
    rfl
  have hoff : ∀ z ∈ u.heater.zones, z.state = .off := by
    rw [hu]
    intro z hz
    obtain ⟨y, -, rfl⟩ := List.mem_map.1 hz
    unfold zoneOff
    split
    · simpa using ‹(y.state == .off) = true›
    · rfl
  have hheater := (heaterNotice_still (.refl u)).heater
  obtain ⟨k, hk⟩ := heaterNotice_share u
  have hdark : Dark (heaterNotice u) := by
    refine ⟨by rw [hheater]; exact hoff, by rw [hheater, hu]; rfl, by rw [hheater, hu]; rfl,
      by rw [hheater, hu]; rfl, ?_, ?_, ?_⟩
    · rw [hk]
      exact zoneSum_off hoff (p := fun z => z == .claim || z == .on) rfl
    · rw [hk]
      exact zoneSum_off hoff (p := fun z => z == .want) rfl
    · rw [hk, hu]
      rfl
  obtain ⟨l, hl⟩ := hdark.updateAsk
  rw [heq, hdark.settlePower]
  refine ⟨?_, ?_, fun hq => ?_⟩
  · rw [hl]
    exact hdark.withLine l
  · rw [hl]
    exact hheater.trans (by rw [hu]; rfl)
  · have hnil : (heaterNotice u).line.queue = [] :=
      heaterNotice_queue (by rw [hu]; rfl) (by rw [hu]; exact hq)
    have hno : NoAsk (heaterNotice u) := fun x hx => by
      rw [hnil] at hx
      cases hx
    rw [hdark.updateAsk_noAsk hno]
    exact hnil

/-! ### A loan returned (R178) -/

/-- A BORROWED entry out of the Loan Table, and its SHARE_BACK queued (R169, R178). -/
def giveBack (v : State) (e : Loan) : State :=
  queueFrame (removeBorrowed v e.peer) (.shareBack e.peer e.amount)

/-- The Loan Table without the BORROWED entry from a peer. -/
def withoutLoan (s : State) (p : Nat) : State :=
  s.withShare { s.share with loans := dropLoan s.share.loans p false }

theorem Dark.withoutLoan (h : Dark s) (p : Nat) : Dark (withoutLoan s p) :=
  h.of_eq rfl rfl rfl rfl

theorem Dark.removeBorrowed (h : Dark s) (p : Nat) :
    removeBorrowed s p = Machine.updateAsk (Machine.withoutLoan s p) := by
  rw [Machine.removeBorrowed, h.shed]
  exact (h.withoutLoan p).settlePower _

theorem enqueue_shareBack (s : State) (p a : Nat) :
    ∃ l, enqueue s (.shareBack p a) = s.withLine l := by
  unfold enqueue enqueueEntry
  split
  · split
    · exact ⟨_, rfl⟩
    · unfold enqueueNew
      split
      · cases ‹frameClass (TxEntry.fresh (.shareBack p a)).frame = .safety›
      · split <;> exact ⟨_, rfl⟩
  · exact ⟨s.line, rfl⟩

/-- Where every zone is OFF, a return changes the queue and the Loan Table alone. -/
theorem Dark.giveBack (h : Dark s) (e : Loan) :
    ∃ l, giveBack s e = (Machine.withoutLoan s e.peer).withLine l := by
  have hd := h.withoutLoan e.peer
  obtain ⟨l, hl⟩ := hd.updateAsk
  rw [Machine.giveBack, h.removeBorrowed, hl]
  generalize Machine.withoutLoan s e.peer = u at hd ⊢
  obtain ⟨l', hl'⟩ := enqueue_shareBack (u.withLine l) e.peer e.amount
  obtain ⟨l'', hl''⟩ := ((hd.withLine l).withLine l').updateAsk
  rw [queueFrame, hl', ((hd.withLine l).withLine l').settlePower]
  exact ⟨l'', hl''⟩

/-- The loans of a list returned one after the other change the queue and the Loan Table alone. -/
theorem Dark.foldl_giveBack (bs : List Loan) : ∀ {s : State}, Dark s → ∃ l,
    bs.foldl Machine.giveBack s = (s.withShare { s.share with
      loans := bs.foldl (fun loans e => dropLoan loans e.peer false) s.share.loans }).withLine
          l := by
  induction bs with
  | nil => exact fun _ => ⟨_, rfl⟩
  | cons e bs ih =>
    intro s h
    obtain ⟨l, hl⟩ := h.giveBack e
    obtain ⟨l', hl'⟩ := ih ((h.withoutLoan e.peer).withLine l)
    exact ⟨l', by rw [List.foldl_cons, hl, hl']; rfl⟩

theorem foldl_dropLoan (bs loans : List Loan) :
    bs.foldl (fun l e => dropLoan l e.peer false) loans =
      loans.filter fun x => bs.all fun e => !(x.peer == e.peer && x.lent == false) := by
  induction bs generalizing loans with
  | nil => simp
  | cons e bs ih =>
    rw [List.foldl_cons, ih, dropLoan, List.filter_filter]
    refine List.filter_congr fun x _ => ?_
    rw [List.all_cons, Bool.and_comm]

/-- All BORROWED loans returned leave the LENT ones. -/
theorem foldl_dropLoan_borrowed (loans : List Loan) :
    (loans.filter fun e => !e.lent).foldl (fun l e => dropLoan l e.peer false) loans =
      loans.filter fun e => e.lent := by
  rw [foldl_dropLoan]
  refine List.filter_congr fun x hx => ?_
  cases hl : x.lent
  · refine Bool.eq_false_iff.2 fun h => ?_
    have := List.all_eq_true.1 h x (List.mem_filter.2 ⟨hx, by rw [hl]; rfl⟩)
    simp at this
  · simp

/-! ### The loans found one after the other -/

theorem findLoan_of_mem (ok : LoansOk s.share) (he : e ∈ s.share.loans) :
    findLoan s e.peer e.lent = some e := by
  have hnodup : (s.share.loans.map (·.peer)).Nodup := List.pairwise_map.2 ok.2
  obtain ⟨x, hx⟩ := Option.isSome_iff_exists.1 (List.find?_isSome.2 ⟨e, he, by simp⟩ :
    (findLoan s e.peer e.lent).isSome = true)
  obtain ⟨hmem, hpeer, -⟩ := findLoan_some hx
  exact hx.trans (congrArg some (List.inj_on_of_nodup_map hnodup hmem he hpeer))

theorem findLoan_withoutLoan {q : Nat} (h : q ≠ p) (lent : Bool) :
    findLoan (withoutLoan s p) q lent = findLoan s q lent := by
  show (s.share.loans.filter _).find? _ = s.share.loans.find? _
  rw [List.find?_filter]
  refine congrArg (fun f => List.find? f _) (funext fun x => ?_)
  by_cases hx : x.peer = q
  · cases hl : x.lent <;> simp [hx, h]
  · simp [hx]

/-- The returns at a HEAT reset each find their loan (R178). -/
theorem Dark.foldl_returnLoan {bs : List Loan} (hp : bs.Pairwise fun a b => a.peer ≠ b.peer) :
    ∀ {s : State}, Dark s → (∀ e ∈ bs, findLoan s e.peer false = some e) →
    (bs.map (·.peer)).foldl returnLoan s = bs.foldl Machine.giveBack s := by
  induction hp with
  | nil => exact fun _ _ => rfl
  | @cons e bs hne _ ih =>
    intro s h hf
    have hone : returnLoan s e.peer = Machine.giveBack s e := by
      rw [returnLoan, hf e (List.mem_cons_self ..)]
      rfl
    obtain ⟨l, hl⟩ := h.giveBack e
    rw [List.map_cons, List.foldl_cons, List.foldl_cons, hone, hl]
    refine ih ((h.withoutLoan e.peer).withLine l) fun x hx => ?_
    show findLoan (Machine.withoutLoan s e.peer) x.peer false = _
    rw [findLoan_withoutLoan (hne x hx).symm]
    exact hf x (List.mem_cons_of_mem _ hx)

/-! ### The SHARE_BACKs queued -/

theorem sameGroup_shareBack (f : Frame) (p a : Nat) : sameGroup f (.shareBack p a) = false := by
  cases f <;> rfl

theorem Dark.giveBack_queue (h : Dark s) (ht : transmits s = true) (hq : NoAsk s)
    (hlen : s.line.queue.length < 8) (e : Loan) :
    NoAsk (Machine.giveBack s e) ∧ transmits (Machine.giveBack s e) = true ∧
      (Machine.giveBack s e).line.queue.map (·.frame) =
        s.line.queue.map (·.frame) ++ [.shareBack e.peer e.amount] := by
  obtain ⟨k, hk⟩ := exists_freeSlot hlen
  have hd := h.withoutLoan e.peer
  have hput : enqueue (Machine.withoutLoan s e.peer) (.shareBack e.peer e.amount) =
      (Machine.withoutLoan s e.peer).withLine
        (s.line.append k (TxEntry.fresh (.shareBack e.peer e.amount))) :=
    enqueueEntry_general ht (groupMate_none fun f _ => sameGroup_shareBack f _ _) nofun hk
  have hno : NoAsk ((Machine.withoutLoan s e.peer).withLine
      (s.line.append k (TxEntry.fresh (.shareBack e.peer e.amount)))) := fun x hx => by
    rcases List.mem_append.1 hx with hx | hx
    · exact hq x hx
    · rw [List.mem_singleton.1 hx]
      rfl
  have heq : Machine.giveBack s e = (Machine.withoutLoan s e.peer).withLine
      (s.line.append k (TxEntry.fresh (.shareBack e.peer e.amount))) := by
    rw [Machine.giveBack, h.removeBorrowed, hd.updateAsk_noAsk hq, queueFrame, hput,
      (hd.withLine _).settlePower, (hd.withLine _).updateAsk_noAsk hno]
  rw [heq]
  refine ⟨hno, ht, ?_⟩
  show (s.line.queue ++ _).map _ = _
  rw [List.map_append]
  rfl

theorem Dark.foldl_giveBack_queue (bs : List Loan) : ∀ {s : State}, Dark s →
    transmits s = true → NoAsk s → s.line.queue.length + bs.length ≤ 8 →
    (bs.foldl Machine.giveBack s).line.queue.map (·.frame) =
      s.line.queue.map (·.frame) ++ bs.map fun e => .shareBack e.peer e.amount := by
  induction bs with
  | nil => intros; simp
  | cons e bs ih =>
    intro s h ht hq hlen
    rw [List.length_cons] at hlen
    obtain ⟨hno, ht', hqueue⟩ := h.giveBack_queue ht hq (by omega) e
    have hlen' := congrArg List.length hqueue
    simp only [List.length_map, List.length_append, List.length_singleton] at hlen'
    obtain ⟨l, hl⟩ := h.giveBack e
    have hd : Dark (Machine.giveBack s e) := hl ▸ (h.withoutLoan e.peer).withLine l
    rw [List.foldl_cons, ih hd ht' hno (by omega), hqueue, List.append_assoc]
    rfl

/-- Settles O55: the loans returned from a Zone Table that is OFF throughout. -/
theorem aHeatResetSwitchesOff : Obligations.AHeatResetSwitchesOff := by
  refine fun s n hk => ⟨fun target ht => ?_, fun ok => ?_⟩
  · have hother : ¬(target == s.seq.number) = true := by simpa using ht
    exact congrArg Host.Outcome.next ((takeConsoleFrame_known hk _).trans (if_neg hother))
  have hnext : exec (.resetHeat n s.seq.number) s = .next (heatReset (frameRead s n)) :=
    congrArg Host.Outcome.next ((takeConsoleFrame_known hk _).trans
      (if_pos (beq_self_eq_true s.seq.number)))
  have hsilent : Silent (frameRead s n) (allOff (frameRead s n) .reset) :=
    allOff_silent (.refl _) _
  obtain ⟨hdark, hheater, hqueue⟩ := allOff_dark (frameRead s n) .reset
  have hreset : heatReset (frameRead s n) = (s.share.loans.filter fun e => !e.lent).foldl giveBack
      (allOff (frameRead s n) .reset) := by
    refine hdark.foldl_returnLoan (ok.2.filter _) fun e he => ?_
    obtain ⟨hmem, hlent⟩ := List.mem_filter.1 he
    have hloans : (allOff (frameRead s n) .reset).share.loans = s.share.loans := hsilent.loans
    have hok : LoansOk (allOff (frameRead s n) .reset).share := by
      unfold LoansOk
      rw [hloans]
      exact ok
    have hfind := findLoan_of_mem hok (hloans ▸ hmem)
    have hout : e.lent = false := by simpa using hlent
    rwa [hout] at hfind
  rw [hreset] at hnext
  generalize allOff (frameRead s n) .reset = u at *
  obtain ⟨l, hl⟩ := hdark.foldl_giveBack (s.share.loans.filter fun e => !e.lent)
  have hloans : u.share.loans = s.share.loans := hsilent.loans
  rw [hloans, foldl_dropLoan_borrowed] at hl
  have hend := hdark.foldl_giveBack_queue (s.share.loans.filter fun e => !e.lent)
  refine ⟨_, hnext, ?_⟩
  rw [hl]
  refine ⟨hheater, rfl, hsilent.busy, hsilent.motion, hsilent.lock, hsilent.axis,
    hsilent.compact, hsilent.sensor, hsilent.wind, hsilent.time, fun z => ?_, hl ▸ hnext,
    fun ht hq => ?_⟩
  · exact contactor_zoneOff (congrArg (·.zones) hheater) z
  · have hnil : u.line.queue = [] := hqueue hq
    rw [← hl, hend ((transmits_congr hsilent.seq).trans ht) ?_ ?_, hnil]
    · rfl
    · intro x hx
      rw [hnil] at hx
      cases hx
    · rw [hnil]
      exact (Nat.zero_add _).trans_le ((List.length_filter_le _ _).trans ok.1)

end Sys2Proof.Machine
end

section
/-! PROOFS. Shares asked for and granted (R171, R172). -/

namespace Sys2Proof.Machine

variable {s t v : State} {n amount k : Nat} {e : TxEntry}

/-! ### The ask (R171) -/

/-- A revision that leaves every waiting frame leaves the queue. -/
theorem reviseFrames_none {f : TxEntry → TxEntry}
    (h : ∀ e ∈ s.line.queue, e.started = true ∨ f e = e) : reviseFrames s f = s := by
  have hq : s.line.queue.map (fun e => if e.started then e
      else { f e with slot := e.slot, age := e.age, started := e.started }) = s.line.queue := by
    refine (List.map_congr_left fun e he => ?_).trans (List.map_id _)
    split
    · rfl
    · rename_i hs
      rw [(h e he).resolve_left hs]
      rfl
  show s.withLine { s.line with queue := _ } = s
  rw [hq]
  rfl

theorem transmits_of_ready (hr : s.seq.station = .ready) (hh : s.seq.held = false) :
    transmits s = true := by
  simp [transmits, isReady, hr, hh]

theorem sameGroup_shareAsk (f : Frame) (a : Nat) : sameGroup f (.shareAsk a) = false := by
  cases f <;> rfl

/-- The station asks for its shortfall where none of its asks waits. -/
theorem updateAsk_asks {r : Nat} (hr : s.seq.station = .ready) (hh : s.seq.held = false)
    (h0 : shortfall s ≠ 0) (ha : s.share.askRun = some r) (h5 : 5000 ≤ r)
    (hq : ∀ e ∈ s.line.queue, isAsk e = false) (hk : freeSlot s.line.queue 0 8 = some k) :
    updateAsk s = { s with
      line := s.line.append k (TxEntry.fresh (.shareAsk (min (shortfall s) 16)))
      share := { s.share with askRun := some 0 } } := by
  unfold updateAsk
  rw [if_pos (by simp [isReady, hr]), if_neg (by simp [h0]),
    reviseFrames_none fun e he => .inr (if_neg (by simp [hq e he])), ha]
  dsimp only
  rw [if_neg (by omega), queueAsk]
  have hput : enqueue s (.shareAsk (askAmount s)) =
      s.withLine (s.line.append k (TxEntry.fresh (.shareAsk (askAmount s)))) :=
    enqueueEntry_general (transmits_of_ready hr hh)
      (groupMate_none fun f _ => sameGroup_shareAsk f _) nofun hk
  rw [hput]
  rfl

/-! ### The grant (R172) -/

theorem mayGrant_iff : mayGrant s n = true ↔ s.seq.station = .ready ∧ spareShares s ≠ 0 ∧
    (findLoan s n false).isSome = false ∧
    ((findLoan s n true).isSome = true ∨ s.share.loans.length + newGrants s < 8) := by
  simp [mayGrant, isReady, and_assoc]

theorem mayGrant_false (h : s.seq.station ≠ .ready ∨ spareShares s = 0 ∨
    (findLoan s n false).isSome = true ∨
    (findLoan s n true).isSome = false ∧ 8 ≤ s.share.loans.length + newGrants s) :
    mayGrant s n = false := by
  refine Bool.eq_false_iff.2 fun hm => ?_
  obtain ⟨hr, hsp, hb, hroom⟩ := mayGrant_iff.1 hm
  rcases h with h | h | h | ⟨hl, hfull⟩
  · exact h hr
  · exact hsp h
  · rw [h] at hb
    cases hb
  · rcases hroom with hroom | hroom
    · rw [hl] at hroom
      cases hroom
    · omega

theorem takeShareAsk_void (h : amount = 0 ∨ 16 < amount) : takeShareAsk s n amount = s := by
  unfold takeShareAsk
  refine if_pos ?_
  rcases h with h | h <;> simp [h]

/-- An ask of another dish, with no grant to it that waits. -/
theorem takeShareAsk_new (hn : n ≠ s.seq.number) (h1 : amount ≠ 0) (h16 : amount ≤ 16)
    (hq : ∀ e ∈ s.line.queue, isGrantTo n e = false ∨ e.started = true) :
    takeShareAsk s n amount = if mayGrant s n then
      enqueueEntry s { TxEntry.fresh (.shareGrant n (min amount (spareShares s)) 0) with
        stillWanted := amount }
    else s := by
  have hany : (s.line.queue.any fun e => !e.started && isGrantTo n e) = false := by
    refine List.any_eq_false.2 fun e he => ?_
    rcases hq e he with h | h <;> simp [h]
  rw [takeShareAsk, if_neg (by simp [hn, h1, h16]), hany]
  rfl

/-- An ask of another dish, to which a grant waits. -/
theorem takeShareAsk_again (hn : n ≠ s.seq.number) (h1 : amount ≠ 0) (h16 : amount ≤ 16)
    (hq : ∃ e ∈ s.line.queue, isGrantTo n e = true ∧ e.started = false) :
    takeShareAsk s n amount = if mayGrant s n then reviseFrames s (regrant s n amount)
      else withdrawFrames s (isGrantTo n) := by
  have hany : (s.line.queue.any fun e => !e.started && isGrantTo n e) = true := by
    obtain ⟨e, he, hg, hs⟩ := hq
    exact List.any_eq_true.2 ⟨e, he, by simp [hg, hs]⟩
  rw [takeShareAsk, if_neg (by simp [hn, h1, h16]), if_pos hany]

theorem sameGroup_shareGrant (f : Frame) (b a x : Nat) :
    sameGroup f (.shareGrant b a x) = false := by
  cases f <;> rfl

theorem regrant_revises (s : State) (n amount : Nat) : reviseFrames s (regrant s n amount) =
    s.withLine { s.line with
      queue := s.line.queue.map fun e => if isGrantTo n e && !e.started then { e with
        frame := .shareGrant n (min amount (spareShares s)) 0,
          stillWanted := amount } else e } := by
  unfold reviseFrames LineUnit.revise
  refine congrArg (fun q => s.withLine { s.line with queue := q })
    (List.map_congr_left fun e _ => ?_)
  cases hs : e.started
  · cases hg : isGrantTo n e
    · simp only [regrant, hg, hs, Bool.false_eq_true, if_false, Bool.false_and]
      rw [← hs]
    · simp [regrant, hg]
  · simp

theorem KnownDish.transmits (h : KnownDish s n) (hr : s.seq.station = .ready) :
    transmits s = true := by
  have hrec : receives s = true := h.1.1
  refine transmits_of_ready hr ?_
  unfold receives at hrec
  simpa using (Bool.and_eq_true_iff.1 hrec).1

theorem KnownDish.ne (h : KnownDish s n) : n ≠ s.seq.number := h.1.2.2.2.1

/-- Settles O56: the ask by its run, and the answer to another dish's ask by what waits for it. -/
theorem sharesAreAskedAndGranted : Obligations.SharesAreAskedAndGranted := by
  refine ⟨fun s r ha h5 hr hh => ⟨fun h0 => ?_, fun k h0 hq hk => ?_⟩,
    fun s n amount hk hq => ⟨fun h => ?_, fun h1 h16 hr hsp hb hroom k hfree => ?_⟩,
    fun s n amount hk h1 h16 hq => ⟨fun h => ?_, fun hr hsp hb hroom => ?_⟩⟩
  · refine congrArg Host.Outcome.next ?_
    rw [askDue, ha]
    exact if_neg (by simp [h0])
  · refine congrArg Host.Outcome.next ?_
    rw [askDue, ha]
    exact (if_pos (by simp [h0, h5, isReady, hr])).trans (updateAsk_asks hr hh h0 ha h5 hq hk)
  · refine congrArg Host.Outcome.next ((takeDishFrame_known hk _).trans ?_)
    by_cases hv : amount = 0 ∨ 16 < amount
    · exact takeShareAsk_void hv
    · rw [takeShareAsk_new (by exact hk.ne) (by omega) (by omega) (by exact hq), if_neg]
      exact Bool.eq_false_iff.1 (mayGrant_false (s := frameRead s n) (by tauto))
  · refine congrArg Host.Outcome.next ((takeDishFrame_known hk _).trans ?_)
    rw [takeShareAsk_new (by exact hk.ne) h1 h16 (by exact hq),
      if_pos ((mayGrant_iff (s := frameRead s n)).2 ⟨hr, hsp, hb, hroom⟩)]
    exact enqueueEntry_general (hk.transmits hr)
      (groupMate_none fun f _ => sameGroup_shareGrant f _ _ _) nofun hfree
  · refine congrArg Host.Outcome.next ((takeDishFrame_known hk _).trans ?_)
    rw [takeShareAsk_again (by exact hk.ne) h1 h16 (by exact hq),
      if_neg (Bool.eq_false_iff.1 (mayGrant_false (by exact h)))]
    rfl
  · refine congrArg Host.Outcome.next ((takeDishFrame_known hk _).trans ?_)
    rw [takeShareAsk_again (by exact hk.ne) h1 h16 (by exact hq),
      if_pos ((mayGrant_iff (s := frameRead s n)).2 ⟨hr, hsp, hb, hroom⟩)]
    exact regrant_revises (frameRead s n) n amount

end Sys2Proof.Machine
end

section
/-! PROOFS. Grants kept, cut and given back (R172 to R174). -/

namespace Sys2Proof.Machine

variable {s t v : State} {n b amount expiry : Nat} {e : TxEntry}

/-! ### The loan of a grant (R173) -/

/-- The BORROWED entry from a lender with an amount more and the expiry of the grant. -/
def withBorrowed (s : State) (lender kept expiry : Nat) : List Loan :=
  if (findLoan s lender false).isSome then s.share.loans.map fun e =>
    if e.peer == lender && !e.lent then
      { e with amount := e.amount + kept, expiry := expiry, grace := false, graceRun := 0 }
    else e
  else s.share.loans ++ [⟨lender, false, kept, expiry, false, 0⟩]

theorem addLoan_borrowed (s : State) (lender kept expiry : Nat) :
    addLoan s.share.loans lender false kept expiry = withBorrowed s lender kept expiry := by
  have hlent : ∀ e : Loan, (e.lent == false) = !e.lent := fun e => by cases e.lent <;> rfl
  have hany : (s.share.loans.any fun e => e.peer == lender && e.lent == false) =
      (findLoan s lender false).isSome := by
    unfold findLoan
    rw [Bool.eq_iff_iff, List.any_eq_true, List.find?_isSome]
  unfold addLoan withBorrowed
  rw [hany]
  simp only [hlent]

theorem keptAmount_eq (s : State) (lender amount : Nat) : keptAmount s lender amount =
    if s.seq.station ≠ .ready ∨ (findLoan s lender true).isSome = true ∨
      (findLoan s lender false).isSome = false ∧ 8 ≤ s.share.loans.length then 0
    else min amount (shortfall s) := by
  unfold keptAmount
  refine if_congr ?_ rfl rfl
  simp [isReady, or_assoc]

theorem keptAmount_ready (h : keptAmount s n amount ≠ 0) : isReady s = true := by
  by_contra hr
  exact h (if_pos (by simp [hr]))

theorem takeShareGrant_own (hn : n ≠ s.seq.number) (hd : isDish s.seq.number = true)
    (h1 : 1 ≤ amount) (h16 : amount ≤ 16) :
    takeShareGrant s n s.seq.number amount expiry = borrow s n amount expiry := by
  unfold takeShareGrant
  rw [if_neg (by simp [hn, hd]; omega), if_pos (by simp)]

theorem takeShareGrant_void (h : amount = 0 ∨ 16 < amount) :
    takeShareGrant s n b amount expiry = s := by
  unfold takeShareGrant
  refine if_pos ?_
  rcases h with h | h <;> simp [h]

theorem borrow_none (h : keptAmount s n amount = 0) (h1 : 1 ≤ amount) :
    borrow s n amount expiry =
      if s.seq.station = .ready ∨ s.seq.station = .faulted .config then
        queueFrame s (.shareBack n amount) else s := by
  unfold borrow
  rw [h]
  refine if_congr ?_ rfl rfl
  simp [isReady, isConfigFault]
  omega

/-- The account with the loan of a grant (R173). -/
def borrowed (s : State) (lender kept expiry : Nat) : State :=
  settlePower s (s.withShare { s.share with loans := withBorrowed s lender kept expiry })

theorem borrow_some (h : keptAmount s n amount ≠ 0) : borrow s n amount expiry =
    if keptAmount s n amount < amount then
      queueFrame (borrowed s n (keptAmount s n amount) expiry)
        (.shareBack n (amount - keptAmount s n amount))
    else borrowed s n (keptAmount s n amount) expiry := by
  unfold borrow
  have hne : ¬(keptAmount s n amount == 0) = true := by simpa using h
  simp only [if_neg hne, addLoan_borrowed]
  refine if_congr ?_ rfl rfl
  simp [keptAmount_ready h]

theorem borrow_silent (h : keptAmount s n amount ≠ 0) :
    Silent (s.withShare { s.share with
      loans := withBorrowed s n (keptAmount s n amount) expiry }) (borrow s n amount expiry) := by
  rw [borrow_some h]
  split
  · exact queueFrame_silent (settlePower_silent (.refl _) s) _
  · exact settlePower_silent (.refl _) s

/-! ### The grant to another borrower (R172) -/

/-- The waiting grants as another lender's grant to their borrower leaves them (R172). -/
def cutFrame (b amount : Nat) (e : TxEntry) : TxEntry :=
  match e.started, e.frame with
  | false, .shareGrant d a x => if d = b then { e with
      frame := .shareGrant b (min a (e.stillWanted - amount)) x
      stillWanted := e.stillWanted - amount } else e
  | _, _ => e

theorem cutFrame_eq (b amount : Nat) (e : TxEntry) : cutFrame b amount e =
    if e.started then e else { cutGrant b amount e with
      slot := e.slot, age := e.age, started := e.started } := by
  obtain ⟨slot, frame, age, attempts, started, again, wanted, run⟩ := e
  cases started
  case true => rfl
  case false =>
    cases frame
    case shareGrant d a x =>
      by_cases h : d = b
      · simp [cutFrame, cutGrant, h]
      · simp [cutFrame, cutGrant, h]
    all_goals rfl

theorem cutFrame_grant {a x : Nat} (hs : e.started = false) (hf : e.frame = .shareGrant b a x) :
    cutFrame b amount e = { e with
      frame := .shareGrant b (min a (e.stillWanted - amount)) x
      stillWanted := e.stillWanted - amount } := by
  unfold cutFrame
  rw [hs, hf]
  exact if_pos rfl

theorem cutFrame_other (h : isGrantTo b e = false ∨ e.started = true) :
    cutFrame b amount e = e := by
  unfold cutFrame
  split
  · rename_i hs hf
    rw [isGrantTo, hf, hs] at h
    exact if_neg (by simpa using h)
  · rfl

theorem takeShareGrant_other (hn : n ≠ s.seq.number) (hb : b ≠ s.seq.number)
    (hd : isDish b = true) (h1 : 1 ≤ amount) (h16 : amount ≤ 16) :
    takeShareGrant s n b amount expiry = s.withLine { s.line with
      queue := (s.line.queue.map (cutFrame b amount)).filter fun e =>
        e.started || !(isGrantTo b e && e.stillWanted == 0) } := by
  unfold takeShareGrant
  rw [if_neg (by simp [hn, hd]; omega), if_neg (by simpa using hb)]
  refine congrArg (fun q => s.withLine { s.line with queue := q }) ?_
  refine congrArg (List.filter _) (List.map_congr_left fun e _ => ?_)
  rw [cutFrame_eq]

/-- A grant to a borrower that no own grant waits for is only read. -/
theorem takeShareGrant_idle (hn : n ≠ s.seq.number) (hb : b ≠ s.seq.number)
    (hq : ∀ e ∈ s.line.queue, isGrantTo b e = false ∨ e.started = true) :
    takeShareGrant s n b amount expiry = s := by
  by_cases hv : amount = 0 ∨ 16 < amount
  · exact takeShareGrant_void hv
  by_cases hd : isDish b = true
  · rw [takeShareGrant_other hn hb hd (by omega) (by omega)]
    have hmap : s.line.queue.map (cutFrame b amount) = s.line.queue :=
      (List.map_congr_left fun e he => cutFrame_other (hq e he)).trans (List.map_id _)
    rw [hmap, List.filter_eq_self.2 fun e he => ?_]
    · rfl
    · rcases hq e he with h | h <;> simp [h]
  · exact if_pos (by simp [hd])

/-! ### The loan given back (R174) -/

theorem takeShareBack_other {l : Nat} (h : l ≠ s.seq.number ∨ findLoan s n true = none) :
    takeShareBack s n l amount = s := by
  unfold takeShareBack
  split
  · rename_i hl
    rw [h.resolve_left fun hne => hne (by simpa using (Bool.and_eq_true_iff.1 hl).1)]
  · rfl

/-- The Loan Table after a SHARE_BACK of the borrower of a LENT entry (R174). -/
def withBack (s : State) (borrower : Nat) (x : Loan) (amount : Nat) : List Loan :=
  if x.amount ≤ amount then
    s.share.loans.filter fun x => !(x.peer == borrower && x.lent == true)
  else s.share.loans.map fun x =>
    if x.peer == borrower && x.lent then { x with amount := x.amount - amount } else x

theorem takeShareBack_lent {x : Loan} (hn : n ≠ s.seq.number) (hx : findLoan s n true = some x) :
    takeShareBack s n s.seq.number amount =
      settlePower s (s.withShare { s.share with loans := withBack s n x amount }) := by
  unfold takeShareBack
  rw [if_pos (by simp [hn]), hx]
  unfold withBack
  dsimp only
  split <;> rfl

/-- Settles O57: the grant kept, the grant to another borrower, and the SHARE_BACK. -/
theorem sharesAreKeptAndTakenBack : Obligations.SharesAreKeptAndTakenBack := by
  refine ⟨fun s n amount expiry kept hk hd => ⟨fun hv => congrArg Host.Outcome.next
      ((takeDishFrame_known hk _).trans (takeShareGrant_void hv)), fun h1 h16 hkept => ?_⟩,
    fun s n b amount expiry hk hb => ⟨fun hq => congrArg Host.Outcome.next
      ((takeDishFrame_known hk _).trans (takeShareGrant_idle hk.ne hb hq)), ?_, ?_⟩,
    fun s n amount hk => ⟨fun l hl => congrArg Host.Outcome.next
      ((takeDishFrame_known hk _).trans (takeShareBack_other hl)), fun x hx => ?_⟩⟩
  · have hexec : exec (.shareGrant n s.seq.number amount expiry) s =
        .next (borrow (frameRead s n) n amount expiry) := congrArg Host.Outcome.next
      ((takeDishFrame_known hk _).trans (takeShareGrant_own (s := frameRead s n) hk.ne hd h1 h16))
    obtain rfl : kept = keptAmount (frameRead s n) n amount :=
      hkept.trans (keptAmount_eq (frameRead s n) n amount).symm
    rw [hexec]
    refine ⟨fun h0 => congrArg Host.Outcome.next (borrow_none h0 h1), fun h0 => ?_, ?_⟩
    · have hs := borrow_silent (expiry := expiry) h0
      exact ⟨_, rfl, hs.loans, hs.motion, hs.axis, hs.lock, hs.compact, hs.sensor, hs.wind,
        hs.time⟩
    · rintro h0 _ rfl
      exact congrArg Host.Outcome.next (borrow_some h0)
  · intro e a x hd h1 h16 hq hs hf
    refine congrArg Host.Outcome.next ((takeDishFrame_known hk _).trans
      ((takeShareGrant_other (s := frameRead s n) hk.ne hb hd h1 h16).trans ?_))
    refine congrArg (fun q => (frameRead s n).withLine { (frameRead s n).line with queue := q }) ?_
    show (s.line.queue.map (cutFrame b amount)).filter _ = _
    rw [hq, List.map_singleton, cutFrame_grant hs hf]
    by_cases hw : e.stillWanted ≤ amount
    · have hspent : e.stillWanted - amount = 0 := by omega
      rw [if_pos hw]
      simp [hs, isGrantTo, hspent]
    · have hleft : e.stillWanted - amount ≠ 0 := by omega
      rw [if_neg hw]
      simp [hleft]
  · intro hd h1 h16
    exact congrArg Host.Outcome.next ((takeDishFrame_known hk _).trans
      (takeShareGrant_other (s := frameRead s n) hk.ne hb hd h1 h16))
  · have hs : Silent ((frameRead s n).withShare { s.share with loans := withBack s n x amount })
        (settlePower (frameRead s n) _) := settlePower_silent (.refl _) _
    exact ⟨_, congrArg Host.Outcome.next ((takeDishFrame_known hk _).trans
      (takeShareBack_lent (s := frameRead s n) hk.ne hx)), hs.loans, hs.motion, hs.axis, hs.lock,
      hs.compact, hs.sensor, hs.time⟩

end Sys2Proof.Machine
end

section
/-! PROOFS. The expiry of a loan (R161, R169, R174). -/

namespace Sys2Proof.Machine

variable {s t v : State} {p : Nat} {e : Loan}

/-- A BORROWED entry ends after the shed that the fall of the shares held needs (R169). -/
theorem removeBorrowed_sheds (h : findLoan s p false = some e) : removeBorrowed s p =
    settlePower s ((shed s (committedShares s + e.amount - heldShares s)).withShare
      { (shed s (committedShares s + e.amount - heldShares s)).share with
        loans := s.share.loans.filter fun x => !(x.peer == p && x.lent == false) }) := by
  have hlent : ∀ x : Loan, (!x.lent) = (x.lent == false) := fun x => by cases x.lent <;> rfl
  have hfind : s.share.loans.find? (fun x => x.peer == p && !x.lent) = some e := by
    simp only [hlent]
    exact h
  unfold removeBorrowed dropLoan
  rw [hfind]
  dsimp only [Option.map_some, Option.getD_some]
  rw [(shed_silent (.refl s) _).loans]

/-- What is left of the state when a loan has gone: of the account, the loans that remain. -/
theorem removeBorrowed_withdrawn (h : findLoan s p false = some e) :
    ∃ u : State, Silent s u ∧ Silent (u.withShare { u.share with
      loans := s.share.loans.filter fun x => !(x.peer == p && x.lent == false) })
      (removeBorrowed s p) := by
  rw [removeBorrowed_sheds h]
  exact ⟨_, shed_silent (.refl s) _, settlePower_silent (.refl _) s⟩

theorem borrowedExpired_due (h : findLoan s p false = some e) (hx : e.expiry ≤ s.time.sec) :
    borrowedExpired s p = enqueueEntry (removeBorrowed s p)
      { TxEntry.fresh (.shareBack p e.amount) with expiryRun := some 0 } := by
  rw [borrowedExpired, h]
  exact if_pos hx

theorem lentExpired_due (h : findLoan s p true = some e) (hg : e.grace = false)
    (hx : e.expiry ≤ s.time.sec) : lentExpired s p = s.withShare { s.share with
      loans := s.share.loans.map fun x =>
        if x.peer == p && x.lent then { x with grace := true, graceRun := 0 } else x } := by
  rw [lentExpired, h]
  exact if_pos (by simp [hg, hx])

theorem graceEnded_due (h : findLoan s p true = some e) (hg : e.grace = true)
    (hr : 2000 ≤ e.graceRun) : graceEnded s p = removeLent s p := by
  rw [graceEnded, h]
  exact if_pos (by simp [hg, hr])

/-- Settles O58: a BORROWED entry sheds and is given back, a LENT one has its grace. -/
theorem loansEndAtTheirExpiry : Obligations.LoansEndAtTheirExpiry := by
  refine fun s p => ⟨fun e he hx => ?_, fun e he => ⟨fun hg hx => congrArg Host.Outcome.next
    (lentExpired_due he hg hx), fun hg hr => ?_⟩, rfl⟩
  · obtain ⟨c, o, hby⟩ := shed_by s (committedShares s + e.amount - heldShares s)
    obtain ⟨w, hw, hgone⟩ := removeBorrowed_withdrawn he
    have hback := enqueueEntry_silent (.refl (removeBorrowed s p))
      { TxEntry.fresh (.shareBack p e.amount) with expiryRun := some 0 }
    have hall := hgone.trans hback
    exact ⟨_, _, _, c, o, hby, removeBorrowed_sheds he, rfl, rfl,
      congrArg Host.Outcome.next (borrowedExpired_due he hx), hall.loans,
      hall.motion.trans hw.motion, hall.axis.trans hw.axis, hall.lock.trans hw.lock,
      hall.compact.trans hw.compact, hall.sensor.trans hw.sensor, hall.time.trans hw.time⟩
  · have hgone : Silent (s.withShare { s.share with loans := dropLoan s.share.loans p true })
        (removeLent s p) := settlePower_silent (.refl _) s
    exact ⟨_, congrArg Host.Outcome.next (graceEnded_due he hg hr), hgone.loans, hgone.motion,
      hgone.axis, hgone.lock, hgone.compact, hgone.sensor, hgone.time⟩

end Sys2Proof.Machine
end

section
/-! PROOFS. The INRUSH, another station's and the own (R159, R176, R177). -/

namespace Sys2Proof.Machine

variable {s t v : State} {w : ATime} {z : Nat}

/-! ### An INRUSH of another station (R176, R177) -/

theorem takeInrush_void (h : z = 0 ∨ 8 < z) : takeInrush s w z = s := by
  unfold takeInrush
  refine if_pos ?_
  rcases h with h | h <;> simp [h]

theorem takeInrush_valid (hw : w.ms ≤ 999) (h1 : 1 ≤ z) (h8 : z ≤ 8) : takeInrush s w z =
    if s.share.claim = .queued then reviseInrush (takeWindow s w) else takeWindow s w := by
  unfold takeInrush
  rw [if_neg (by simp; omega)]
  exact if_congr (by simp [takeWindow]) rfl rfl

/-- The own INRUSH that waits proposes its window anew (R177). -/
def reproposed (s : State) (e : TxEntry) : TxEntry :=
  match e.started, e.frame with
  | false, .inrush _ _ => { e with frame := .inrush (inrushStart s) s.share.claimCount }
  | _, _ => e

theorem reviseInrush_eq (s : State) : reviseInrush s =
    s.withLine { s.line with queue := s.line.queue.map (reproposed s) } := by
  refine congrArg (fun q => s.withLine { s.line with queue := q })
    (List.map_congr_left fun e _ => ?_)
  obtain ⟨slot, frame, age, attempts, started, again, wanted, run⟩ := e
  cases started
  · cases frame <;> rfl
  · rfl

/-! ### The own INRUSH completes (R176, R177) -/

theorem inrushDone_ahead (h : nowMs s < effectiveStart s w) : inrushDone s w z =
    s.withShare { s.share with
      busyUntil := effectiveStart s w + 500, claim := .won (effectiveStart s w) z false } := by
  unfold inrushDone
  dsimp only
  rw [if_pos (by omega), if_neg (by omega)]
  rfl

theorem inrushDone_open (h : effectiveStart s w ≤ nowMs s)
    (h' : nowMs s < effectiveStart s w + 150) :
    inrushDone s w z = windowOpen (s.withShare { s.share with
      busyUntil := effectiveStart s w + 500, claim := .won (effectiveStart s w) z true }) z := by
  unfold inrushDone
  dsimp only
  rw [if_pos h', if_pos h]
  rfl

theorem inrushDone_late (h : effectiveStart s w + 150 ≤ nowMs s) :
    inrushDone s w z = claimFromNone (takeWindow s w) :=
  if_neg (by omega)

/-- The line after a success (R67). -/
def lineDone (s : State) (e : TxEntry) : State :=
  s.withLine { s.line with
    queue := s.line.queue.filter fun x => x.age != e.age
    sending := none, txErrors := s.line.txErrors - 1 }

theorem exec_inrushSucceeds {e : TxEntry} (he : sendingEntry s = some e)
    (hf : e.frame = .inrush w z) :
    exec .attemptSucceeds s = .next (inrushDone (lineDone s e) w z) := by
  refine congrArg Host.Outcome.next ((succeeded_of_sending he).trans ?_)
  unfold completed
  rw [hf]
  rfl

/-- Settles O59: another station's INRUSH, then the own one ahead of its window, in it and past
it. -/
theorem anInrushReservesItsWindow : Obligations.AnInrushReservesItsWindow := by
  rintro s w z _ hw rfl
  refine ⟨fun n hk => ⟨fun h => ?_, fun h1 h8 hc => ?_⟩, fun e he hf h => ?_,
    fun n hk h1 h8 hc => ?_, fun e he hf u hu => ⟨fun h h' => ⟨fun hr => ?_, fun hr hc => ?_,
      fun hr i rest hc => ?_⟩, fun h => ⟨fun hn => ?_, fun h0 hr hh k hk => ?_⟩⟩⟩
  · exact congrArg Host.Outcome.next ((takeDishFrame_known hk _).trans (takeInrush_void h))
  · exact congrArg Host.Outcome.next ((takeDishFrame_known hk _).trans
      ((takeInrush_valid hw h1 h8).trans (if_neg hc)))
  · exact (exec_inrushSucceeds he hf).trans
      (congrArg Host.Outcome.next (inrushDone_ahead (s := lineDone s e) h))
  · exact congrArg Host.Outcome.next ((takeDishFrame_known hk _).trans
      ((takeInrush_valid hw h1 h8).trans ((if_pos hc).trans (reviseInrush_eq _))))
  · rw [exec_inrushSucceeds he hf, inrushDone_open (s := lineDone s e) h h',
      windowOpen_idle (by exact hr), hu]
    rfl
  · rw [exec_inrushSucceeds he hf, inrushDone_open (s := lineDone s e) h h',
      windowOpen_ready (by exact hr), switchOne_none (by exact hc), hu]
    rfl
  · obtain ⟨c, x, hone⟩ := switchOne_claimed (s := u.withHeater { s.heater with
      admitted := z, stepRun := 0 }) hc (by rw [hu]; nofun) (by rw [hu]; nofun)
    have hexec : exec .attemptSucceeds s =
        .next (switchOne (u.withHeater { s.heater with admitted := z, stepRun := 0 })) := by
      rw [exec_inrushSucceeds he hf, inrushDone_open (s := lineDone s e) h h',
        windowOpen_ready (by exact hr), hu]
      rfl
    rw [hone] at hexec
    refine ⟨_, hexec, ?_⟩
    subst hu
    exact ⟨rfl, rfl, rfl, rfl, rfl, rfl, rfl⟩
  · rw [exec_inrushSucceeds he hf, inrushDone_late (s := lineDone s e) h,
      claimFromNone_idle (by exact hn), hu]
    rfl
  · rw [exec_inrushSucceeds he hf, inrushDone_late (s := lineDone s e) h,
      claimFromNone_queued (by exact h0) (by exact hr) (by exact hh) (by subst hu; exact hk), hu]
    rfl

end Sys2Proof.Machine
end

section
/-! PROOFS. A cell released by its hold and settle runs, and the calm notice (R24, R142, R143,
R146). -/

namespace Sys2Proof.Machine

variable {s t v : State} {c d : Nat} {x : Cell}

/-! ### Cells (R135) -/

theorem cellAt_changeCell (hc : c < s.wind.cells.length) (f : Cell → Cell) :
    cellAt (changeCell s c f) c = f (cellAt s c) := by
  simp [cellAt, changeCell, hc]

theorem Keeps.cellAt (h : Keeps s t) (d : Nat) : cellAt t d = cellAt s d := by
  unfold Machine.cellAt
  rw [h.cells]

/-! ### The calm notice (R24, R104, R146) -/

/-- The engine without its mark and its STOW entries. -/
def calmed (a : AxisUnit) : AxisUnit :=
  { a with stowMark := false, queue := a.queue.filter fun e => e.origin != .stow }

theorem axisCalmNotice_mark (s : State) : (axisCalmNotice s).axis.stowMark = false := by
  unfold axisCalmNotice
  dsimp only
  split
  · exact (tryStart_stirred _).axis.stowMark.trans (by rw [toIdle_axis]; rfl)
  · exact (tryStart_stirred _).axis.stowMark
  · rfl
  · unfold addReason
    split <;> rfl
  · rfl

theorem axisCalmNotice_stowed (hm : s.axis.motion = .stowed) (hq : s.axis.queue = []) :
    (axisCalmNotice s).axis = { calmed s.axis with
      motion := .idle, releasedAz := false, releasedEl := false } := by
  have hidle := toIdle_axis (s.withAxis { s.axis with stowMark := false })
  unfold axisCalmNotice
  rw [hm]
  dsimp only
  rw [tryStart_empty (by rw [hidle]; exact hq), if_neg (by simp [hidle]), hidle]
  simp [calmed, hq]

theorem axisCalmNotice_idle (hm : s.axis.motion = .idle) (hq : (calmed s.axis).queue = []) :
    (axisCalmNotice s).axis = calmed s.axis := by
  unfold axisCalmNotice
  rw [hm]
  dsimp only
  rw [tryStart_empty (by exact hq), if_neg (by simp [dropStow, hm])]
  rfl

theorem axisCalmNotice_halted (hm : s.axis.motion = .halted) :
    (axisCalmNotice s).axis = calmed s.axis := by
  rw [axisCalmNotice, hm]
  rfl

theorem axisCalmNotice_stopping {y : Stop} (hm : s.axis.motion = .stopping)
    (hs : s.axis.stop = some y) : (axisCalmNotice s).axis = { calmed s.axis with
      stop := some { y with
        reasons := if .calm ∈ y.reasons then y.reasons else y.reasons ++ [.calm] } } := by
  rw [axisCalmNotice, hm]
  dsimp only
  exact addReason_axis (s := (s.withAxis { s.axis with stowMark := false }).withAxis
    (dropStow { s.axis with stowMark := false })) hs _

theorem axisCalmNotice_flies
    (hm : s.axis.motion = .stowing ∨ s.axis.motion = .leg ∨ s.axis.motion = .gap) :
    (axisCalmNotice s).axis = { s.axis with stowMark := false } := by
  unfold axisCalmNotice
  rcases hm with hm | hm | hm <;> rw [hm] <;> rfl

/-- The notice but for its judgement of stow-blocked. -/
def calmedUnits (s : State) : State :=
  compactCalmNotice (axisCalmNotice (s.withWind { s.wind with ordered := false }))

theorem calmNotice_eq (s : State) : calmNotice s = judgeBlocked (calmedUnits s) := rfl

theorem calmedUnits_keeps (s : State) :
    Keeps (s.withWind { s.wind with ordered := false }) (calmedUnits s) :=
  compactCalmNotice_keeps (axisCalmNotice_keeps (.refl _))

/-- What a calm notice leaves, and the marks it takes away. -/
theorem calmNotice_effect (s : State) :
    Keeps (s.withWind { s.wind with ordered := false }) (calmNotice s) ∧
      (calmNotice s).axis = (axisCalmNotice (s.withWind { s.wind with ordered := false })).axis ∧
      (calmNotice s).compact.stowMark = false ∧ (calmNotice s).wind.blocked = false := by
  have hkeeps := calmedUnits_keeps s
  refine ⟨judgeBlocked_keeps hkeeps, judgeBlocked_axis _, ?_, ?_⟩
  · rw [calmNotice_eq, judgeBlocked_compact]
    rfl
  · rw [calmNotice_eq, judgeBlocked_blocked, hkeeps.ordered]
    rfl

theorem calmFor_order (ho : s.wind.ordered = true) (hc : obeys s c = true)
    (h : ∀ d, obeys s d = true → (cellAt s d).state = .calm) : calmFor s c = calmNotice s := by
  refine if_pos ?_
  rw [ho, hc, Bool.true_and, Bool.true_and, List.all_eq_true]
  intro d hd
  simpa using h d (List.contains_iff_mem.2 hd)

theorem calmFor_none (h : s.wind.ordered = false ∨ obeys s c = false) : calmFor s c = s := by
  refine if_neg ?_
  rcases h with h | h <;> simp [h]

theorem calmFor_cases (s : State) (c : Nat) : calmFor s c = s ∨ calmFor s c = calmNotice s := by
  unfold calmFor
  split
  · exact .inr rfl
  · exact .inl rfl

theorem calmFor_cellAt (s : State) (c d : Nat) : cellAt (calmFor s c) d = cellAt s d := by
  rcases calmFor_cases s c with h | h
  · rw [h]
  · rw [h, (calmNotice_effect s).1.cellAt]
    rfl

/-! ### The judgements of the runs (R142, R143) -/

/-- A cell in SETTLE, its settle run at 0. -/
def settled (s : State) (c : Nat) : State :=
  changeCell s c fun y => { y with state := .settle, settleStart := some (now s), settleRun := 0 }

theorem judgeLevels_stow (h : (cellAt s c).state = .stow) : judgeLevels s c =
    if holdPassed s (cellAt s c) && allCalm (cellAt s c) then settled s c else s := by
  rw [judgeLevels, h]
  rfl

theorem judgeLevels_settle (h : (cellAt s c).state = .settle) : judgeLevels s c =
    if settlePassed s (cellAt s c) && allCalm (cellAt s c) then
      calmFor (changeCell s c (cellRelease .calm)) c
    else if settlePassed s (cellAt s c) && someWatch (cellAt s c) then
      changeCell s c (cellRelease .watch)
    else s := by
  rw [judgeLevels, h]

theorem holdExpiry_due (hc : c < 8) (hx : (cellAt s c).state = .stow)
    (hg : s.seq.config.isSome = true) (hr : (cfg s).stowHold * 1000 ≤ (cellAt s c).holdRun) :
    holdExpiry s c = if allCalm (cellAt s c) then settled s c else s := by
  have hp : holdPassed s (cellAt s c) = true := by simp [holdPassed, hg, hr]
  rw [holdExpiry, if_pos (by simp [hc, hx, hp]), judgeLevels_stow hx, hp, Bool.true_and]

theorem settleExpired_due (hc : c < 8) (hx : (cellAt s c).state = .settle)
    (hg : s.seq.config.isSome = true) (hr : (cfg s).settleTime * 1000 ≤ (cellAt s c).settleRun) :
    settleExpired s c = if allCalm (cellAt s c) then calmFor (changeCell s c (cellRelease .calm)) c
      else if someWatch (cellAt s c) then changeCell s c (cellRelease .watch) else s := by
  have hp : settlePassed s (cellAt s c) = true := by simp [settlePassed, hg, hr]
  rw [settleExpired, if_pos (by simp [hc, hx, hp]), judgeLevels_settle hx, hp]
  rfl

/-- Settles O51: the hold ends in SETTLE, and the settle interval in CALM, where the last obeyed
cell gives the calm notice. -/
theorem cellsAreReleasedByTheirRuns : Obligations.CellsAreReleasedByTheirRuns := by
  rintro s c _ hc hl rfl hg
  refine ⟨fun hx hr => congrArg Host.Outcome.next (holdExpiry_due hc hx hg hr),
    fun hx hr => ⟨fun hall => ?_, fun hall => ?_⟩⟩
  · obtain ⟨u, hu⟩ : ∃ u, u = changeCell s c (cellRelease .calm) := ⟨_, rfl⟩
    have hexec : settleExpired s c = calmFor u c := by
      rw [settleExpired_due hc hx hg hr, if_pos hall, hu]
    have hcell : cellAt u c = cellRelease .calm (cellAt s c) := by
      rw [hu]
      exact cellAt_changeCell (by omega) _
    have hother : ∀ d, d ≠ c → cellAt u d = cellAt s d := fun d hd => by
      rw [hu]
      exact cellAt_changeCell_ne s hd _
    refine ⟨_, congrArg Host.Outcome.next hexec, ?_⟩
    have hsways := calmFor_sways (.refl u) c
    have hrest : u.axis = s.axis ∧ u.wind.ordered = s.wind.ordered ∧ obeys u c = obeys s c ∧
        u.time = s.time ∧ u.lock = s.lock ∧ u.seq = s.seq ∧ u.sensor = s.sensor := by
      rw [hu]
      exact ⟨rfl, rfl, rfl, rfl, rfl, rfl, rfl⟩
    obtain ⟨haxis, hordered, hobeys, htime, hlock, hseq, hsensor⟩ := hrest
    refine ⟨(calmFor_cellAt u c c).trans hcell, fun d hd => (calmFor_cellAt u c d).trans
      (hother d hd), fun ho hob hcalm => ?_, fun h => ?_, hsways.time.trans htime,
      hsways.lock.trans hlock, hsways.seq.trans hseq, hsways.sensor.trans hsensor⟩
    · have hall : ∀ d, obeys u d = true → (cellAt u d).state = .calm := fun d hd => by
        by_cases hdc : d = c
        · rw [hdc, hcell]
          rfl
        · rw [hother d hdc]
          exact hcalm d hdc (by rwa [hu] at hd)
      rw [calmFor_order (hordered.trans ho) (hobeys.trans hob) hall]
      obtain ⟨hkeeps, hcalmed, hmark, hblocked⟩ := calmNotice_effect u
      refine ⟨hkeeps.ordered, (congrArg AxisUnit.stowMark hcalmed).trans (axisCalmNotice_mark _),
        hmark, hblocked, ?_⟩
      rintro a rfl
      rw [hcalmed, ← haxis]
      generalize hv : u.withWind { u.wind with ordered := false } = v
      have hva : u.axis = v.axis := by
        rw [← hv]
        rfl
      rw [hva]
      exact ⟨axisCalmNotice_stowed, axisCalmNotice_idle, axisCalmNotice_halted,
        fun y => axisCalmNotice_stopping, axisCalmNotice_flies⟩
    · rw [calmFor_none (by rw [hordered, hobeys]; exact h)]
      exact ⟨haxis, hordered⟩
  · refine congrArg Host.Outcome.next ((settleExpired_due hc hx hg hr).trans ?_)
    rw [if_neg (by simp [hall])]
    rfl

end Sys2Proof.Machine
end

section
/-! PROOFS. A cell's record as a judgement leaves it: the orders that a judgement gives change no
cell, and each cell is judged by itself (R142 to R144). -/

namespace Sys2Proof.Machine

variable {s t v : State} {c d : Nat} {x : Cell} {o : Bool}

/-! ### Orders leave the cells -/

theorem stowOrder_keeps (s : State) :
    Keeps (s.withWind { s.wind with ordered := true }) (stowOrder s) :=
  judgeBlocked_keeps (compactStowOrder_keeps (axisStowOrder_keeps (.refl _)))

/-- What an order leaves of the state: what a judgement reads of it besides the cells. -/
structure Ruled (s t : State) : Prop where
  cells : t.wind.cells = s.wind.cells
  seq : t.seq = s.seq
  time : t.time = s.time

theorem orderFor_ruled (s : State) (c : Nat) : Ruled s (orderFor s c) := by
  unfold orderFor
  split
  · have h := stowOrder_keeps s
    exact ⟨h.cells, h.seq, h.time⟩
  · exact ⟨rfl, rfl, rfl⟩

theorem calmFor_ruled (s : State) (c : Nat) : Ruled s (calmFor s c) := by
  rcases calmFor_cases s c with h | h
  · rw [h]
    exact ⟨rfl, rfl, rfl⟩
  · have hk := (calmNotice_effect s).1
    rw [h]
    exact ⟨hk.cells, hk.seq, hk.time⟩

/-! ### The judgements of one cell, as functions of its record -/

/-- A cell's record after R144, and the hold run held at 0 without a working entry (R142). -/
def noSensorCell (s : State) (c : Nat) (x : Cell) : Cell :=
  if (workingEntries x).isEmpty then
    if obeys s c && givesOrders s then cellStow .noSensor { x with holdRun := 0 }
    else { x with holdRun := 0 }
  else x

/-- A cell's record after R142 and R143. -/
def levelsCell (s : State) (x : Cell) : Cell :=
  match x.state with
  | .stow =>
    if holdPassed s x && allCalm x then
      { x with state := .settle, settleStart := some (now s), settleRun := 0 }
    else x
  | .settle =>
    if settlePassed s x && allCalm x then cellRelease .calm x
    else if settlePassed s x && someWatch x then cellRelease .watch x
    else x
  | .watch => if allCalm x then cellRelease .calm x else x
  | .calm => x

/-- A cell's record after its judgement. -/
def judgedCell (s : State) (c : Nat) (x : Cell) : Cell := levelsCell s (noSensorCell s c x)

theorem levelsCell_congr (hs : t.seq = s.seq) (ht : t.time = s.time) (x : Cell) :
    levelsCell t x = levelsCell s x := by
  unfold levelsCell holdPassed settlePassed now cfg
  rw [hs, ht]

theorem judgedCell_congr (hs : t.seq = s.seq) (ht : t.time = s.time) (c : Nat) (x : Cell) :
    judgedCell t c x = judgedCell s c x := by
  have hno : noSensorCell t c x = noSensorCell s c x := by
    unfold noSensorCell obeys obeyed givesOrders isReady isClash
    rw [hs]
  rw [judgedCell, levelsCell_congr hs ht, hno]
  rfl

theorem noSensorCell_roster (s : State) (c : Nat) (x : Cell) :
    (noSensorCell s c x).roster = x.roster := by
  unfold noSensorCell
  split
  · split <;> rfl
  · rfl

theorem levelsCell_roster (s : State) (x : Cell) : (levelsCell s x).roster = x.roster := by
  unfold levelsCell
  split
  · split <;> rfl
  · split
    · rfl
    · split <;> rfl
  · split <;> rfl
  · rfl

theorem judgedCell_roster (s : State) (c : Nat) (x : Cell) :
    (judgedCell s c x).roster = x.roster :=
  (levelsCell_roster _ _).trans (noSensorCell_roster _ _ _)

/-! ### The model's judgement is that function (R142 to R144) -/

/-- A judgement of cell `c` by `f`: its record changes by `f`, and no other cell's. -/
structure Judges (s t : State) (c : Nat) (f : Cell → Cell) : Prop where
  cell : c < s.wind.cells.length → cellAt t c = f (cellAt s c)
  others : ∀ d, d ≠ c → cellAt t d = cellAt s d
  length : t.wind.cells.length = s.wind.cells.length
  seq : t.seq = s.seq
  time : t.time = s.time

theorem Judges.refl (s : State) (c : Nat) : Judges s s c fun x => x :=
  ⟨fun _ => rfl, fun _ _ => rfl, rfl, rfl, rfl⟩

theorem Judges.changeCell (s : State) (c : Nat) (f : Cell → Cell) :
    Judges s (changeCell s c f) c f :=
  ⟨fun h => cellAt_changeCell h f, fun _ h => cellAt_changeCell_ne s h f, by
    simp [Machine.changeCell], rfl, rfl⟩

theorem Judges.trans {f g : Cell → Cell} (h : Judges s t c f) (k : Judges t v c g) :
    Judges s v c (g ∘ f) :=
  ⟨fun hc => by rw [k.cell (h.length ▸ hc), h.cell hc]; rfl,
    fun d hd => (k.others d hd).trans (h.others d hd), k.length.trans h.length,
    k.seq.trans h.seq, k.time.trans h.time⟩

theorem Judges.ruled {f : Cell → Cell} (h : Judges s t c f) (k : Ruled t v) : Judges s v c f := by
  have hcell : ∀ d, cellAt v d = cellAt t d := fun d => by
    unfold cellAt
    rw [k.cells]
  exact ⟨fun hc => (hcell c).trans (h.cell hc), fun d hd => (hcell d).trans (h.others d hd),
    (congrArg List.length k.cells).trans h.length, k.seq.trans h.seq, k.time.trans h.time⟩

/-- Two functions that agree on the cell's record say the same of it. -/
theorem Judges.congr {f g : Cell → Cell} (h : Judges s t c f)
    (hfg : f (cellAt s c) = g (cellAt s c)) : Judges s t c g :=
  ⟨fun hc => (h.cell hc).trans hfg, h.others, h.length, h.seq, h.time⟩

theorem judgeNoSensor_judges (o : Bool) (s : State) (c : Nat) :
    Judges s (judgeNoSensor o s c) c (noSensorCell s c) := by
  have hrun := Judges.changeCell s c fun x => { x with holdRun := 0 }
  have hstow := hrun.trans (.changeCell _ c (cellStow .noSensor))
  unfold judgeNoSensor
  dsimp only
  split
  case isTrue hw =>
    split
    case isTrue hg =>
      have heq : cellStow .noSensor { cellAt s c with holdRun := 0 } =
          noSensorCell s c (cellAt s c) := by
        rw [noSensorCell, if_pos hw, if_pos hg]
      split
      · exact hstow.congr heq
      · split
        · exact (hstow.ruled (orderFor_ruled _ c)).congr heq
        · exact hstow.congr heq
    case isFalse hg =>
      exact hrun.congr (by rw [noSensorCell, if_pos hw, if_neg hg])
  case isFalse hw =>
    exact (Judges.refl s c).congr (by rw [noSensorCell, if_neg hw])

theorem judgeLevels_judges (s : State) (c : Nat) :
    Judges s (judgeLevels s c) c (levelsCell s) := by
  have hcalm := (Judges.changeCell s c (cellRelease .calm)).ruled (calmFor_ruled _ c)
  unfold judgeLevels
  dsimp only
  split
  case h_1 hx =>
    split
    case isTrue h =>
      exact (Judges.changeCell s c _).congr (by simp only [levelsCell, hx, if_pos h])
    case isFalse h => exact (Judges.refl s c).congr (by simp only [levelsCell, hx, if_neg h])
  case h_2 hx =>
    split
    case isTrue h => exact hcalm.congr (by simp only [levelsCell, hx, if_pos h])
    case isFalse h =>
      split
      case isTrue h' =>
        exact (Judges.changeCell s c _).congr (by simp only [levelsCell, hx, if_neg h, if_pos h'])
      case isFalse h' =>
        exact (Judges.refl s c).congr (by simp only [levelsCell, hx, if_neg h, if_neg h'])
  case h_3 hx =>
    split
    case isTrue h => exact hcalm.congr (by simp only [levelsCell, hx, if_pos h])
    case isFalse h => exact (Judges.refl s c).congr (by simp only [levelsCell, hx, if_neg h])
  case h_4 hx => exact (Judges.refl s c).congr (by simp only [levelsCell, hx])

theorem judgeCell_judges (o : Bool) (s : State) (c : Nat) :
    Judges s (judgeCell o s c) c (judgedCell s c) := by
  have hno := judgeNoSensor_judges o s c
  have hlev := hno.trans (judgeLevels_judges _ c)
  exact hlev.congr (levelsCell_congr hno.seq hno.time _)

/-- The judgements of other cells leave a cell. -/
theorem foldl_judgeCell_others (l : List Nat) (hc : c ∉ l) (s : State) :
    cellAt (l.foldl (judgeCell o) s) c = cellAt s c ∧
      (l.foldl (judgeCell o) s).wind.cells.length = s.wind.cells.length ∧
      (l.foldl (judgeCell o) s).seq = s.seq ∧ (l.foldl (judgeCell o) s).time = s.time := by
  induction l generalizing s with
  | nil => exact ⟨rfl, rfl, rfl, rfl⟩
  | cons d l ih =>
    obtain ⟨hne, hl⟩ := not_or.1 (mt List.mem_cons.2 hc)
    obtain ⟨hcell, hlen, hseq, htime⟩ := ih hl (judgeCell o s d)
    have hj := judgeCell_judges o s d
    exact ⟨hcell.trans (hj.others c hne), hlen.trans hj.length, hseq.trans hj.seq,
      htime.trans hj.time⟩

/-- The order in which the cells are judged, about one of them. -/
theorem range_split (hc : c < 8) : ∃ l m, List.range 8 = l ++ c :: m ∧ c ∉ l ∧ c ∉ m := by
  obtain ⟨l, m, h⟩ := List.append_of_mem (List.mem_range.2 hc)
  have hnodup : (l ++ c :: m).Nodup := h ▸ List.nodup_range
  obtain ⟨-, hm, hdisj⟩ := List.nodup_append.1 hnodup
  exact ⟨l, m, h, fun hcl => hdisj c hcl c (List.mem_cons_self ..) rfl, (List.nodup_cons.1 hm).1⟩

/-- A cell's record after the judgement of all cells. -/
theorem cellAt_judgeCells (hc : c < 8) (hl : c < s.wind.cells.length) :
    cellAt (judgeCells s o) c = judgedCell s c (cellAt s c) := by
  obtain ⟨l, m, hrange, hcl, hcm⟩ := range_split hc
  obtain ⟨hcell, hlen, hseq, htime⟩ := foldl_judgeCell_others (o := o) l hcl s
  rw [judgeCells, hrange, List.foldl_append, List.foldl_cons,
    (foldl_judgeCell_others m hcm _).1, (judgeCell_judges o _ c).cell (by omega), hcell,
    judgedCell_congr hseq htime]

end Sys2Proof.Machine
end

section
/-! PROOFS. A stow order in force: once given it changes nothing when given again, no calm notice
follows while an obeyed cell is not CALM, and a compact flown has been left (R21, R111, R145). -/

namespace Sys2Proof.Machine

variable {s t v : State} {c d : Nat} {o : Bool}

/-! ### The records flown after a leave -/

/-- The ids of the records that the station flies (R111). -/
def flownIds (s : State) : List Nat := (ownFlying s).map (·.id)

theorem mem_flownIds {id : Nat} : id ∈ flownIds s ↔ ∃ r ∈ s.compact.list, r.id = id ∧
    isFlying r = true ∧ memberState r s.seq.number = some .accepted := by
  simp only [flownIds, ownFlying, List.mem_map, List.mem_filter, Bool.and_eq_true, beq_iff_eq]
  exact ⟨fun ⟨r, ⟨hr, hf, hm⟩, hid⟩ => ⟨r, hr, hid, hf, hm⟩,
    fun ⟨r, hr, hid, hf, hm⟩ => ⟨r, ⟨hr, hf, hm⟩, hid⟩⟩

/-- No further record is flown, and the own number is as it was. -/
structure Fewer (s t : State) : Prop where
  number : t.seq = s.seq
  subset : flownIds t ⊆ flownIds s

theorem Fewer.refl (s : State) : Fewer s s := ⟨rfl, fun _ h => h⟩

theorem Fewer.trans (h : Fewer s t) (k : Fewer t v) : Fewer s v :=
  ⟨k.number.trans h.number, fun _ hx => h.subset (k.subset hx)⟩

theorem Fewer.of_eq (hc : t.compact = s.compact) (hs : t.seq = s.seq) : Fewer s t :=
  ⟨hs, fun _ h => by
    unfold flownIds at h ⊢
    rwa [ownFlying_congr hc hs] at h⟩

/-- A change of a record that has it flown no more than before. -/
theorem changeRecord_fewer (s : State) (id : Nat) {f : CompactRecord → CompactRecord}
    (hid : ∀ x, (f x).id = x.id)
    (hf : ∀ x, isFlying (f x) = true → memberState (f x) s.seq.number = some .accepted →
      isFlying x = true ∧ memberState x s.seq.number = some .accepted) :
    Fewer s (changeRecord s id f) := by
  refine ⟨rfl, fun k hk => ?_⟩
  obtain ⟨r, hr, hrk, hfly, hmem⟩ := mem_flownIds.1 hk
  obtain ⟨x, hx, hxr⟩ := List.mem_map.1 (show r ∈ s.compact.list.map _ from hr)
  split at hxr
  · subst hxr
    obtain ⟨hfly', hmem'⟩ := hf x hfly hmem
    exact mem_flownIds.2 ⟨x, hx, (hid x).symm.trans hrk, hfly', hmem'⟩
  · subst hxr
    exact mem_flownIds.2 ⟨x, hx, hrk, hfly, hmem⟩

theorem makeTerminal_fewer (s : State) (r : CompactRecord) {st : CompactState}
    (hm : st ≠ .moving) (hh : st ≠ .held) : Fewer s (makeTerminal s r st) := by
  have hend : Fewer s (changeRecord s r.id (ended s st)) :=
    changeRecord_fewer s r.id (ended_id s st) fun x hx => by
      have hst : (st == .moving || st == .held) = true := hx
      simp [hm, hh] at hst
  cases hd : terminalDetail st with
  | none =>
    unfold makeTerminal
    rw [hd]
    exact hend
  | some d =>
    have hquiet := setFlag_quiet (.refl (changeRecord s r.id (ended s st))) flagCompactFailed d r.id
    have hfail : Fewer s (failedWith s r st d) :=
      hend.trans (.of_eq hquiet.compact hquiet.seq)
    rw [makeTerminal_failed hd]
    split
    · have hrecs := axisWithdraw_recs (.refl (failedWith s r st d)) r.id
      exact hfail.trans (.of_eq (axisWithdraw_compact _ _) hrecs.seq)
    · exact hfail

theorem completionTest_fewer (s : State) (id : Nat) : Fewer s (completionTest s id) := by
  unfold completionTest
  split
  · split
    · split
      · exact makeTerminal_fewer s _ nofun nofun
      · split
        · exact makeTerminal_fewer s _ nofun nofun
        · exact .refl s
    · exact .refl s
  · exact .refl s

theorem afterLeft_fewer (s : State) (id : Nat) : Fewer s (afterLeft s id) := by
  unfold afterLeft
  split
  · split
    · split
      · exact completionTest_fewer s _
      · exact makeTerminal_fewer s _ nofun nofun
    · exact .refl s
  · exact .refl s

/-- The state of a member that was set is none other. -/
theorem memberState_setMember_eq {r : CompactRecord} {k : Nat} {a b : MemberState}
    (h : memberState (setMember r k a) k = some b) : b = a := by
  obtain ⟨e, he, rfl⟩ := Option.map_eq_some_iff.1 h
  obtain ⟨x, -, rfl⟩ := List.mem_map.1 (List.mem_of_find?_eq_some he)
  have hk := List.find?_some he
  split at hk
  · rw [if_pos ‹_›]
  · exact absurd hk ‹_›

/-- A record left is flown no more. -/
theorem ownLeave_flown (s : State) (r : CompactRecord) (reason : Nat) :
    (ownLeave s r reason).seq = s.seq ∧
      flownIds (ownLeave s r reason) ⊆ (flownIds s).filter (· != r.id) := by
  have hset : flownIds (withMember s r.id s.seq.number (.left reason)) ⊆
      (flownIds s).filter (· != r.id) := fun k hk => by
    obtain ⟨y, hy, rfl, hfly, hmem⟩ := mem_flownIds.1 hk
    obtain ⟨x, hx, hxy⟩ := List.mem_map.1 (show y ∈ s.compact.list.map _ from hy)
    split at hxy
    · subst hxy
      cases memberState_setMember_eq hmem
    · subst hxy
      have hne : (x.id != r.id) = true := by simpa using ‹¬(x.id == r.id) = true›
      exact List.mem_filter.2 ⟨mem_flownIds.2 ⟨x, hx, rfl, hfly, hmem⟩, hne⟩
  have hq := queueLeave_silent (withMember s r.id s.seq.number (.left reason)) r reason
  have hflag := setFlag_quiet (.refl (queueLeave (withMember s r.id s.seq.number (.left reason))
    r reason)) flagCompactFailed reason r.id
  have hrest : Fewer (withMember s r.id s.seq.number (.left reason)) (ownLeave s r reason) :=
    ((Fewer.of_eq hq.compact hq.seq).trans (.of_eq hflag.compact hflag.seq)).trans
      (afterLeft_fewer _ _)
  exact ⟨hrest.number, fun k hk => hset (hrest.subset hk)⟩

theorem foldl_ownLeave_flown (l : List CompactRecord) (reason : Nat) : ∀ s : State,
    flownIds (l.foldl (fun t r => ownLeave t r reason) s) ⊆
      (flownIds s).filter fun k => l.all fun r => k != r.id := by
  induction l with
  | nil => intro s; simp
  | cons r l ih =>
    intro s k hk
    obtain ⟨hmem, hall⟩ := List.mem_filter.1 (ih (ownLeave s r reason) hk)
    obtain ⟨hmem', hne⟩ := List.mem_filter.1 ((ownLeave_flown s r reason).2 hmem)
    exact List.mem_filter.2 ⟨hmem', by rw [List.all_cons, hne, hall]; rfl⟩

/-- Once every compact it flies is left, the station flies none (R111). -/
theorem ownFlying_leaveAll (s : State) (reason : Nat) : ownFlying (leaveAll s reason) = [] := by
  refine (List.map_eq_nil_iff (f := (·.id))).1
    (List.eq_nil_iff_forall_not_mem.2 fun k hk => ?_)
  obtain ⟨hmem, hall⟩ := List.mem_filter.1 (foldl_ownLeave_flown (ownFlying s) reason s hk)
  obtain ⟨r, hr, rfl⟩ := List.mem_map.1 hmem
  simpa using List.all_eq_true.1 hall r hr

/-! ### A stow order in force (R21, R145) -/

/-- A stow order has been given and taken: the marks stand, no compact is flown, and stow-blocked is
as judged. -/
structure InStow (s : State) : Prop where
  ordered : s.wind.ordered = true
  axisMark : s.axis.stowMark = true
  compactMark : s.compact.stowMark = true
  grounded : ownFlying s = []
  blocked : s.wind.blocked = (s.wind.ordered && (blockCause s (lockMask s)).isSome)

theorem judgeBlocked_again
    (h : s.wind.blocked = (s.wind.ordered && (blockCause s (lockMask s)).isSome)) :
    judgeBlocked s = s := by
  unfold judgeBlocked
  split
  · rename_i ho hc
    rw [if_pos (by rw [h, ho, hc]; rfl)]
  · rename_i hno
    refine if_neg fun hb => ?_
    rw [hb] at h
    obtain ⟨ho, hc⟩ := Bool.and_eq_true_iff.1 h.symm
    obtain ⟨k, hk⟩ := Option.isSome_iff_exists.1 hc
    exact hno k ho hk

/-- Stow-blocked is as judged after its judgement. -/
theorem judgeBlocked_judged (s : State) : (judgeBlocked s).wind.blocked =
    ((judgeBlocked s).wind.ordered &&
      (blockCause (judgeBlocked s) (lockMask (judgeBlocked s))).isSome) := by
  have hk := judgeBlocked_keeps (.refl s)
  rw [judgeBlocked_blocked, hk.ordered]
  unfold blockCause lockMask
  rw [judgeBlocked_axis, hk.lock]

theorem axisStowOrder_mark (s : State) : (axisStowOrder s).axis.stowMark = true := by
  unfold axisStowOrder
  split
  · rfl
  · dsimp only
    have hgone := noticeRemoved_recs (.refl (s.withAxis { s.axis with
      stowMark := true, queue := [stowEntry s], jointHeld := false
      withdrawPending := false })) s.axis.queue reasonStow
    generalize noticeRemoved _ s.axis.queue reasonStow = v at hgone ⊢
    have hv : v.axis.stowMark = true := hgone.axis.stowMark
    split
    · exact (tryStart_stirred v).axis.stowMark.trans hv
    · split
      · exact (congrArg AxisUnit.stowMark (toIdle_axis v)).trans hv
      · split
        · exact (startStow_stirred v _).axis.stowMark.trans hv
        · exact hv
    · exact (beginStop_stirred v _).axis.stowMark.trans hv
    · unfold addReason
      split <;> exact hv
    · exact hv

/-- The units' parts of a stow order, before the judgement of stow-blocked. -/
def stowedUnits (s : State) : State :=
  compactStowOrder (axisStowOrder (s.withWind { s.wind with ordered := true }))

theorem stowOrder_eq (s : State) : stowOrder s = judgeBlocked (stowedUnits s) := rfl

theorem stowOrder_inStow (s : State) : InStow (stowOrder s) := by
  have hk := stowOrder_keeps s
  obtain ⟨u, hu⟩ : ∃ u, u = axisStowOrder (s.withWind { s.wind with ordered := true }) := ⟨_, rfl⟩
  have hmark : u.axis.stowMark = true := hu ▸ axisStowOrder_mark _
  have hrecs := leaveAll_recs (.refl (u.withCompact { u.compact with stowMark := true })) reasonStow
  have hstowed : stowOrder s = judgeBlocked (leaveAll (u.withCompact
      { u.compact with stowMark := true }) reasonStow) := by rw [hu]; rfl
  have hnone := ownFlying_leaveAll (u.withCompact { u.compact with stowMark := true }) reasonStow
  generalize leaveAll (u.withCompact { u.compact with stowMark := true }) reasonStow = w at *
  refine ⟨hk.ordered, ?_, ?_, ?_, hstowed ▸ judgeBlocked_judged w⟩
  · rw [hstowed, judgeBlocked_axis]
    exact hrecs.axis.stowMark.trans hmark
  · rw [hstowed, judgeBlocked_compact]
    exact hrecs.stowMark
  · rw [hstowed, ownFlying_congr (judgeBlocked_compact w) (judgeBlocked_keeps (.refl w)).seq]
    exact hnone

/-- A stow order in force, given again, changes nothing. -/
theorem InStow.stowOrder (h : InStow s) : stowOrder s = s := by
  obtain ⟨hordered, haxis, hcompact, hnone, hblocked⟩ := h
  have hwind : s.withWind { s.wind with ordered := true } = s := by
    rw [← hordered]
    rfl
  have hengine : axisStowOrder s = s := by
    rw [axisStowOrder, if_pos (by simp [haxis]), ← haxis]
    rfl
  have hmark : s.withCompact { s.compact with stowMark := true } = s := by
    rw [← hcompact]
    rfl
  rw [Machine.stowOrder, hwind, hengine, compactStowOrder, hmark, leaveAll_none hnone,
    judgeBlocked_again hblocked]

theorem InStow.withCells (h : InStow s) (cells : List Cell) :
    InStow (s.withWind { s.wind with cells := cells }) :=
  ⟨h.ordered, h.axisMark, h.compactMark, h.grounded, h.blocked⟩

/-- Only the cells are judged further, and an obeyed cell is not CALM. -/
structure CellsJudged (s t : State) : Prop where
  only : t = s.withWind { s.wind with cells := t.wind.cells }
  inStow : InStow s → InStow t

theorem CellsJudged.refl (s : State) : CellsJudged s s := ⟨rfl, fun h => h⟩

theorem CellsJudged.trans (h : CellsJudged s t) (k : CellsJudged t v) : CellsJudged s v :=
  ⟨k.only.trans (by rw [h.only]; rfl), fun hs => k.inStow (h.inStow hs)⟩

theorem changeCell_judged (s : State) (c : Nat) (f : Cell → Cell) :
    CellsJudged s (changeCell s c f) := ⟨rfl, fun h => h.withCells _⟩

theorem orderFor_judged (h : InStow s) (c : Nat) : CellsJudged s (orderFor s c) := by
  unfold orderFor
  rw [h.stowOrder, ite_self]
  exact .refl s

theorem calmFor_judged (hc : obeys s c = true) (hx : (cellAt s c).state ≠ .calm) (d : Nat) :
    CellsJudged s (calmFor s d) := by
  have hnot : ((obeyed s).all fun e => (cellAt s e).state == .calm) = false := by
    refine List.all_eq_false.2 ⟨c, by simpa [obeys] using hc, by simpa using hx⟩
  unfold calmFor
  rw [hnot, Bool.and_false]
  exact .refl s

/-- With a stow order in force and an obeyed cell not CALM, the judgement of another cell changes
cells alone. -/
theorem judgeCell_judged (h : InStow s) (hc : obeys s c = true)
    (hx : (cellAt s c).state ≠ .calm) (hd : d ≠ c) : CellsJudged s (judgeCell o s d) := by
  have hno : CellsJudged s (judgeNoSensor o s d) := by
    have hrun := changeCell_judged s d fun x => { x with holdRun := 0 }
    have hstow := hrun.trans (changeCell_judged _ d (cellStow .noSensor))
    unfold judgeNoSensor
    dsimp only
    split
    · split
      · split
        · exact hstow
        · split
          · exact hstow.trans (orderFor_judged (hstow.inStow h) d)
          · exact hstow
      · exact hrun
    · exact .refl s
  have hcell : (cellAt (judgeNoSensor o s d) c).state ≠ .calm := by
    rw [(judgeNoSensor_judges o s d).others c hd.symm]
    exact hx
  have hobeys : obeys (judgeNoSensor o s d) c = true := by rw [hno.only]; exact hc
  refine hno.trans (show CellsJudged _ (judgeLevels (judgeNoSensor o s d) d) from ?_)
  generalize judgeNoSensor o s d = u at hcell hobeys ⊢
  have hcalm : CellsJudged u (calmFor (changeCell u d (cellRelease .calm)) d) :=
    (changeCell_judged u d (cellRelease .calm)).trans
      (calmFor_judged (s := changeCell u d (cellRelease .calm)) (c := c) hobeys
        (by rw [cellAt_changeCell_ne u hd.symm]; exact hcell) d)
  unfold judgeLevels
  dsimp only
  split
  · split
    · exact changeCell_judged u d _
    · exact .refl u
  · split
    · exact hcalm
    · split
      · exact changeCell_judged u d _
      · exact .refl u
  · split
    · exact hcalm
    · exact .refl u
  · exact .refl u

theorem foldl_judgeCell_judged (l : List Nat) (hl : c ∉ l) : ∀ {s : State}, InStow s →
    obeys s c = true → (cellAt s c).state ≠ .calm →
    CellsJudged s (l.foldl (judgeCell o) s) := by
  induction l with
  | nil => exact fun _ _ _ => .refl _
  | cons d l ih =>
    intro s h hc hx
    obtain ⟨hne, hl'⟩ := not_or.1 (mt List.mem_cons.2 hl)
    have hd := judgeCell_judged (o := o) h hc hx (Ne.symm hne)
    refine hd.trans (ih hl' (hd.inStow h) (by rw [hd.only]; exact hc) ?_)
    rw [(judgeCell_judges o s d).others c hne]
    exact hx

/-- The judgement of a cell in STOW gives no order. -/
theorem judgeCell_judged_stow (hc : c < s.wind.cells.length) (hx : (cellAt s c).state = .stow) :
    CellsJudged s (judgeCell o s c) := by
  have hno : CellsJudged s (judgeNoSensor o s c) := by
    have hrun := changeCell_judged s c fun x => { x with holdRun := 0 }
    unfold judgeNoSensor
    dsimp only
    split
    · split
      · rw [if_pos (by simp [hx])]
        exact hrun.trans (changeCell_judged _ c (cellStow .noSensor))
      · exact hrun
    · exact .refl s
  have hstow : (cellAt (judgeNoSensor o s c) c).state = .stow := by
    rw [(judgeNoSensor_judges o s c).cell hc]
    unfold noSensorCell
    split
    · split
      · rfl
      · exact hx
    · exact hx
  refine hno.trans (show CellsJudged _ (judgeLevels (judgeNoSensor o s c) c) from ?_)
  rw [judgeLevels_stow hstow]
  split
  · exact changeCell_judged _ c _
  · exact .refl _

/-- A cell in STOW is not CALM after its judgement. -/
theorem judgedCell_stow_ne {x : Cell} (hx : x.state = .stow) :
    (judgedCell s c x).state ≠ .calm := by
  have hstow : (noSensorCell s c x).state = .stow := by
    unfold noSensorCell
    split
    · split
      · rfl
      · exact hx
    · exact hx
  unfold judgedCell levelsCell
  rw [hstow]
  dsimp only
  split
  · exact nofun
  · rw [hstow]
    exact nofun

/-- With a stow order in force and an obeyed cell in STOW, the judgement of the cells changes cells
alone. -/
theorem judgeCells_judged (h : InStow s) (hc8 : c < 8) (hc : obeys s c = true)
    (hx : (cellAt s c).state = .stow) (hl : s.wind.cells.length = 8) :
    CellsJudged s (judgeCells s o) := by
  obtain ⟨l, m, hrange, hcl, hcm⟩ := range_split hc8
  have hfirst := foldl_judgeCell_judged (o := o) l hcl h hc (by rw [hx]; exact nofun)
  obtain ⟨hcell, hlen, -, -⟩ := foldl_judgeCell_others (o := o) l hcl s
  rw [judgeCells, hrange, List.foldl_append, List.foldl_cons]
  have hobeys : obeys (l.foldl (judgeCell o) s) c = true := by rw [hfirst.only]; exact hc
  have hin := hfirst.inStow h
  generalize l.foldl (judgeCell o) s = u at *
  have hu : (cellAt u c).state = .stow := by rw [hcell, hx]
  have hself := judgeCell_judged_stow (o := o) (s := u) (c := c) (by omega) hu
  have hafter : (cellAt (judgeCell o u c) c).state ≠ .calm := by
    rw [(judgeCell_judges o u c).cell (by omega)]
    exact judgedCell_stow_ne hu
  exact (hfirst.trans hself).trans (foldl_judgeCell_judged m hcm (hself.inStow hin)
    (by rw [hself.only]; exact hobeys) hafter)

end Sys2Proof.Machine
end

section
/-! PROOFS. The stow order as the engine takes it, and the compact it has the station leave (R21,
R22, R111). -/

namespace Sys2Proof.Machine

variable {s t u v : State} {r : CompactRecord} {m n : Nat}

/-! ### The entries that leave the queue (R5, R21) -/

/-- The engine with the STOW entry alone and the mark of the order (R21). -/
def stowWaits (s : State) : AxisUnit :=
  { s.axis with
    stowMark := true, queue := [stowEntry s], jointHeld := false, withdrawPending := false }

/-- The state once the entries that a stow order removes have left the queue (R21). -/
def stowTaken (s : State) : State :=
  noticeRemoved (s.withAxis (stowWaits s)) s.axis.queue reasonStow

theorem stowWaits_noJoint (s : State) : NoJoint (stowWaits s) := fun e he => by
  rw [List.mem_singleton.1 he]
  exact nofun

theorem stowTaken_axis (s : State) : (stowTaken s).axis = stowWaits s :=
  (noticeRemoved_worked (s.withAxis (stowWaits s)) _ _).axis (stowWaits_noJoint s)

theorem stowTaken_recs (s : State) : Recs (s.withAxis (stowWaits s)) (stowTaken s) :=
  noticeRemoved_recs (.refl _) _ _

theorem axisStowOrder_eq (hm : s.axis.stowMark = false) (h : s.axis.motion ≠ .stowing)
    (h' : s.axis.motion ≠ .stowed) : axisStowOrder s = match s.axis.motion with
      | .idle => tryStart (stowTaken s)
      | .gap =>
        if stowBlocked (stowTaken s) || !isReady (stowTaken s) then toIdle (stowTaken s)
        else match (stowTaken s).axis.queue with
          | e :: _ => startStow (stowTaken s) e
          | [] => stowTaken s
      | .leg => beginStop (stowTaken s) .stow
      | .stopping => addReason (stowTaken s) .stow
      | _ => stowTaken s := by
  rw [axisStowOrder, if_neg (by simp [hm, h, h'])]
  rfl

/-! ### The STOW entry at the head (R22) -/

/-- A STOW entry at the head that nothing blocks starts its leg. -/
theorem tryStart_stow {e : MoveEntry} {rest : List MoveEntry} (hq : s.axis.queue = e :: rest)
    (ho : e.origin = .stow) (hm : s.axis.stowMark = true) : tryStart s =
      if legMayStart s = true ∧ stowBlocked s = false then startStow s e else s := by
  rw [tryStart, tryStartN]
  by_cases hl : legMayStart s = true
  · rw [if_pos hl, hq]
    dsimp only
    rw [if_pos (by simp [ho])]
    by_cases hb : stowBlocked s = true
    · rw [if_pos hb, if_neg (by simp [hb])]
    · have hb' : stowBlocked s = false := by simpa using hb
      rw [if_neg hb, if_pos hm, if_pos ⟨hl, hb'⟩]
  · rw [if_neg hl, if_neg fun h => hl h.1]

/-- The stow of a dish that stands high enough already (R22). -/
theorem startStow_up (ha : t.axis = stowWaits s) (hr : s.axis.refEl = true)
    (h : (stowEntry s).el ≤ s.axis.posEl) : (startStow t (stowEntry s)).axis =
      { stowWaits s with
        queue := [], motion := .stowed, releasedAz := false, releasedEl := false } := by
  rw [startStow_stowed (by rw [ha]; exact hr) (by rw [ha]; exact h), becomeStowed_axis, ha]
  rfl

/-- The stow of a dish that has to rise (R22). -/
theorem startStow_rises (ha : t.axis = stowWaits s) (hs : t.seq = s.seq) (ht : t.time = s.time)
    (hr : s.axis.refEl = true) (h : s.axis.posEl + (cfg s).tolerance < (cfg s).stowEl) :
    (startStow t (stowEntry s)).axis = { stowWaits s with
      queue := [{ stowEntry s with plan := some ⟨s.axis.posAz, s.axis.posEl, 1, 1⟩ }]
      motion := .stowing, leg := some (stowLeg s (stowEntry s)), gapRun := 0
      releasedAz := false, releasedEl := true } := by
  have hcfg : cfg t = cfg s := by
    unfold cfg
    rw [hs]
  have hleg : stowLeg t (stowEntry s) = stowLeg s (stowEntry s) := by
    simp only [stowLeg, stowEstimate, now, hcfg, ha, ht]
    rfl
  rw [startStow_flies (by rw [ha]; exact hr) (by rw [ha, hcfg]; exact h),
    flyStow_axis (by rw [ha]; rfl), hleg, ha]
  rfl

/-! ### The order by the engine's state (R21, R22) -/

section Engine

variable (hm : s.axis.stowMark = false) (hr : s.seq.station = .ready)

include hm in
theorem axisStowOrder_leg (h : s.axis.motion = .leg) : (axisStowOrder s).axis =
    { stopping (stowWaits s) .stow with queue := [stowEntry s] } := by
  rw [axisStowOrder_eq hm (by simp [h]) (by simp [h]), h]
  exact (beginStop_axis _ _).trans (by rw [stowTaken_axis]; rfl)

include hm in
theorem axisStowOrder_stopping {x : Stop} (h : s.axis.motion = .stopping)
    (hx : s.axis.stop = some x) : (axisStowOrder s).axis = { stowWaits s with
      stop := some { x with
        reasons := if .stow ∈ x.reasons then x.reasons else x.reasons ++ [.stow] } } := by
  rw [axisStowOrder_eq hm (by simp [h]) (by simp [h]), h]
  exact (addReason_axis (by rw [stowTaken_axis]; exact hx) _).trans (by rw [stowTaken_axis])

include hm in
theorem axisStowOrder_halted (h : s.axis.motion = .halted) :
    (axisStowOrder s).axis = stowWaits s := by
  rw [axisStowOrder_eq hm (by simp [h]) (by simp [h]), h]
  exact stowTaken_axis s

theorem stowTaken_blocked (h : s.axis.motion ≠ .halted) :
    stowBlocked (stowTaken s) = stowBlocked s :=
  stowBlocked_congr (stowTaken_recs s).lock (by rw [stowTaken_axis]; rfl)
    (by rw [stowTaken_axis]; rfl) h (by rw [stowTaken_axis]; exact h)

theorem stowTaken_queue (s : State) : (stowTaken s).axis.queue = [stowEntry s] := by
  rw [stowTaken_axis]
  rfl

include hm in
theorem axisStowOrder_idle_blocked (h : s.axis.motion = .idle) (hb : stowBlocked s = true) :
    (axisStowOrder s).axis = stowWaits s := by
  rw [axisStowOrder_eq hm (by simp [h]) (by simp [h]), h]
  dsimp only
  rw [tryStart_stow (stowTaken_queue s) rfl (by rw [stowTaken_axis]; rfl),
    stowTaken_blocked (by simp [h]), if_neg (by simp [hb]), stowTaken_axis]

include hm in
theorem axisStowOrder_gap_blocked (h : s.axis.motion = .gap) (hb : stowBlocked s = true) :
    (axisStowOrder s).axis = { stowWaits s with
      motion := .idle, releasedAz := false, releasedEl := false } := by
  rw [axisStowOrder_eq hm (by simp [h]) (by simp [h]), h]
  dsimp only
  rw [stowTaken_blocked (by simp [h]), if_pos (by simp [hb]), toIdle_axis, stowTaken_axis]

include hm hr in
theorem axisStowOrder_starts (h : s.axis.motion = .idle ∨ s.axis.motion = .gap)
    (hb : stowBlocked s = false) : axisStowOrder s = startStow (stowTaken s) (stowEntry s) := by
  have hready : (stowTaken s).seq.station = .ready := by
    rw [(stowTaken_recs s).seq]
    exact hr
  rcases h with h | h
  · have hmay : legMayStart (stowTaken s) = true :=
      legMayStart_idle (by rw [stowTaken_axis]; exact h) hready
    rw [axisStowOrder_eq hm (by simp [h]) (by simp [h]), h]
    dsimp only
    rw [tryStart_stow (stowTaken_queue s) rfl (by rw [stowTaken_axis]; rfl),
      stowTaken_blocked (by simp [h]), if_pos ⟨hmay, hb⟩]
  · rw [axisStowOrder_eq hm (by simp [h]) (by simp [h]), h]
    dsimp only
    rw [stowTaken_blocked (by simp [h]), if_neg (by simp [hb, isReady, hready]), stowTaken_queue]

end Engine

/-! ### The order as a whole -/

/-- Where the engine's part leaves no JOINT entry, the Compact Unit's part leaves the engine. -/
theorem stowOrder_axis (h : NoJoint (axisStowOrder (s.withWind
    { s.wind with ordered := true })).axis) : (stowOrder s).axis =
      (axisStowOrder (s.withWind { s.wind with ordered := true })).axis :=
  (judgeBlocked_axis _).trans ((leaveAll_worked ((axisStowOrder (s.withWind
    { s.wind with ordered := true })).withCompact { (axisStowOrder (s.withWind
      { s.wind with ordered := true })).compact with stowMark := true }) reasonStow).axis h)

/-! ### The compact that the station flies (R111) -/

/-- What a leaving stands: the Compact List is left, no flag is cleared, and `m` frames at most
join the queue. -/
structure Bystander (p : Frame → Bool) (m : Nat) (s t : State) : Prop where
  compact : t.compact = s.compact
  seq : t.seq = s.seq
  flags : FlagsStay s t
  queue : Frugal p m s t

theorem Bystander.refl (p : Frame → Bool) (m : Nat) (s : State) : Bystander p m s s :=
  ⟨rfl, rfl, .refl s, (Frugal.refl s).mono (Nat.zero_le m)⟩

theorem Bystander.leaving {own reason : Nat} (k : Bystander (isLeaveFrame r.id reason) m s t)
    (h : Leaving n s own r reason) (hn : n + m ≤ 5) : Leaving (n + m) t own r reason :=
  h.after k.compact k.seq k.flags k.queue hn

theorem judgeBlocked_bystander {p : Frame → Bool} (hp : CoordKind p) (s : State) (a : AxisUnit) :
    Bystander p 1 s (judgeBlocked (s.withAxis a)) :=
  ⟨judgeBlocked_compact _, (judgeBlocked_keeps (.refl _)).seq,
    (judgeBlocked_flagsStay _).before rfl, (judgeBlocked_frugal hp).before rfl rfl rfl⟩

theorem flyStow_bystander {p : Frame → Bool} (hp : CoordKind p) (s : State) (e : MoveEntry) :
    Bystander p 1 s (flyStow s e) := by
  refine ⟨startLeg_compact _ _ _, (startLeg_recs _ _ _).seq, ?_, ?_⟩
  · have hcommit : ∀ v az el, FlagsStay v (shareLegStart v az el) := fun v az el =>
      .of_eq (by rw [shareLegStart_report])
    exact ((hcommit _ _ _).trans (judgeBlocked_flagsStay _)).before rfl
  · exact ((commitMotion_frugal hp _).trans (judgeBlocked_frugal hp)).before rfl rfl rfl

theorem startStow_bystander {p : Frame → Bool} (hp : CoordKind p) (s : State) (e : MoveEntry) :
    Bystander p 1 s (startStow s e) := by
  unfold startStow
  split
  · split
    · exact judgeBlocked_bystander hp s _
    · exact flyStow_bystander hp s e
  · split
    · exact judgeBlocked_bystander hp s _
    · exact flyStow_bystander hp s e

theorem withAxis_bystander (p : Frame → Bool) (s : State) (a : AxisUnit) :
    Bystander p 1 s (s.withAxis a) :=
  ⟨rfl, rfl, .of_eq rfl, Frugal.mono (n := 0) (.of_eq rfl rfl rfl) (Nat.zero_le 1)⟩

theorem addReason_bystander (p : Frame → Bool) (s : State) (x : StopReason) :
    Bystander p 1 s (addReason s x) := by
  unfold addReason
  split
  · exact withAxis_bystander p s _
  · exact .refl p 1 s

/-- After the entries have left the queue, the engine's part of a stow order leaves the leaving. -/
theorem axisStowOrder_bystander {p : Frame → Bool} (hp : CoordKind p)
    (hm : s.axis.stowMark = false) (h : s.axis.motion ≠ .stowing) (h' : s.axis.motion ≠ .stowed) :
    Bystander p 1 (stowTaken s) (axisStowOrder s) := by
  rw [axisStowOrder_eq hm h h']
  split
  · rw [tryStart_stow (stowTaken_queue s) rfl (by rw [stowTaken_axis]; rfl)]
    split
    · exact startStow_bystander hp _ _
    · exact .refl p 1 _
  · split
    · exact judgeBlocked_bystander hp _ _
    · rw [stowTaken_queue]
      exact startStow_bystander hp _ _
  · exact judgeBlocked_bystander hp _ _
  · exact addReason_bystander p _ _
  · exact .refl p 1 _

theorem Leaving.stowTaken {own : Nat} (h : Leaving 0 s own r reasonStow) :
    Leaving 0 (stowTaken s) own r reasonStow := by
  have hset : Leaving 0 (s.withAxis (stowWaits s)) own r reasonStow :=
    h.after (m := 0) rfl rfl (.of_eq rfl) (.of_eq rfl rfl rfl) (by decide)
  obtain ⟨hids, hown, hclash, hm | hl⟩ := hset
  · unfold Machine.stowTaken
    rcases hm.noticeRemoved_cases (by decide) s.axis.queue with hn | hn
    · rw [hn]
      exact ⟨hids, hown, hclash, .inl hm⟩
    · rw [hn]
      exact .ownLeave hm (by decide) hown hclash
  · unfold Machine.stowTaken
    rw [noticeRemoved_none (Leaving.grounded hl hids hown)]
    exact ⟨hids, hown, hclash, .inr hl⟩

theorem Leaving.axisStowOrder {own : Nat} (h : Leaving 0 s own r reasonStow) :
    Leaving 1 (axisStowOrder s) own r reasonStow := by
  have hk := isLeaveFrame_kind r.id reasonStow
  by_cases hin : s.axis.stowMark = true ∨ s.axis.motion = .stowing ∨ s.axis.motion = .stowed
  · rw [Machine.axisStowOrder, if_pos (by simpa [or_assoc] using hin)]
    exact (withAxis_bystander _ s _).leaving h (by decide)
  · obtain ⟨hm, hs, hd⟩ : s.axis.stowMark = false ∧ s.axis.motion ≠ .stowing ∧
        s.axis.motion ≠ .stowed := by simpa using hin
    exact (axisStowOrder_bystander hk hm hs hd).leaving h.stowTaken (by decide)

/-- The Compact Unit's mark of an order is no part of a leaving. -/
theorem Leaving.withStowMark {own reason : Nat} (h : Leaving n s own r reason) (b : Bool) :
    Leaving n (s.withCompact { s.compact with stowMark := b }) own r reason := by
  obtain ⟨hids, hown, hclash, hm | hl⟩ := h
  · exact ⟨hids, hown, hclash, .inl ⟨hm.list, hm.flying, hm.accepted, hm.transmits, hm.flags,
      hm.modest.of_eq rfl rfl rfl, hm.none⟩⟩
  · exact ⟨hids, hown, hclash, .inr ⟨hl.member, hl.failed, hl.flags,
      hl.modest.of_eq rfl rfl rfl, hl.one⟩⟩

/-- A compact that a READY station flies is left at a stow order (R111). -/
theorem FliesAlone.stowOrder_hasLeft (h : FliesAlone s r) :
    HasLeft 7 (stowOrder s) s.seq.number r reasonStow := by
  obtain ⟨hready, hheld, hq, hflags, hlist, hfly, hacc⟩ := h
  have hmay : MayLeave 0 (s.withWind { s.wind with ordered := true }) r reasonStow := by
    refine ⟨hlist, hfly, hacc, ?_, hflags, .nil hq, by simp [heldOf, hq]⟩
    simp [transmits, isReady, hready, hheld]
  have haxis := Leaving.axisStowOrder (s := s.withWind { s.wind with ordered := true })
    (own := s.seq.number) (r := r)
    ⟨(congrArg (List.map (·.id)) hlist).trans rfl, rfl, by simp [isClash, hready], .inl hmay⟩
  rw [stowOrder_eq, stowedUnits]
  generalize Machine.axisStowOrder (s.withWind { s.wind with ordered := true }) = w at haxis ⊢
  have hleft := (haxis.withStowMark true).leaveAll (by decide)
  exact hleft.after (judgeBlocked_compact _) (judgeBlocked_flagsStay _)
    (judgeBlocked_frugal (isLeaveFrame_kind _ _)) (by decide)

end Sys2Proof.Machine
end

section
/-! PROOFS. A WIND as the rosters and the cell it names take it, before the judgement of the cells
(R136 to R141). -/

namespace Sys2Proof.Machine

variable {s t u v : State} {n c d cause : Nat} {x : Cell} {lv : Level}

/-! ### Changes of the Cell Table alone -/

/-- The Wind Unit's records are changed, and neither its order nor stow-blocked. -/
structure WindOnly (s t : State) : Prop where
  only : t = s.withWind t.wind
  ordered : t.wind.ordered = s.wind.ordered
  blocked : t.wind.blocked = s.wind.blocked

theorem WindOnly.trans (h : WindOnly s t) (k : WindOnly t u) : WindOnly s u :=
  ⟨k.only.trans (by rw [h.only]; rfl), k.ordered.trans h.ordered, k.blocked.trans h.blocked⟩

theorem changeCell_windOnly (s : State) (c : Nat) (f : Cell → Cell) :
    WindOnly s (changeCell s c f) := ⟨rfl, rfl, rfl⟩

theorem nameCell_windOnly (s : State) (n c : Nat) : WindOnly s (nameCell s n c) :=
  ⟨rfl, rfl, rfl⟩

theorem reportEntry_windOnly (s : State) (n c : Nat) (f : RosterEntry → RosterEntry) :
    WindOnly s (reportEntry s n c f) := by
  unfold reportEntry
  split
  · exact ⟨rfl, rfl, rfl⟩
  · exact changeCell_windOnly s c _

theorem cellAt_changeCells (hc : c < s.wind.cells.length) (f : Nat → Cell → Cell) :
    cellAt (changeCells s f) c = f c (cellAt s c) := by
  simp [cellAt, changeCells, List.getD_eq_getElem?_getD, hc]

theorem cellAt_nameCell (hc : d < s.wind.cells.length) :
    cellAt (nameCell s n c) d = namedCell s n c d (cellAt s d) := cellAt_changeCells hc _

/-- What a frame reports of a station's entry in the cell it names (R137; log 81). -/
def reportedCell (s : State) (n c : Nat) (f : RosterEntry → RosterEntry) (x : Cell) : Cell :=
  if keptOwn s n c then x else changeEntry n f x

theorem cellAt_reportEntry (hc : c < s.wind.cells.length) (f : RosterEntry → RosterEntry) :
    cellAt (reportEntry s n c f) c = reportedCell s n c f (cellAt s c) := by
  unfold reportEntry reportedCell
  split
  · rfl
  · exact cellAt_changeCell hc _

theorem cellAt_reportEntry_ne (hd : d ≠ c) (f : RosterEntry → RosterEntry) :
    cellAt (reportEntry s n c f) d = cellAt s d := by
  unfold reportEntry
  split
  · rfl
  · exact cellAt_changeCell_ne s hd _

theorem reportEntry_length (f : RosterEntry → RosterEntry) :
    (reportEntry s n c f).wind.cells.length = s.wind.cells.length := by
  unfold reportEntry
  split
  · rfl
  · simp [changeCell]

/-! ### The record of the cell named -/

/-- The entry of a station after its WIND (R137, R139). -/
def reportedEntry (s : State) (n : Nat) (lv : Level) (cause : Nat) (e : RosterEntry) :
    RosterEntry :=
  if cause = 2 then { windFaulted s e with level := some lv }
  else { e with
    status := if e.status == .faulted && windWorking s n then .ok else e.status
    working := windWorking s n
    level := some lv }

/-- The cause a WIND gives to a cell it puts in STOW (R140). -/
def stowCauseOf (cause : Nat) : WindCause := if cause == 1 then .gust else .speed

/-- A level report as the cell takes it (R140, R141). -/
def levelledCell (s : State) (lv : Level) (cause : Nat) (x : Cell) : Cell :=
  match lv with
  | .stow => { cellStow (stowCauseOf cause) x with lastStow := some (now s), holdRun := 0 }
  | .watch =>
    match x.state with
    | .calm => { x with state := .watch }
    | .settle => { x with settleStart := some (now s), settleRun := 0 }
    | _ => x
  | .calm => x

/-- The cell's record once the station has joined and its entry reports (R136, R137). -/
def joinedCell (s : State) (n c : Nat) (lv : Level) (cause : Nat) (x : Cell) : Cell :=
  reportedCell s n c (reportedEntry s n lv cause) (joinRoster n x)

/-- The cell's record after a WIND that names it, before its judgement. -/
def toldCell (s : State) (n c : Nat) (lv : Level) (cause : Nat) (x : Cell) : Cell :=
  if cause = 2 then joinedCell s n c lv cause x
  else levelledCell s lv cause (joinedCell s n c lv cause x)

/-- The state after a WIND, before its order and the judgement. -/
def windTold (s : State) (n c : Nat) (lv : Level) (cause : Nat) : State :=
  let t := nameCell s n c
  let u := reportEntry t n c (reportedEntry s n lv cause)
  if cause = 2 then u else changeCell u c (levelledCell s lv cause)

theorem windTold_windOnly (s : State) (n c : Nat) (lv : Level) (cause : Nat) :
    WindOnly s (windTold s n c lv cause) := by
  have hreport := (nameCell_windOnly s n c).trans
    (reportEntry_windOnly _ n c (reportedEntry s n lv cause))
  unfold windTold
  dsimp only
  split
  · exact hreport
  · exact hreport.trans (changeCell_windOnly _ _ _)

theorem windTold_length (s : State) (n c : Nat) (lv : Level) (cause : Nat) :
    (windTold s n c lv cause).wind.cells.length = s.wind.cells.length := by
  have hname : (nameCell s n c).wind.cells.length = s.wind.cells.length := List.length_mapIdx
  unfold windTold
  dsimp only
  split
  · exact (reportEntry_length _).trans hname
  · refine (List.length_modify ..).trans ((reportEntry_length _).trans hname)

theorem cellAt_windTold (hc : c < s.wind.cells.length) :
    cellAt (windTold s n c lv cause) c = toldCell s n c lv cause (cellAt s c) := by
  have hname : cellAt (nameCell s n c) c = joinRoster n (cellAt s c) :=
    (cellAt_nameCell hc).trans (if_pos (beq_self_eq_true c))
  have hlen : c < (nameCell s n c).wind.cells.length := by
    rw [show (nameCell s n c).wind.cells.length = _ from List.length_mapIdx]
    exact hc
  have hreport : cellAt (reportEntry (nameCell s n c) n c (reportedEntry s n lv cause)) c =
      joinedCell s n c lv cause (cellAt s c) := by
    rw [cellAt_reportEntry hlen, hname]
    rfl
  unfold windTold toldCell
  dsimp only
  split
  · exact hreport
  · rw [cellAt_changeCell (by rw [reportEntry_length]; exact hlen), hreport]

theorem cellAt_windTold_ne (hd : d ≠ c) (hl : d < s.wind.cells.length) :
    cellAt (windTold s n c lv cause) d =
      if keptOwn s n d then cellAt s d else changeEntry n entryGone (cellAt s d) := by
  have hname : cellAt (nameCell s n c) d =
      if keptOwn s n d then cellAt s d else changeEntry n entryGone (cellAt s d) :=
    (cellAt_nameCell hl).trans (if_neg (by simpa using hd))
  unfold windTold
  dsimp only
  split
  · rw [cellAt_reportEntry_ne hd, hname]
  · rw [cellAt_changeCell_ne _ hd, cellAt_reportEntry_ne hd, hname]

/-! ### The WIND as a whole (R137, R139, R140) -/

/-- There is room in the cell's roster, or the station is in it (R136). -/
def HasRoom (s : State) (n c : Nat) : Prop :=
  inRoster s c n = true ∨ (cellAt s c).roster.length < 8

theorem mem_joinRoster (h : (x.roster.any fun e => e.station == n) = true ∨ x.roster.length < 8) :
    ∃ e ∈ (joinRoster n x).roster, e.station = n := by
  unfold joinRoster
  by_cases hin : (x.roster.any fun e => e.station == n) = true
  · obtain ⟨e, he, hn⟩ := List.any_eq_true.1 hin
    rw [if_pos (by simp [hin])]
    exact ⟨e, he, by simpa using hn⟩
  · have hroom := h.resolve_left hin
    rw [if_neg (by simp [hin, hroom])]
    exact ⟨_, List.mem_append_right _ (List.mem_singleton_self _), rfl⟩

theorem changeEntry_changeEntry {f g : RosterEntry → RosterEntry}
    (hf : ∀ e, (f e).station = e.station) (x : Cell) :
    changeEntry n g (changeEntry n f x) = changeEntry n (fun e => g (f e)) x := by
  unfold changeEntry
  simp only [List.map_map]
  refine congrArg (fun r => { x with roster := r }) (List.map_congr_left fun e _ => ?_)
  by_cases h : e.station = n <;> simp [h, hf]

/-- The two reports of a WIND whose entry works are one (R137, R139). -/
theorem reportEntry_twice {f g : RosterEntry → RosterEntry}
    (hf : ∀ e, (f e).station = e.station) :
    reportEntry (reportEntry s n c f) n c g = reportEntry s n c fun e => g (f e) := by
  by_cases hk : keptOwn s n c = true
  · rw [reportEntry_kept hk, reportEntry_kept hk, reportEntry_kept hk]
  · have hk' : keptOwn s n c = false := by simpa using hk
    rw [reportEntry_moved hk', reportEntry_moved (by exact hk'), reportEntry_moved hk']
    unfold changeCell
    refine congrArg (fun l => s.withWind { s.wind with cells := l }) ?_
    show (s.wind.cells.modify c _).modify c _ = _
    rw [List.modify_modify_eq]
    exact congrArg (fun h => s.wind.cells.modify c h) (funext fun x => changeEntry_changeEntry hf x)

/-- The stow order that a WIND gives (R140, R145). -/
def windOrdered (s : State) (n c : Nat) (lv : Level) (cause : Nat) : State :=
  if cause ≠ 2 ∧ lv = .stow ∧ (cellAt s c).state ≠ .stow then
    orderFor (windTold s n c lv cause) c
  else windTold s n c lv cause

theorem levelOf_le {level : Nat} (h : levelOf level = some lv) : level ≤ 2 := by
  unfold levelOf at h
  split at h
  · omega
  · omega
  · omega
  · cases h

theorem changeCell_self (s : State) (c : Nat) : changeCell s c (fun x => x) = s := by
  have hid : s.wind.cells.modify c (fun x => x) = s.wind.cells := List.modify_id c s.wind.cells
  unfold changeCell
  rw [hid]
  rfl

theorem takeWind_void {level : Nat} (h : 7 < c ∨ 2 < level ∨ 2 < cause) :
    takeWind s n c level cause = s := by
  unfold takeWind
  split
  · rfl
  · rename_i hlv
    refine if_pos ?_
    rcases h with h | h | h
    · simp [h]
    · exact absurd (levelOf_le hlv) (by omega)
    · simp [h]

theorem takeWind_eq {level : Nat} (hlv : levelOf level = some lv) (hc : c ≤ 7) (hx : cause ≤ 2)
    (hl : s.wind.cells.length = 8) (hroom : HasRoom s n c) :
    takeWind s n c level cause = judgeCells (windOrdered s n c lv cause) true := by
  have hname : cellAt (nameCell s n c) c = joinRoster n (cellAt s c) :=
    (cellAt_nameCell (by omega)).trans (if_pos (beq_self_eq_true c))
  have hin : inRoster (nameCell s n c) c n = true := by
    obtain ⟨e, he, hn⟩ := mem_joinRoster hroom
    rw [inRoster, hname]
    exact List.any_eq_true.2 ⟨e, he, by simpa using hn⟩
  unfold takeWind
  rw [hlv]
  dsimp only
  rw [if_neg (by simp; omega), if_neg (by simp [hin])]
  by_cases h2 : cause = 2
  · have hentry : reportedEntry s n lv cause = fun e => { windFaulted s e with level := some lv } :=
      funext fun e => if_pos h2
    rw [if_pos (by simpa using h2), windOrdered, if_neg fun h => h.1 h2, windTold, if_pos h2,
      hentry]
  · obtain ⟨f, hf⟩ : ∃ f : RosterEntry → RosterEntry, f = fun e => { e with
        status := if e.status == .faulted && windWorking s n then .ok else e.status
        working := windWorking s n } := ⟨_, rfl⟩
    have hentry : (fun e => { f e with level := some lv }) = reportedEntry s n lv cause := by
      rw [hf]
      exact funext fun e => (if_neg h2).symm
    have hstate : (cellAt (reportEntry (nameCell s n c) n c f) c).state = (cellAt s c).state := by
      rw [cellAt_reportEntry (by simp [nameCell, changeCells]; omega), hname]
      unfold reportedCell joinRoster
      split <;> split <;> rfl
    have htwice := reportEntry_twice (s := nameCell s n c) (n := n) (c := c) (f := f)
      (g := fun e => { e with level := some lv }) (fun e => by rw [hf])
    rw [hentry] at htwice
    rw [if_neg (by simpa using h2), ← hf]
    have hnow : now (reportEntry (nameCell s n c) n c f) = now s := by
      rw [(reportEntry_windOnly (nameCell s n c) n c f).only]
      rfl
    unfold levelReport
    dsimp only
    simp only [hnow]
    rw [htwice, hstate, windOrdered, windTold, if_neg h2]
    refine congrArg (fun u => judgeCells u true) ?_
    cases lv
    case stow =>
      by_cases hb : (cellAt s c).state = .stow
      · have hno : ¬(cause ≠ 2 ∧ Level.stow = .stow ∧ (cellAt s c).state ≠ .stow) :=
          fun h => h.2.2 hb
        have heq : ((cellAt s c).state == .stow) = true := by simpa using hb
        rw [if_neg hno]
        dsimp only
        rw [if_pos heq]
        rfl
      · have hyes : cause ≠ 2 ∧ Level.stow = .stow ∧ (cellAt s c).state ≠ .stow := ⟨h2, rfl, hb⟩
        have hne : ¬((cellAt s c).state == .stow) = true := by simpa using hb
        rw [if_pos hyes]
        dsimp only
        rw [if_neg hne]
        rfl
    case watch =>
      have hno : ¬(cause ≠ 2 ∧ Level.watch = .stow ∧ (cellAt s c).state ≠ .stow) := nofun
      rw [if_neg hno]
      rfl
    case calm =>
      have hno : ¬(cause ≠ 2 ∧ Level.calm = .stow ∧ (cellAt s c).state ≠ .stow) := nofun
      rw [if_neg hno]
      exact (changeCell_self _ c).symm

end Sys2Proof.Machine
end

section
/-! PROOFS. The cell that a WIND names, once it is judged (R139 to R144). -/

namespace Sys2Proof.Machine

variable {s t u v : State} {n c d cause : Nat} {x y : Cell} {lv : Level} {e : RosterEntry}

/-! ### The entry of a WIND (R137, R139) -/

theorem reportedEntry_station (s : State) (n : Nat) (lv : Level) (cause : Nat) (e : RosterEntry) :
    (reportedEntry s n lv cause e).station = e.station := by
  unfold reportedEntry
  split
  · exact windFaulted_station s e
  · rfl

theorem reportedEntry_level (s : State) (n : Nat) (lv : Level) (cause : Nat) (e : RosterEntry) :
    (reportedEntry s n lv cause e).level = some lv := by
  unfold reportedEntry
  split <;> rfl

theorem reportedEntry_working (ho : isOwnWind s n = false) (he : e.station = n) :
    (reportedEntry s n lv cause e).working = decide (cause ≠ 2) := by
  unfold reportedEntry
  split
  · rename_i h2
    show (windFaulted s e).working = _
    rw [windFaulted, he, ho]
    simp [h2]
  · rename_i h2
    show windWorking s n = _
    rw [windWorking, ho]
    simp [h2]

theorem levelledCell_roster (s : State) (lv : Level) (cause : Nat) (x : Cell) :
    (levelledCell s lv cause x).roster = x.roster := by
  unfold levelledCell
  split
  · rfl
  · split <;> rfl
  · rfl

theorem toldCell_roster (s : State) (n c : Nat) (lv : Level) (cause : Nat) (x : Cell) :
    (toldCell s n c lv cause x).roster = (joinedCell s n c lv cause x).roster := by
  unfold toldCell
  split
  · rfl
  · exact levelledCell_roster ..

theorem joinRoster_rest (n : Nat) (x : Cell) : joinRoster n x =
    { x with roster := (joinRoster n x).roster } := by
  unfold joinRoster
  split <;> rfl

/-- A station that joins and reports changes the roster alone. -/
theorem joinedCell_rest (s : State) (n c : Nat) (lv : Level) (cause : Nat) (x : Cell) :
    joinedCell s n c lv cause x = { x with roster := (joinedCell s n c lv cause x).roster } := by
  unfold joinedCell reportedCell
  split
  · exact joinRoster_rest n x
  · unfold changeEntry
    rw [joinRoster_rest n x]

/-- The entries of the station in the cell it names all report its WIND. -/
theorem joinedCell_reports (hk : keptOwn s n c = false) (ho : isOwnWind s n = false)
    (he : e ∈ (joinedCell s n c lv cause x).roster) (hn : e.station = n) :
    e.level = some lv ∧ e.working = decide (cause ≠ 2) := by
  unfold joinedCell reportedCell at he
  rw [hk] at he
  obtain ⟨z, -, rfl⟩ := List.mem_map.1 he
  split at hn
  · rename_i hz
    have hz' : z.station = n := by simpa using hz
    rw [if_pos hz]
    exact ⟨reportedEntry_level .., reportedEntry_working ho hz'⟩
  · rename_i hz
    exact absurd (by simpa using hn) hz

/-- The station has an entry in the cell it names, where there is room. -/
theorem joinedCell_entry (hk : keptOwn s n c = false)
    (hroom : (x.roster.any fun e => e.station == n) = true ∨ x.roster.length < 8) :
    ∃ e ∈ (joinedCell s n c lv cause x).roster, e.station = n := by
  obtain ⟨z, hz, hn⟩ := mem_joinRoster hroom
  unfold joinedCell reportedCell
  rw [hk]
  refine ⟨_, List.mem_map_of_mem hz, ?_⟩
  rw [if_pos (by simpa using hn), reportedEntry_station]
  exact hn

/-! ### Working entries -/

theorem workingEntries_ne (he : e ∈ x.roster) (hw : e.working = true) : workingEntries x ≠ [] :=
  List.ne_nil_of_mem (List.mem_filter.2 ⟨he, hw⟩)

/-- A working entry of another level than CALM keeps a cell from its release (R142, R143). -/
theorem allCalm_false (he : e ∈ x.roster) (hw : e.working = true) (hl : e.level ≠ some .calm) :
    allCalm x = false := by
  unfold allCalm
  rw [Bool.and_eq_false_iff]
  exact .inr (List.all_eq_false.2 ⟨e, List.mem_filter.2 ⟨he, hw⟩, by simpa using hl⟩)

theorem allCalm_congr (h : y.roster = x.roster) : allCalm y = allCalm x := by
  unfold allCalm workingEntries
  rw [h]

theorem someWatch_congr (h : y.roster = x.roster) : someWatch y = someWatch x := by
  unfold someWatch workingEntries
  rw [h]

/-! ### Judgements by the cell's state -/

/-- A cell with a working entry is judged by R142 and R143 alone. -/
theorem judgedCell_works (h : workingEntries x ≠ []) (s : State) (c : Nat) :
    judgedCell s c x = levelsCell s x := by
  unfold judgedCell noSensorCell
  rw [if_neg (by simpa using h)]

theorem levelsCell_held (hs : x.state = .stow) (h : allCalm x = false) : levelsCell s x = x := by
  rw [levelsCell, hs, h]
  simp

theorem holdPassed_zero (hz : x.holdRun = 0) (h : s.seq.config = none ∨ 0 < (cfg s).stowHold) :
    holdPassed s x = false := by
  unfold holdPassed
  rw [hz]
  rcases h with h | h
  · simp [h]
  · simp
    omega

theorem settlePassed_zero (hz : x.settleRun = 0)
    (h : s.seq.config = none ∨ 0 < (cfg s).settleTime) : settlePassed s x = false := by
  unfold settlePassed
  rw [hz]
  rcases h with h | h
  · simp [h]
  · simp
    omega

/-- A cell put in STOW stays there, its hold begun again, while the hold takes time (R142, R144). -/
theorem judgedCell_stowed (hs : x.state = .stow) (hz : x.holdRun = 0)
    (h : s.seq.config = none ∨ 0 < (cfg s).stowHold) : (judgedCell s c x).state = .stow ∧
      (judgedCell s c x).lastStow = x.lastStow ∧ (judgedCell s c x).holdRun = 0 := by
  have hno : (noSensorCell s c x).state = .stow ∧ (noSensorCell s c x).lastStow = x.lastStow ∧
      (noSensorCell s c x).holdRun = 0 := by
    unfold noSensorCell
    split
    · split
      · exact ⟨rfl, rfl, rfl⟩
      · exact ⟨hs, rfl, rfl⟩
    · exact ⟨hs, rfl, hz⟩
  obtain ⟨hstate, hlast, hrun⟩ := hno
  have hstay : judgedCell s c x = noSensorCell s c x := by
    rw [judgedCell, levelsCell, hstate, holdPassed_zero hrun h]
    rfl
  rw [hstay]
  exact ⟨hstate, hlast, hrun⟩

theorem levelsCell_settling (hs : x.state = .settle) (hp : settlePassed s x = false) :
    levelsCell s x = x := by
  rw [levelsCell, hs, hp]
  simp

/-- A cell of an obeying station without a working entry is in STOW (R144). -/
theorem judgedCell_noSensor (hw : workingEntries x = []) (ho : obeys s c = true)
    (hg : givesOrders s = true) :
    judgedCell s c x = cellStow .noSensor { x with holdRun := 0 } := by
  have hno : noSensorCell s c x = cellStow .noSensor { x with holdRun := 0 } := by
    rw [noSensorCell, hw, ho, hg]
    rfl
  have hcalm : allCalm (cellStow .noSensor { x with holdRun := 0 }) = false := by
    have : workingEntries (cellStow .noSensor { x with holdRun := 0 }) = [] := hw
    rw [allCalm, this]
    rfl
  rw [judgedCell, hno]
  exact levelsCell_held rfl hcalm

/-! ### The cell that a WIND names, by its level (R140, R141, R142, R143) -/

/-- A WIND of another station than the own one, or of the own number after a clash, that moves its
entry in a cell with room for it. -/
structure Heeded (s : State) (n c : Nat) (x : Cell) : Prop where
  moved : keptOwn s n c = false
  other : isOwnWind s n = false
  room : (x.roster.any fun e => e.station == n) = true ∨ x.roster.length < 8

theorem Heeded.entry (h : Heeded s n c x) (lv : Level) (cause : Nat) :
    ∃ e ∈ (toldCell s n c lv cause x).roster, e.station = n ∧ e.level = some lv ∧
      e.working = decide (cause ≠ 2) := by
  obtain ⟨e, he, hn⟩ := joinedCell_entry (lv := lv) (cause := cause) h.moved h.room
  obtain ⟨hl, hw⟩ := joinedCell_reports h.moved h.other he hn
  exact ⟨e, toldCell_roster s n c lv cause x ▸ he, hn, hl, hw⟩

theorem Heeded.works (h : Heeded s n c x) (lv : Level) (h2 : cause ≠ 2) :
    workingEntries (toldCell s n c lv cause x) ≠ [] := by
  obtain ⟨e, he, -, -, hw⟩ := h.entry lv cause
  exact workingEntries_ne he (hw.trans (decide_eq_true h2))

theorem Heeded.notCalm (h : Heeded s n c x) (hl : lv ≠ .calm) (h2 : cause ≠ 2) :
    allCalm (toldCell s n c lv cause x) = false := by
  obtain ⟨e, he, -, hlv, hw⟩ := h.entry lv cause
  exact allCalm_false he (hw.trans (decide_eq_true h2)) (by rw [hlv]; simpa using hl)

theorem toldCell_levelled (h2 : cause ≠ 2) : toldCell s n c lv cause x =
    levelledCell s lv cause { x with roster := (joinedCell s n c lv cause x).roster } := by
  rw [toldCell, if_neg h2, ← joinedCell_rest]

/-- A STOW report puts the cell in STOW (R140). -/
theorem Heeded.stow (h : Heeded s n c x) (h2 : cause ≠ 2) :
    judgedCell s c (toldCell s n c .stow cause x) =
      { cellStow (stowCauseOf cause) { x with
          roster := (joinedCell s n c .stow cause x).roster } with
        lastStow := some (now s), holdRun := 0 } := by
  have htold := toldCell_levelled (s := s) (n := n) (c := c) (lv := .stow) (x := x) h2
  rw [judgedCell_works (h.works .stow h2), levelsCell_held (by rw [htold]; rfl)
    (h.notCalm (lv := .stow) nofun h2), htold]
  rfl

/-- A WATCH report moves CALM to WATCH, and begins a settle interval again (R141). -/
theorem Heeded.watch (h : Heeded s n c x) (h2 : cause ≠ 2)
    (hset : s.seq.config = none ∨ 0 < (cfg s).settleTime) :
    judgedCell s c (toldCell s n c .watch cause x) = toldCell s n c .watch cause x := by
  have htold := toldCell_levelled (s := s) (n := n) (c := c) (lv := .watch) (x := x) h2
  have hcalm := h.notCalm (lv := .watch) nofun h2
  rw [judgedCell_works (h.works .watch h2)]
  cases hx : x.state with
  | stow =>
    refine levelsCell_held ?_ hcalm
    rw [htold, levelledCell, hx]
  | settle =>
    have hsame : toldCell s n c .watch cause x = { x with
        roster := (joinedCell s n c .watch cause x).roster
        settleStart := some (now s), settleRun := 0 } := by
      rw [htold, levelledCell, hx]
    refine levelsCell_settling (by rw [hsame]; exact hx) (settlePassed_zero (by rw [hsame]) hset)
  | watch =>
    have hstate : (toldCell s n c .watch cause x).state = .watch := by
      rw [htold, levelledCell, hx]
    rw [levelsCell, hstate, hcalm]
    rfl
  | calm =>
    have hstate : (toldCell s n c .watch cause x).state = .watch := by
      rw [htold, levelledCell, hx]
    rw [levelsCell, hstate, hcalm]
    rfl

/-- A CALM report releases as R142 and R143 say. -/
theorem Heeded.calm (h : Heeded s n c x) (h2 : cause ≠ 2) :
    judgedCell s c (toldCell s n c .calm cause x) =
      levelsCell s { x with roster := (joinedCell s n c .calm cause x).roster } := by
  rw [judgedCell_works (h.works .calm h2), toldCell_levelled h2]
  rfl

end Sys2Proof.Machine
end

section
/-! PROOFS. The stow order of a WIND, and the WIND as a whole (R5, R21, R22, R76, R111, R138,
R145). -/

namespace Sys2Proof.Machine

variable {s t u v : State} {n c d cause level : Nat} {x y : Cell} {lv : Level} {r : CompactRecord}

/-! ### The engine after a stow order (R5, R21, R22) -/

theorem stowOrder_axis_of {a : AxisUnit}
    (h : (axisStowOrder (s.withWind { s.wind with ordered := true })).axis = a)
    (hn : NoJoint a) : (stowOrder s).axis = a :=
  (stowOrder_axis (by rw [h]; exact hn)).trans h

/-- Without a JOINT entry beside it the STOW entry keeps the Compact Unit's work off the engine. -/
theorem noJoint_single {a : AxisUnit} {e : MoveEntry} (hq : a.queue = [e])
    (ho : e.origin = .stow) : NoJoint a := fun x hx => by
  rw [hq] at hx
  rw [List.mem_singleton.1 hx, ho]
  exact nofun

theorem stowOrder_engine (hm : s.axis.stowMark = false) (hr : s.seq.station = .ready)
    {a : AxisUnit} (ha : a = stowWaits s) :
    (s.axis.motion = .leg → (stowOrder s).axis =
      { stopping a .stow with queue := [stowEntry s] }) ∧
    (∀ x, s.axis.motion = .stopping → s.axis.stop = some x → (stowOrder s).axis = { a with
      stop := some { x with
        reasons := if .stow ∈ x.reasons then x.reasons else x.reasons ++ [.stow] } }) ∧
    (s.axis.motion = .halted → (stowOrder s).axis = a) ∧
    (s.axis.motion = .idle → stowBlocked s = true → (stowOrder s).axis = a) ∧
    (s.axis.motion = .gap → stowBlocked s = true → (stowOrder s).axis = { a with
      motion := .idle, releasedAz := false, releasedEl := false }) ∧
    (s.axis.motion = .idle ∨ s.axis.motion = .gap → stowBlocked s = false →
      s.axis.refEl = true →
      (((cfg s).stowEl : Int) ≤ s.axis.posEl → (stowOrder s).axis = { a with
        queue := [], motion := .stowed, releasedAz := false, releasedEl := false }) ∧
      (s.axis.posEl + (cfg s).tolerance < (cfg s).stowEl → (stowOrder s).axis = { a with
        queue := [{ stowEntry s with plan := some ⟨s.axis.posAz, s.axis.posEl, 1, 1⟩ }]
        motion := .stowing, leg := some (stowLeg s (stowEntry s)), gapRun := 0
        releasedAz := false, releasedEl := true })) := by
  subst ha
  obtain ⟨w, hw⟩ : ∃ w, w = s.withWind { s.wind with ordered := true } := ⟨_, rfl⟩
  have hwait : stowWaits w = stowWaits s := by rw [hw]; rfl
  have hof : ∀ {a}, (axisStowOrder w).axis = a → NoJoint a → (stowOrder s).axis = a :=
    fun h hn => stowOrder_axis_of (hw ▸ h) hn
  have hmw : w.axis.stowMark = false := by rw [hw]; exact hm
  have hrw : w.seq.station = .ready := by rw [hw]; exact hr
  have haxis : w.axis = s.axis := by rw [hw]; rfl
  have hblocked : stowBlocked w = stowBlocked s := by rw [hw]; rfl
  have hentry : stowEntry w = stowEntry s := by rw [hw]; rfl
  have htaken : (stowTaken w).axis = stowWaits s := (stowTaken_axis w).trans hwait
  refine ⟨fun h => hof ?_ (noJoint_single rfl rfl), fun x h hx => hof ?_ (noJoint_single rfl rfl),
    fun h => hof ?_ (stowWaits_noJoint s), fun h hb => hof ?_ (stowWaits_noJoint s),
    fun h hb => hof ?_ (noJoint_single rfl rfl), fun h hb hel => ⟨fun hup => hof ?_ nofun,
      fun hlow => hof ?_ (noJoint_single rfl rfl)⟩⟩
  · rw [axisStowOrder_leg hmw (by rw [haxis]; exact h), hwait, hw]
    rfl
  · rw [axisStowOrder_stopping hmw (by rw [haxis]; exact h) (by rw [haxis]; exact hx), hwait]
  · rw [axisStowOrder_halted hmw (by rw [haxis]; exact h), hwait]
  · rw [axisStowOrder_idle_blocked hmw (by rw [haxis]; exact h) (hblocked.trans hb), hwait]
  · rw [axisStowOrder_gap_blocked hmw (by rw [haxis]; exact h) (hblocked.trans hb), hwait]
  · rw [axisStowOrder_starts hmw hrw (by rw [haxis]; exact h) (hblocked.trans hb), hentry]
    exact startStow_up htaken hel hup
  · have hrecs := stowTaken_recs w
    rw [axisStowOrder_starts hmw hrw (by rw [haxis]; exact h) (hblocked.trans hb), hentry]
    exact startStow_rises htaken (hrecs.seq.trans (by rw [hw]; rfl))
      (hrecs.time.trans (by rw [hw]; rfl)) hel hlow

/-! ### The order of a cell left without a sensor (R144, R145) -/

/-- A cell that a judgement puts in STOW gives the stow order, and it stays in force. -/
theorem judgeCells_noSensor (hc : c < 8) (hl : s.wind.cells.length = 8)
    (ho : obeys s c = true) (hg : givesOrders s = true) (hw : workingEntries (cellAt s c) = [])
    (hx : (cellAt s c).state ≠ .stow) : InStow (judgeCells s true) := by
  obtain ⟨l, m, hrange, hcl, hcm⟩ := range_split hc
  obtain ⟨hcell, hlen, hseq, -⟩ := foldl_judgeCell_others (o := true) l hcl s
  rw [judgeCells, hrange, List.foldl_append, List.foldl_cons]
  generalize l.foldl (judgeCell true) s = u at *
  have hou : obeys u c = true := by unfold obeys obeyed at ho ⊢; rwa [hseq]
  have hgu : givesOrders u = true := by unfold givesOrders isReady isClash at hg ⊢; rwa [hseq]
  have horder : judgeNoSensor true u c = stowOrder (changeCell (changeCell u c fun x =>
      { x with holdRun := 0 }) c (cellStow .noSensor)) := by
    unfold judgeNoSensor orderFor
    dsimp only
    rw [hcell, hw, if_pos List.isEmpty_nil, if_pos (by simp [hou, hgu]), if_neg (by simpa using hx),
      if_pos rfl]
    exact if_pos (by simpa using ⟨hou, hgu⟩)
  have hin : InStow (judgeNoSensor true u c) := horder ▸ stowOrder_inStow _
  have hj := judgeNoSensor_judges true u c
  have hstow : (cellAt (judgeNoSensor true u c) c).state = .stow := by
    rw [hj.cell (by omega), hcell, noSensorCell, hw, hou, hgu]
    rfl
  have hself : CellsJudged (judgeNoSensor true u c) (judgeCell true u c) := by
    show CellsJudged _ (judgeLevels (judgeNoSensor true u c) c)
    rw [judgeLevels_stow hstow]
    split
    · exact changeCell_judged _ c _
    · exact .refl _
  have hafter : (cellAt (judgeCell true u c) c).state ≠ .calm := by
    have hjl := judgeLevels_judges (judgeNoSensor true u c) c
    show (cellAt (judgeLevels (judgeNoSensor true u c) c) c).state ≠ .calm
    rw [hjl.cell (by rw [hj.length]; omega), levelsCell, hstow]
    dsimp only
    split
    · exact nofun
    · rw [hstow]
      exact nofun
  have hobeys : obeys (judgeCell true u c) c = true := by
    unfold obeys obeyed at hou ⊢
    rwa [(judgeCell_judges true u c).seq]
  exact (foldl_judgeCell_judged m hcm (hself.inStow hin) hobeys hafter).inStow (hself.inStow hin)

/-! ### The cells after a WIND -/

theorem windOrdered_ruled (s : State) (n c : Nat) (lv : Level) (cause : Nat) :
    Ruled (windTold s n c lv cause) (windOrdered s n c lv cause) := by
  unfold windOrdered
  split
  · exact orderFor_ruled _ _
  · exact ⟨rfl, rfl, rfl⟩

/-- Each cell's record after a WIND is as the WIND leaves it, judged. -/
theorem cellAt_takeWind (hlv : levelOf level = some lv) (hc : c ≤ 7) (hx : cause ≤ 2)
    (hl : s.wind.cells.length = 8) (hroom : HasRoom s n c) (hd : d < 8) :
    cellAt (takeWind s n c level cause) d =
      judgedCell s d (cellAt (windTold s n c lv cause) d) := by
  have hr := windOrdered_ruled s n c lv cause
  have hw := windTold_windOnly s n c lv cause
  have hlen := windTold_length s n c lv cause
  have hseq : (windTold s n c lv cause).seq = s.seq := by rw [hw.only]; rfl
  have htime : (windTold s n c lv cause).time = s.time := by rw [hw.only]; rfl
  rw [takeWind_eq hlv hc hx hl hroom, cellAt_judgeCells hd (by rw [hr.cells]; omega),
    judgedCell_congr (hr.seq.trans hseq) (hr.time.trans htime)]
  unfold cellAt
  rw [hr.cells]

/-- The stow order of a WIND stays in force through the judgement. -/
theorem takeWind_ordered (hlv : levelOf level = some .stow) (hc : c ≤ 7) (hx : cause ≤ 2)
    (h2 : cause ≠ 2) (hl : s.wind.cells.length = 8) (hroom : HasRoom s n c)
    (hs : (cellAt s c).state ≠ .stow) (ho : obeys s c = true) (hg : givesOrders s = true) :
    CellsJudged (stowOrder (windTold s n c .stow cause)) (takeWind s n c level cause) := by
  have hw := windTold_windOnly s n c .stow cause
  have hkeeps := stowOrder_keeps (windTold s n c .stow cause)
  have hlen := windTold_length s n c .stow cause
  have htold := cellAt_windTold (s := s) (n := n) (lv := .stow) (cause := cause) (c := c) (by omega)
  rw [toldCell_levelled h2] at htold
  have hobeys : obeys (windTold s n c .stow cause) c = true := by
    rw [hw.only]
    exact ho
  have hgives : givesOrders (windTold s n c .stow cause) = true := by
    rw [hw.only]
    exact hg
  rw [takeWind_eq hlv hc hx hl hroom, windOrdered, if_pos ⟨h2, rfl, hs⟩, orderFor,
    if_pos (by simp [hobeys, hgives])]
  refine judgeCells_judged (c := c) (stowOrder_inStow _) (by omega) ?_ ?_ ?_
  · unfold obeys obeyed at hobeys ⊢
    rwa [hkeeps.seq]
  · rw [hkeeps.cellAt]
    exact (congrArg Cell.state htold).trans rfl
  · rw [hkeeps.cells]
    exact hlen.trans hl

end Sys2Proof.Machine
end

section
/-! PROOFS. The WIND of another station, and a WIND of the own number after a clash (R74, R76, R137
to R148). -/

namespace Sys2Proof.Machine

variable {s t u v : State} {n c d cause level : Nat} {x y : Cell} {lv : Level} {r : CompactRecord}
  {e : RosterEntry}

/-! ### The rosters -/

theorem cellAt_beyond (hl : s.wind.cells.length = 8) (hd : ¬ d < 8) :
    cellAt s d = Cell.initial := by
  have hnone : s.wind.cells[d]? = none := List.getElem?_eq_none (by omega)
  simp [cellAt, List.getD_eq_getElem?_getD, hnone]

theorem takeWind_length (hl : WindOk s.wind) :
    (takeWind s n c level cause).wind.cells.length = 8 :=
  ((takeWind_sways (.refl s) n c level cause).wind hl).1

theorem changeEntry_gone (he : e ∈ (changeEntry n entryGone x).roster) (hn : e.station = n) :
    e.working = false ∧ e.level = none := by
  obtain ⟨z, -, rfl⟩ := List.mem_map.1 he
  split at hn
  · rename_i hz
    rw [if_pos hz]
    exact ⟨rfl, rfl⟩
  · rename_i hz
    exact absurd (by simpa using hn) hz

/-- Elsewhere the station's entry is gone (R137). -/
theorem takeWind_elsewhere (hlv : levelOf level = some lv) (hc : c ≤ 7) (hx : cause ≤ 2)
    (hw : WindOk s.wind) (hroom : HasRoom s n c) (hk : keptOwn s n d = false) (hd : d ≠ c)
    (he : e ∈ (cellAt (takeWind s n c level cause) d).roster) (hn : e.station = n) :
    e.working = false ∧ e.level = none := by
  by_cases h8 : d < 8
  · rw [cellAt_takeWind hlv hc hx hw.1 hroom h8, judgedCell_roster,
      cellAt_windTold_ne hd (by rw [hw.1]; exact h8), hk] at he
    exact changeEntry_gone he hn
  · rw [cellAt_beyond (takeWind_length hw) h8] at he
    cases he

/-- The own entry of a station in FAULTED for a clash stands (R138; log 81). -/
theorem takeWind_ownEntry (hlv : levelOf level = some lv) (hc : c ≤ 7) (hx : cause ≤ 2)
    (hw : WindOk s.wind) (hroom : HasRoom s n c) (hk : keptOwn s n d = true)
    (he : e ∈ (cellAt s d).roster) : e ∈ (cellAt (takeWind s n c level cause) d).roster := by
  by_cases h8 : d < 8
  · have hlen : d < s.wind.cells.length := by rw [hw.1]; exact h8
    rw [cellAt_takeWind hlv hc hx hw.1 hroom h8, judgedCell_roster]
    by_cases hd : d = c
    · subst hd
      rw [cellAt_windTold hlen, toldCell_roster, joinedCell, reportedCell, hk]
      show e ∈ (joinRoster n _).roster
      unfold joinRoster
      split
      · exact he
      · exact List.mem_append_left _ he
    · rw [cellAt_windTold_ne hd hlen, hk]
      exact he
  · rw [cellAt_beyond hw.1 h8] at he
    cases he

/-! ### The cell named, in the statement's terms -/

/-- The cell that a heeded WIND names. -/
theorem takeWind_cell (hlv : levelOf level = some lv) (hc : c ≤ 7) (hx : cause ≤ 2)
    (hw : WindOk s.wind) (hroom : HasRoom s n c) : cellAt (takeWind s n c level cause) c =
      judgedCell s c (toldCell s n c lv cause (cellAt s c)) := by
  rw [cellAt_takeWind hlv hc hx hw.1 hroom (by omega),
    cellAt_windTold (by rw [hw.1]; omega)]

/-- A CALM report in SETTLE and in STOW, and before them (R142, R143). -/
theorem levelsCell_calmed (h : y = levelsCell s x) :
    (x.state = .calm → y.state = .calm) ∧
    (x.state = .watch → y.state = if allCalm y then .calm else .watch) ∧
    (s.seq.config.isSome = true →
      (x.state = .stow → y.state =
        if (cfg s).stowHold * 1000 ≤ x.holdRun ∧ allCalm y then .settle else .stow) ∧
      (x.state = .settle → y.state =
        if (cfg s).settleTime * 1000 ≤ x.settleRun then
          if allCalm y then .calm else if someWatch y then .watch else .settle
        else .settle)) := by
  have hroster : y.roster = x.roster := by rw [h, levelsCell_roster]
  rw [allCalm_congr hroster, someWatch_congr hroster, h]
  refine ⟨fun hs => ?_, fun hs => ?_, fun hcfg => ⟨fun hs => ?_, fun hs => ?_⟩⟩
  · rw [levelsCell, hs]
    exact hs
  · rw [levelsCell, hs]
    dsimp only
    split
    · rfl
    · exact hs
  · rw [levelsCell, hs]
    dsimp only
    have hiff : (holdPassed s x && allCalm x) = true ↔
        (cfg s).stowHold * 1000 ≤ x.holdRun ∧ allCalm x = true := by simp [holdPassed, hcfg]
    by_cases hp : (holdPassed s x && allCalm x) = true
    · rw [if_pos hp, if_pos (hiff.1 hp)]
    · rw [if_neg hp, if_neg (mt hiff.2 hp)]
      exact hs
  · have hpass : settlePassed s x = decide ((cfg s).settleTime * 1000 ≤ x.settleRun) := by
      simp [settlePassed, hcfg]
    rw [levelsCell, hs, hpass]
    dsimp only
    by_cases hp : (cfg s).settleTime * 1000 ≤ x.settleRun
    · simp only [hp, decide_true, Bool.true_and, if_true]
      split
      · rfl
      · split
        · rfl
        · exact hs
    · simp only [hp, decide_false, Bool.false_and, if_false, Bool.false_eq_true]
      exact hs

/-! ### The compact left at the order of a WIND (R111) -/

theorem CellsJudged.hasLeft {m own reason : Nat} (h : CellsJudged s t)
    (k : HasLeft m s own r reason) (hm : m ≤ 10) : HasLeft m t own r reason := by
  have hc : t.compact = s.compact := by rw [h.only]; rfl
  have hf : t.report.flags = s.report.flags := by rw [h.only]; rfl
  exact k.after (m := 0) hc (.of_eq hf)
    (.of_eq (by rw [h.only]; rfl) (by rw [h.only]; rfl) (by rw [h.only]; rfl)) hm

/-! ### After a clash (R76, R138) -/

/-- A cell with a working entry has one still once the WIND has joined its station. -/
theorem joinedCell_works (ho : isOwnWind s n = false) (h2 : cause ≠ 2)
    (hroom : (x.roster.any fun e => e.station == n) = true ∨ x.roster.length < 8)
    (hw : workingEntries x ≠ []) : workingEntries (toldCell s n c lv cause x) ≠ [] := by
  by_cases hk : keptOwn s n c = true
  · obtain ⟨e, he⟩ := List.exists_mem_of_ne_nil _ hw
    obtain ⟨hmem, hwork⟩ := List.mem_filter.1 he
    refine workingEntries_ne (e := e) ?_ hwork
    rw [toldCell_roster, joinedCell, reportedCell, hk]
    show e ∈ (joinRoster n x).roster
    unfold joinRoster
    split
    · exact hmem
    · exact List.mem_append_left _ hmem
  · exact Heeded.works ⟨by simpa using hk, ho, hroom⟩ lv h2

/-- A WATCH begins the settle interval of a cell in SETTLE again, whoever's entry works (R141). -/
theorem judgedCell_resettled (h2 : cause ≠ 2) (hx : x.state = .settle)
    (hw : workingEntries (toldCell s n c .watch cause x) ≠ [])
    (hset : s.seq.config = none ∨ 0 < (cfg s).settleTime) :
    judgedCell s c (toldCell s n c .watch cause x) = { x with
      roster := (joinedCell s n c .watch cause x).roster
      settleStart := some (now s), settleRun := 0 } := by
  have htold : toldCell s n c .watch cause x = { x with
      roster := (joinedCell s n c .watch cause x).roster
      settleStart := some (now s), settleRun := 0 } := by
    rw [toldCell_levelled h2, levelledCell, hx]
  rw [judgedCell_works hw, levelsCell_settling (by rw [htold]; exact hx)
    (settlePassed_zero (by rw [htold]) hset), htold]

/-- The state that a WIND of the own number is taken in after a clash (R76). -/
theorem exec_windReceived_clash (speed : Nat) (hf : s.seq.station = .faulted .clash)
    (hh : s.seq.held = false) (h1 : 1 ≤ s.seq.number) (h59 : s.seq.number ≤ 59) :
    exec (.windReceived s.seq.number c level speed cause) s =
      .next (takeWind (cleanRead s) s.seq.number c level cause) := by
  have hclash : isClash s = true := by simp [isClash, hf]
  have hrec : receives s = true := by simp [receives, hh, hclash]
  have hconsole : isConsole s.seq.number = false := by
    unfold isConsole
    exact decide_eq_false (by omega)
  refine congrArg Host.Outcome.next ?_
  unfold takeDishFrame takeFrame
  rw [if_pos (by simp [hrec, h1]; omega)]
  dsimp only
  rw [hconsole, hclash, Bool.not_true, Bool.and_false, if_neg Bool.false_ne_true,
    if_neg Bool.false_ne_true]
  exact congrArg (fun u => takeWind u s.seq.number c level cause)
    (if_pos (beq_self_eq_true s.seq.number))

/-- The stow order of a WIND is in force after it. -/
theorem takeWind_inStow (hlv : levelOf level = some .stow) (hc : c ≤ 7) (hx : cause ≤ 2)
    (h2 : cause ≠ 2) (hw : WindOk s.wind) (hroom : HasRoom s n c)
    (hs : (cellAt s c).state ≠ .stow) (ho : obeys s c = true) (hg : givesOrders s = true) :
    InStow (takeWind s n c level cause) :=
  (takeWind_ordered hlv hc hx h2 hw.1 hroom hs ho hg).inStow (stowOrder_inStow _)

/-- A STOW of a WIND puts the cell in STOW and begins its hold again, whoever's entry works
(R140). -/
theorem judgedCell_restowed (h2 : cause ≠ 2)
    (hset : s.seq.config = none ∨ 0 < (cfg s).stowHold) :
    (judgedCell s c (toldCell s n c .stow cause x)).state = .stow ∧
      (judgedCell s c (toldCell s n c .stow cause x)).lastStow = some (now s) ∧
      (judgedCell s c (toldCell s n c .stow cause x)).holdRun = 0 := by
  have htold := toldCell_levelled (s := s) (n := n) (c := c) (lv := .stow) (x := x) h2
  obtain ⟨hstate, hlast, hrun⟩ := judgedCell_stowed (s := s) (c := c)
    (x := toldCell s n c .stow cause x) (by rw [htold]; rfl) (by rw [htold]; rfl) hset
  exact ⟨hstate, hlast.trans (by rw [htold]; rfl), hrun⟩

/-! ### The orders of another station's WIND (R111, R144, R145) -/

theorem KnownDish.givesOrders (h : KnownDish s n) (hr : s.seq.station = .ready) :
    givesOrders (frameRead s n) = true := by
  have hheld : s.seq.held = false := by
    have hrec : receives s = true := h.1.1
    unfold receives at hrec
    simpa using (Bool.and_eq_true_iff.1 hrec).1
  show ((s.seq.station == .ready || s.seq.station == .faulted .clash) && !s.seq.held) = true
  simp [hr, hheld]

/-- A WIND by which the last working entry of a cell in another state than STOW goes gives the stow
order (R144, R145). -/
theorem takeWind_noSensor (hlv : levelOf level = some lv) (hc : c ≤ 7) (hx : cause ≤ 2)
    (h2 : cause = 2) (hw : WindOk s.wind) (hroom : HasRoom s n c)
    (hnone : workingEntries (toldCell s n c lv cause (cellAt s c)) = [])
    (ho : obeys s c = true) (hg : givesOrders s = true) (hs : (cellAt s c).state ≠ .stow) :
    InStow (takeWind s n c level cause) := by
  have honly := windTold_windOnly s n c lv cause
  have htold := cellAt_windTold (s := s) (n := n) (lv := lv) (cause := cause) (c := c)
    (by rw [hw.1]; omega)
  rw [takeWind_eq hlv hc hx hw.1 hroom, windOrdered, if_neg fun h => h.1 h2]
  refine judgeCells_noSensor (c := c) (by omega) ((windTold_length ..).trans hw.1)
    (by rw [honly.only]; exact ho) (by rw [honly.only]; exact hg) (by rw [htold]; exact hnone) ?_
  rw [htold, toldCell, if_pos h2, joinedCell_rest]
  exact hs

/-- The order of a WIND as the engine takes it, and the compact it has the station leave. -/
theorem takeWind_engine (hlv : levelOf level = some .stow) (hc : c ≤ 7) (hx : cause ≤ 2)
    (h2 : cause ≠ 2) (hw : WindOk s.wind) (hroom : HasRoom s n c)
    (hs : (cellAt s c).state ≠ .stow) (ho : obeys s c = true) (hg : givesOrders s = true) :
    (∀ r, FliesAlone s r → HasLeft 7 (takeWind s n c level cause) s.seq.number r reasonStow) ∧
      ∃ wu, (takeWind s n c level cause).axis = (stowOrder (s.withWind wu)).axis := by
  have hj := takeWind_ordered hlv hc hx h2 hw.1 hroom hs ho hg
  have honly := (windTold_windOnly s n c .stow cause).only
  obtain ⟨wu, hwu⟩ : ∃ wu, windTold s n c .stow cause = s.withWind wu := ⟨_, honly⟩
  rw [hwu] at hj
  exact ⟨fun r hr => hj.hasLeft (FliesAlone.stowOrder_hasLeft (s := s.withWind wu) hr) (by decide),
    wu, by rw [hj.only]; rfl⟩

/-- The entries of the other stations stand in the cell named (R137). -/
theorem joinedCell_others (he : e ∈ (joinedCell s n c lv cause x).roster) (hn : e.station ≠ n) :
    e ∈ x.roster := by
  have hjoin : e ∈ (joinRoster n x).roster := by
    unfold joinedCell reportedCell at he
    split at he
    · exact he
    · obtain ⟨z, hz, rfl⟩ := List.mem_map.1 he
      by_cases hzn : (z.station == n) = true
      · rw [if_pos hzn, reportedEntry_station] at hn
        exact absurd (by simpa using hzn) hn
      · rwa [if_neg hzn]
  unfold joinRoster at hjoin
  split at hjoin
  · exact hjoin
  · refine (List.mem_append.1 hjoin).resolve_right fun hnew => hn ?_
    rw [List.mem_singleton.1 hnew]

/-- A WIND of cause FAULTED leaves no entry that works where no other station's does (R139). -/
theorem toldCell_unworked (hk : keptOwn s n c = false) (ho : isOwnWind s n = false)
    (h2 : cause = 2) (hx : ∀ e ∈ x.roster, e.station ≠ n → e.working = false) :
    workingEntries (toldCell s n c lv cause x) = [] := by
  refine List.filter_eq_nil_iff.2 fun e he => ?_
  rw [toldCell_roster] at he
  by_cases hn : e.station = n
  · simp [(joinedCell_reports hk ho he hn).2, h2]
  · simp [hx e (joinedCell_others he hn) hn]

/-- A WATCH moves CALM to WATCH alone, and begins a settle interval again (R141). -/
theorem levelledCell_watch (s : State) (cause : Nat) (x : Cell) :
    (levelledCell s .watch cause x).state = (if x.state = .calm then .watch else x.state) ∧
      (x.state = .settle → (levelledCell s .watch cause x).settleStart = some (now s) ∧
        (levelledCell s .watch cause x).settleRun = 0) := by
  unfold levelledCell
  obtain ⟨state, why, lastStow, holdRun, settleStart, settleRun, roster⟩ := x
  cases state with
  | calm => exact ⟨rfl, nofun⟩
  | settle => exact ⟨rfl, fun _ => ⟨rfl, rfl⟩⟩
  | watch => exact ⟨rfl, nofun⟩
  | stow => exact ⟨rfl, nofun⟩

/-- Settles O50: the rosters, the cell named and the order, from the state the frame is read in. -/
theorem windReportsMoveTheCell : Obligations.WindReportsMoveTheCell := by
  refine ⟨fun s c level speed cause hf hh h1 h59 hw => ?_, fun s n c level speed cause hk hw => ?_⟩
  · -- a WIND of the own number after a clash
    have hexec := exec_windReceived_clash (c := c) (level := level) (cause := cause) speed hf hh h1
      h59
    refine ⟨fun hv => hexec.trans (congrArg Host.Outcome.next (takeWind_void hv)),
      fun hc hx hroom lv hlv => ⟨_, hexec, ?_⟩⟩
    have hclash : isClash (cleanRead s) = true := by
      show (s.seq.station == .faulted .clash) = true
      simp [hf]
    have hother : isOwnWind (cleanRead s) s.seq.number = false := by simp [isOwnWind, hclash]
    have hgives : givesOrders (cleanRead s) = true := by
      unfold givesOrders
      rw [hclash, Bool.or_true, Bool.true_and]
      exact (congrArg (!·) hh).trans rfl
    have hroom' : HasRoom (cleanRead s) s.seq.number c := hroom
    have hcell := takeWind_cell (s := cleanRead s) hlv hc hx hw hroom'
    have hsways := takeWind_sways (.refl (cleanRead s)) s.seq.number c level cause
    refine ⟨fun hfree => ?_, fun hown e he _ =>
      takeWind_ownEntry (s := cleanRead s) hlv hc hx hw hroom' ?_ he, ?_, ?_, hsways.time,
      hsways.lock, hsways.seq, hsways.sensor, hsways.keepOut, hsways.pins⟩
    · have hmoved : keptOwn (cleanRead s) s.seq.number c = false := by
        show (isClash (cleanRead s) && s.wind.ownEntry && s.seq.number == s.seq.number &&
          c == (cfg s).ownCell) = false
        rcases hfree with h | h
        · simp [h]
        · simp [h]
      rw [hcell, judgedCell_roster]
      exact Heeded.entry (x := cellAt s c) ⟨hmoved, hother, hroom⟩ lv cause
    · show (isClash (cleanRead s) && s.wind.ownEntry && s.seq.number == s.seq.number &&
        (cfg s).ownCell == (cfg s).ownCell) = true
      simp [hclash, hown]
    · rintro h2 rfl hset
      obtain ⟨hstate, hlast, hrun⟩ := judgedCell_restowed (s := cleanRead s) (n := s.seq.number)
        (c := c) (x := cellAt s c) h2 hset
      refine ⟨(congrArg Cell.state hcell).trans hstate, (congrArg Cell.lastStow hcell).trans hlast,
        (congrArg Cell.holdRun hcell).trans hrun, fun hs ho => ?_⟩
      have hin := takeWind_inStow (s := cleanRead s) hlv hc hx h2 hw hroom' hs ho hgives
      exact ⟨hin.ordered, hin.axisMark, hin.compactMark⟩
    · rintro h2 rfl hset hst hwork
      have hj := hcell.trans (judgedCell_resettled (s := cleanRead s) (x := cellAt s c) h2 hst
        (joinedCell_works hother h2 hroom hwork) hset)
      rw [hj]
      exact ⟨hst, rfl, rfl⟩
  · -- a WIND of another station
    have hexec : exec (.windReceived n c level speed cause) s =
        .next (takeWind (frameRead s n) n c level cause) :=
      congrArg Host.Outcome.next (takeDishFrame_known hk _)
    refine ⟨fun hv => hexec.trans (congrArg Host.Outcome.next (takeWind_void hv)),
      fun hc hx hroom lv hlv => ⟨_, hexec, ?_⟩⟩
    have hroom' : HasRoom (frameRead s n) n c := hroom
    have hne : n ≠ (frameRead s n).seq.number := hk.ne
    have hheed : Heeded (frameRead s n) n c (cellAt s c) :=
      ⟨keptOwn_other hne c, by simp [isOwnWind, hne], hroom⟩
    have hcell : cellAt (takeWind (frameRead s n) n c level cause) c =
        judgedCell (frameRead s n) c (toldCell (frameRead s n) n c lv cause (cellAt s c)) :=
      takeWind_cell (s := frameRead s n) hlv hc hx hw hroom'
    have hsways := takeWind_sways (.refl (frameRead s n)) n c level cause
    have hgives : s.seq.station = .ready → givesOrders (frameRead s n) = true := hk.givesOrders
    refine ⟨?_, fun d hd e he hn => takeWind_elsewhere (s := frameRead s n) hlv hc hx hw hroom'
      (keptOwn_other hne d) hd he hn, ?_, ?_, ?_, hsways.time, hsways.lock, hsways.seq,
      hsways.sensor, hsways.keepOut, hsways.pins, ?_, ?_, ?_, ?_⟩
    · rw [hcell, judgedCell_roster]
      exact hheed.entry lv cause
    · rintro h2 rfl
      rw [hcell, hheed.stow h2]
      refine ⟨rfl, ?_, rfl, rfl, fun hs hr ho => ?_⟩
      · show some (stowCauseOf cause) = _
        simp [stowCauseOf]
      · have hin := takeWind_inStow (s := frameRead s n) hlv hc hx h2 hw hroom' hs ho (hgives hr)
        exact ⟨hin.ordered, hin.axisMark, hin.compactMark⟩
    · rintro h2 rfl hset
      rw [hcell, hheed.watch h2 hset, toldCell_levelled h2]
      exact levelledCell_watch (frameRead s n) cause _
    · rintro h2 rfl
      obtain ⟨hcalm, hwatch, -⟩ := levelsCell_calmed (hcell.trans (hheed.calm h2))
      exact ⟨hcalm, hwatch⟩
    · rintro h2 rfl hcfg
      obtain ⟨-, -, hruns⟩ := levelsCell_calmed (hcell.trans (hheed.calm h2))
      exact hruns hcfg
    · rintro h2 hnone hr ho
      have hnow := toldCell_unworked (lv := lv) hheed.moved hheed.other h2 hnone
      have hstow := hcell.trans (judgedCell_noSensor hnow ho (hgives hr))
      rw [hstow]
      refine ⟨rfl, rfl, rfl, fun hs => ?_⟩
      have hin := takeWind_noSensor (s := frameRead s n) hlv hc hx h2 hw hroom' hnow ho (hgives hr)
        hs
      exact ⟨hin.ordered, hin.axisMark, hin.compactMark⟩
    · rintro h2 rfl hs ho r hr
      have hready : s.seq.station = .ready := hr.1
      exact HasLeft.leftBy (s := s) ((takeWind_engine (s := frameRead s n) hlv hc hx h2 hw hroom' hs
        ho (hgives hready)).1 r hr)
    · rintro h2 rfl hs hr ho hm a ha
      obtain ⟨wu, haxis⟩ := (takeWind_engine (s := frameRead s n) hlv hc hx h2 hw hroom' hs ho
        (hgives hr)).2
      rw [haxis]
      exact stowOrder_engine (s := (frameRead s n).withWind wu) hm hr ha

end Sys2Proof.Machine
end

section
/-! PROOFS. A peer that is lost, and the own BEACON (R85, R87, R89, R90, R110, R137, R175). -/

namespace Sys2Proof.Machine

variable {s t u : State} {n p id k reason : Nat} {r : CompactRecord} {m : MemberState}

/-! ### What the work on records and cells leaves as it was -/

/-- The loans, the flags but those of R189's moves and compacts, and the rosters are as they were,
and of the Line Unit the queue alone changes. -/
structure Aside (s t : State) : Prop where
  loans : t.share.loans = s.share.loans
  flags : ∀ k, isWorkFlag k = false → flagRecord t k = flagRecord s k
  rosters : t.wind.cells.map (·.roster) = s.wind.cells.map (·.roster)
  line : OnlyQueued s t

theorem Aside.refl (s : State) : Aside s s := ⟨rfl, fun _ _ => rfl, rfl, .of_eq rfl⟩

theorem Aside.trans (h : Aside s t) (k : Aside t u) : Aside s u :=
  ⟨k.loans.trans h.loans, fun j hj => (k.flags j hj).trans (h.flags j hj),
    k.rosters.trans h.rosters, h.line.trans k.line⟩

theorem Beside.aside (h : Beside s t) : Aside s t := ⟨h.loans, h.flags, h.rosters, h.line⟩

theorem withMember_aside (s : State) (id n : Nat) (m : MemberState) :
    Aside s (withMember s id n m) := ⟨rfl, fun _ _ => rfl, rfl, .of_eq rfl⟩

/-! ### A member that leaves (R109, R110) -/

theorem memberLeaves_live (h : findRecord s id = some r) (hl : isLive r = true)
    (hm : memberState r n = some m) (hy : mayLeave m = true) :
    memberLeaves s id n reason = afterLeft (withMember s id n (.left reason)) id := by
  unfold memberLeaves
  rw [h]
  exact if_pos (by simp [hl, hm, hy])

/-- A member that has left leaves no record again. -/
theorem memberLeaves_left {old : Nat} (h : findRecord s id = some r)
    (hm : memberState r n = some (.left old)) : memberLeaves s id n reason = s := by
  unfold memberLeaves
  rw [h]
  exact if_neg (by simp [hm, mayLeave])

theorem memberLeaves_cases (s : State) (id n reason : Nat) :
    memberLeaves s id n reason = s ∨
      memberLeaves s id n reason = afterLeft (withMember s id n (.left reason)) id := by
  unfold memberLeaves
  split
  · split
    · exact .inr rfl
    · exact .inl rfl
  · exact .inl rfl

theorem memberLeaves_aside (s : State) (id n reason : Nat) :
    Aside s (memberLeaves s id n reason) := by
  rcases memberLeaves_cases s id n reason with h | h
  · rw [h]
    exact .refl s
  · rw [h]
    exact (withMember_aside ..).trans (afterLeft_beside _ id).aside

theorem findRecord_memberLeaves_ne (s : State) (hk : k ≠ id) (n reason : Nat) :
    findRecord (memberLeaves s id n reason) k = findRecord s k := by
  rcases memberLeaves_cases s id n reason with h | h
  · rw [h]
  · rw [h, findRecord_afterLeft_ne _ hk, findRecord_withMember_ne _ hk]

/-- The record holds the member as LEFT for a reason. -/
def LeftIn (s : State) (id n reason : Nat) : Prop :=
  ∃ r, findRecord s id = some r ∧ memberState r n = some (.left reason)

theorem memberLeaves_leftIn (h : findRecord s id = some r) (hl : isLive r = true)
    (hm : memberState r n = some m) (hy : mayLeave m = true) :
    LeftIn (memberLeaves s id n reason) id n reason := by
  rw [memberLeaves_live h hl hm hy]
  obtain ⟨x, hx, hleft, -⟩ := member_afterLeft (r := setMember r n (.left reason))
    (findRecord_withMember h n (.left reason)) hl (memberState_setMember hm _)
  exact ⟨x, hx, hleft⟩

theorem LeftIn.memberLeaves (h : LeftIn s id n reason) (k : Nat) :
    LeftIn (memberLeaves s k n reason) id n reason := by
  obtain ⟨r, hr, hm⟩ := h
  by_cases hk : id = k
  · subst hk
    rw [memberLeaves_left hr hm]
    exact ⟨r, hr, hm⟩
  · exact ⟨r, (findRecord_memberLeaves_ne s hk n reason).trans hr, hm⟩

theorem LeftIn.foldl (l : List Nat) (h : LeftIn s id n reason) :
    LeftIn (l.foldl (fun t k => Machine.memberLeaves t k n reason) s) id n reason := by
  induction l generalizing s with
  | nil => exact h
  | cons k l ih => exact ih (h.memberLeaves k)

/-- Each record of a list that the member may leave holds it as LEFT in the end. -/
theorem foldl_memberLeaves (l : List Nat) (hid : id ∈ l) (h : findRecord s id = some r)
    (hl : isLive r = true) (hm : memberState r n = some m) (hy : mayLeave m = true) :
    LeftIn (l.foldl (fun t k => memberLeaves t k n reason) s) id n reason := by
  induction l generalizing s with
  | nil => cases hid
  | cons k l ih =>
    by_cases hk : id = k
    · subst hk
      exact (memberLeaves_leftIn h hl hm hy).foldl l
    · exact ih ((List.mem_cons.1 hid).resolve_left hk)
        ((findRecord_memberLeaves_ne s hk n reason).trans h)

/-- A lost dish is LEFT(ABSENT) in every record it may leave (R110). -/
theorem compactPeerLost_leftIn (hd : isDish n = true) (h : findRecord s id = some r)
    (hl : isLive r = true) (hm : memberState r n = some m) (hy : mayLeave m = true) :
    LeftIn (compactPeerLost s n) id n 17 := by
  unfold compactPeerLost
  rw [if_pos hd]
  have hmem : id ∈ s.compact.list.map (·.id) :=
    List.mem_map.2 ⟨r, (findRecord_some h).1, (findRecord_some h).2⟩
  exact foldl_memberLeaves (reason := 17) _ hmem h hl hm hy

theorem compactPeerLost_aside (s : State) (n : Nat) : Aside s (compactPeerLost s n) := by
  unfold compactPeerLost
  split
  · generalize s.compact.list.map (·.id) = l
    induction l generalizing s with
    | nil => exact .refl s
    | cons k l ih => exact (memberLeaves_aside s k n reasonAbsent).trans (ih _)
  · exact .refl s

/-- The judgement of the cells leaves the states of the other members as they were. -/
theorem LeftIn.beside (h : LeftIn s id n reason) (hb : Beside s t) (hn : n ≠ s.seq.number) :
    LeftIn t id n reason := by
  obtain ⟨r, hr, hm⟩ := h
  obtain ⟨x, hx, hrx⟩ := hb.records id r hr
  exact ⟨x, hx, (hrx.others n hn).trans hm⟩

/-! ### The loan with a lost peer (R175) -/

theorem LoansOk.unique (ok : LoansOk s.share) {a b : Loan} (ha : a ∈ s.share.loans)
    (hb : b ∈ s.share.loans) (h : a.peer = b.peer) : a = b :=
  List.inj_on_of_nodup_map (List.pairwise_map.2 ok.2) ha hb h

/-- The one loan with a peer is the peer's entry in its direction (R170). -/
theorem dropLoan_peer (ok : LoansOk s.share) {e : Loan} (he : e ∈ s.share.loans) :
    dropLoan s.share.loans e.peer e.lent = s.share.loans.filter fun x => x.peer != e.peer := by
  refine List.filter_congr fun x hx => ?_
  by_cases hp : x.peer = e.peer
  · have : x = e := ok.unique hx he hp
    simp [this]
  · have hb : (x.peer == e.peer) = false := by simpa using hp
    rw [bne, hb]
    rfl

theorem findLoan_none_iff : (findLoan s p false).isSome = false ∧
    (findLoan s p true).isSome = false ↔ ∀ e ∈ s.share.loans, e.peer ≠ p := by
  simp only [findLoan, Bool.eq_false_iff]
  constructor
  · rintro ⟨hf, ht⟩ e he rfl
    cases hl : e.lent
    · exact hf (List.find?_isSome.2 ⟨e, he, by simp [hl]⟩)
    · exact ht (List.find?_isSome.2 ⟨e, he, by simp [hl]⟩)
  · intro h
    refine ⟨fun hs => ?_, fun hs => ?_⟩
    · obtain ⟨e, he, hp⟩ := List.find?_isSome.1 hs
      exact h e he (by simp at hp; exact hp.1)
    · obtain ⟨e, he, hp⟩ := List.find?_isSome.1 hs
      exact h e he (by simp at hp; exact hp.1)

theorem removeBorrowed_loans (ok : LoansOk s.share) {e : Loan} (h : findLoan s p false = some e) :
    (removeBorrowed s p).share.loans = s.share.loans.filter fun x => x.peer != p := by
  obtain ⟨w, -, hgone⟩ := removeBorrowed_withdrawn h
  obtain ⟨hmem, rfl, hlent⟩ := findLoan_some h
  rw [← dropLoan_peer ok hmem, hlent]
  exact hgone.loans

theorem removeLent_loans (ok : LoansOk s.share) {e : Loan} (h : findLoan s p true = some e) :
    (removeLent s p).share.loans = s.share.loans.filter fun x => x.peer != p := by
  have hgone : Silent (s.withShare { s.share with loans := dropLoan s.share.loans p true })
      (removeLent s p) := settlePower_silent (.refl _) s
  obtain ⟨hmem, rfl, hlent⟩ := findLoan_some h
  rw [← dropLoan_peer ok hmem, hlent]
  exact hgone.loans

/-- The loans with a peer are dropped, and LOAN_LOST names it (R175). -/
theorem dropLoanWith_drops (ok : LoansOk s.share) (p : Nat) :
    (dropLoanWith s p).share.loans = s.share.loans.filter (fun x => x.peer != p) ∧
      (s.report.flags.length = 16 → (∃ e ∈ s.share.loans, e.peer = p) →
        flagRecord (dropLoanWith s p) flagLoanLost = ⟨true, p, 0, now s⟩) := by
  have hflag : ∀ {t}, Quiet s t → s.report.flags.length = 16 →
      flagRecord (setFlag t flagLoanLost p 0) flagLoanLost = ⟨true, p, 0, now s⟩ :=
    fun hq hl => by
      rw [(setFlag_records (hq.flags.trans hl) (by decide) p 0).1, now, hq.time]
      rfl
  unfold dropLoanWith
  split
  · obtain ⟨e, he⟩ := Option.isSome_iff_exists.1 ‹(findLoan s p false).isSome = true›
    exact ⟨(setFlag_silent ..).loans.trans (removeBorrowed_loans ok he),
      fun hl _ => hflag (removeBorrowed_quiet (.refl s) p) hl⟩
  · split
    · obtain ⟨e, he⟩ := Option.isSome_iff_exists.1 ‹(findLoan s p true).isSome = true›
      exact ⟨(setFlag_silent ..).loans.trans (removeLent_loans ok he),
        fun hl _ => hflag (removeLent_quiet (.refl s) p) hl⟩
    · have hnone := findLoan_none_iff.1 ⟨Bool.eq_false_iff.2 ‹_›, Bool.eq_false_iff.2 ‹_›⟩
      refine ⟨(List.filter_eq_self.2 fun e he => by simpa using hnone e he).symm,
        fun _ ⟨e, he, hp⟩ => absurd hp (hnone e he)⟩

/-! ### The notices of a lost peer (R87) -/

/-- What the Share and the Compact Unit have made of a lost dish: no loan with it, LOAN_LOST where
there was one, and LEFT(ABSENT) in the records it may leave. -/
structure PeerLost (s t : State) (n : Nat) : Prop where
  loans : LoansOk s.share → ∀ e ∈ t.share.loans, e.peer ≠ n
  flag : LoansOk s.share → s.report.flags.length = 16 → (∃ e ∈ s.share.loans, e.peer = n) →
    flagRecord t flagLoanLost = ⟨true, n, 0, now s⟩
  left : n ≠ s.seq.number → ∀ {id r m}, findRecord s id = some r → isLive r = true →
    memberState r n = some m → mayLeave m = true → LeftIn t id n 17

theorem PeerLost.beside (h : PeerLost s t n) (hb : Beside t u) (hs : t.seq = s.seq) :
    PeerLost s u n where
  loans := fun ok => hb.loans.symm ▸ h.loans ok
  flag := fun ok hl he => (hb.flags _ (by decide)).trans (h.flag ok hl he)
  left := fun hn _ _ _ hr hl hm hy => (h.left hn hr hl hm hy).beside hb (hs.symm ▸ hn)

theorem sharePeerLost_drops (hd : isDish n = true) (ok : LoansOk s.share) :
    (sharePeerLost s n).share.loans = s.share.loans.filter (fun x => x.peer != n) ∧
      (s.report.flags.length = 16 → (∃ e ∈ s.share.loans, e.peer = n) →
        flagRecord (sharePeerLost s n) flagLoanLost = ⟨true, n, 0, now s⟩) := by
  unfold sharePeerLost
  rw [if_pos hd]
  exact dropLoanWith_drops ok n

theorem sharePeerLost_compact (s : State) (n : Nat) : (sharePeerLost s n).compact = s.compact :=
  (sharePeerLost_quiet (.refl s) n).compact

theorem compactPeerLost_peerLost (hd : isDish n = true) :
    PeerLost s (compactPeerLost (sharePeerLost s n) n) n := by
  have haside := compactPeerLost_aside (sharePeerLost s n) n
  refine ⟨fun ok e he => ?_, fun ok hl he => ?_, fun _ _ _ _ hr hl hm hy => ?_⟩
  · rw [haside.loans, (sharePeerLost_drops hd ok).1] at he
    simpa using (List.mem_filter.1 he).2
  · exact (haside.flags _ (by decide)).trans ((sharePeerLost_drops hd ok).2 hl he)
  · exact compactPeerLost_leftIn hd
      ((findRecord_congr (sharePeerLost_compact s n) _).trans hr) hl hm hy

/-- A station's entries changed in every cell, and the cells judged. -/
def judgeEntries (s : State) (n : Nat) (f : RosterEntry → RosterEntry) : State :=
  judgeCells (changeCells s fun _ x => changeEntry n f x) true

theorem windPeerAbsent_eq (s : State) (n : Nat) :
    windPeerAbsent s n = judgeEntries s n fun e => { e with working := false } := rfl

theorem windPeerRestarted_eq (s : State) (n : Nat) :
    windPeerRestarted s n = judgeEntries s n fun e => { e with level := none } := rfl

/-- The entries of the station are as they were changed (R137). -/
theorem judgeEntries_roster {f : RosterEntry → RosterEntry} {P : RosterEntry → Prop}
    (hf : ∀ e, P (f e)) : ∀ x ∈ (judgeEntries s n f).wind.cells, ∀ e ∈ x.roster,
      e.station = n → P e := by
  intro x hx e he hn
  have hroster : x.roster ∈ (judgeEntries s n f).wind.cells.map (·.roster) :=
    List.mem_map_of_mem hx
  rw [judgeEntries, (judgeCells_beside _ true).rosters] at hroster
  obtain ⟨y, hy, hyx⟩ := List.mem_map.1 hroster
  obtain ⟨i, hi, rfl⟩ := List.mem_mapIdx.1 hy
  rw [← hyx] at he
  obtain ⟨z, -, rfl⟩ := List.mem_map.1 he
  split at hn
  · rename_i hz
    rw [if_pos hz]
    exact hf z
  · rename_i hz
    exact absurd (by simpa using hn) hz

/-- The judgement of changed rosters leaves what the notice has made of the loans and records. -/
theorem PeerLost.judgeEntries (h : PeerLost s t n) (hs : t.seq = s.seq)
    (f : RosterEntry → RosterEntry) : PeerLost s (judgeEntries t n f) n := by
  have hchanged : PeerLost s (changeCells t fun _ x => changeEntry n f x) n :=
    ⟨h.loans, h.flag, h.left⟩
  exact hchanged.beside (judgeCells_beside _ true) hs

theorem peersLost_seq (s : State) (n : Nat) :
    (compactPeerLost (sharePeerLost s n) n).seq = s.seq :=
  ((sharePeerLost_quiet (.refl s) n).keeps.trans (compactPeerLost_keeps (.refl _) n)).seq

theorem peerAbsentNotice_peerLost (hd : isDish n = true) : PeerLost s (peerAbsentNotice s n) n :=
  (compactPeerLost_peerLost hd).judgeEntries (peersLost_seq s n) _

theorem peerRestarted_peerLost (hd : isDish n = true) : PeerLost s (peerRestarted s n) n :=
  (compactPeerLost_peerLost hd).judgeEntries (peersLost_seq s n) _

/-- The entries of an absent station do not work (R137). -/
theorem peerAbsentNotice_roster (s : State) (n : Nat) : ∀ x ∈ (peerAbsentNotice s n).wind.cells,
    ∀ e ∈ x.roster, e.station = n → e.working = false := by
  rw [peerAbsentNotice, windPeerAbsent_eq]
  exact judgeEntries_roster fun _ => rfl

/-- The entries of a station that has restarted hold no level (R137). -/
theorem peerRestarted_roster (s : State) (n : Nat) : ∀ x ∈ (peerRestarted s n).wind.cells,
    ∀ e ∈ x.roster, e.station = n → e.level = none := by
  rw [peerRestarted, windPeerRestarted_eq]
  exact judgeEntries_roster fun _ => rfl

/-! ### PEER_ABSENT and BEACON_INTERVAL -/

theorem exec_peerAbsent_due (h : (peerEntry s n).present = true)
    (hs : 1500 ≤ (peerEntry s n).silence) : exec (.peerAbsent n) s =
      .next (peerAbsentNotice (setPeer s { peerEntry s n with present := false }) n) := by
  refine congrArg Host.Outcome.next ?_
  unfold peerSilent
  exact if_pos (by simp [h, hs])

theorem exec_beaconInterval_due {r : Nat} {p : Encoders} (h : s.peers.beaconRun = some r)
    (hr : 250 ≤ r) (ht : transmits s = true) :
    exec (.beaconInterval p) s = .next (queueBeacon (readEncoders s p)) := by
  refine congrArg Host.Outcome.next ?_
  unfold beaconDue
  rw [h]
  exact if_pos (by simp [hr, ht])

/-- Settles O22: the notice of the absence goes from the Share Unit to the Wind Unit, and each keeps
what those before it have made. -/
theorem presenceAndBeaconsAreTimed : Obligations.PresenceAndBeaconsAreTimed := by
  refine ⟨fun s n _ ok hp hs => ?_, fun s p r hrun hr ht => ?_⟩
  · obtain ⟨v, hv⟩ : ∃ v, v = setPeer s { peerEntry s n with present := false } := ⟨_, rfl⟩
    have hnow : now v = now s := by rw [hv]; rfl
    have hlost : isDish n = true → PeerLost v (peerAbsentNotice v n) n := peerAbsentNotice_peerLost
    have hsways := peerAbsentNotice_sways v n
    have hpeer : ∀ m, peerEntry (peerAbsentNotice v n) m =
        if m = n then { peerEntry s n with present := false } else peerEntry s m := fun m => by
      rw [peerEntry_congr (congrArg PeerUnit.table hsways.peers), hv, peerEntry_setPeer]
      dsimp only
      rw [peerEntry_station]
    have hroster := peerAbsentNotice_roster v n
    have hexec := exec_peerAbsent_due hp hs
    rw [← hv] at hexec
    generalize peerAbsentNotice v n = t at *
    refine ⟨t, hexec, (hpeer n).trans (if_pos rfl),
      fun m hm => (hpeer m).trans (if_neg hm), fun hd => (hlost hd).loans (by rw [hv]; exact ok),
      hroster, fun hd hl he => ?_, fun hd hn _ id r m hr hl hm hy => ?_,
      ?_, ?_, ?_, ?_, ?_⟩
    · exact ((hlost hd).flag (by rw [hv]; exact ok) (by rw [hv]; exact hl)
        (by rw [hv]; exact he)).trans (by rw [hnow])
    · exact (hlost hd).left (by rw [hv]; exact hn) (by rw [hv]; exact hr) hl hm hy
    · rw [hsways.time, hv]; rfl
    · rw [hsways.lock, hv]; rfl
    · rw [hsways.seq, hv]; rfl
    · rw [hsways.keepOut, hv]; rfl
    · rw [hsways.sensor, hv]; rfl
  · rw [exec_beaconInterval_due hrun hr ht]
    refine congrArg Host.Outcome.next ?_
    unfold queueBeacon
    dsimp only
    rw [(queueFrame_silent (.refl (readEncoders s p)) _).peers]
    rfl

end Sys2Proof.Machine
end

section
/-! PROOFS. A BEACON's sensor report as the rosters and the cell it names take it (R136, R137,
R139 to R141). -/

namespace Sys2Proof.Machine

variable {s t u w : State} {n c d : Nat} {x y : Cell} {lv : Level} {st : Status} {e : RosterEntry}

/-! ### Rosters -/

theorem cellAt_rosters (h : t.wind.cells.map (·.roster) = s.wind.cells.map (·.roster)) (d : Nat) :
    (cellAt t d).roster = (cellAt s d).roster := by
  have hat : ∀ v : State, (cellAt v d).roster =
      (v.wind.cells.map (·.roster)).getD d Cell.initial.roster := fun v => by
    simp only [cellAt, List.getD_eq_getElem?_getD, List.getElem?_map]
    cases v.wind.cells[d]? <;> rfl
  rw [hat, hat, h]

theorem length_rosters (h : t.wind.cells.map (·.roster) = s.wind.cells.map (·.roster)) :
    t.wind.cells.length = s.wind.cells.length := by
  simpa using congrArg List.length h

theorem cellAt_changeEntries (s : State) (n : Nat) (f : RosterEntry → RosterEntry) (d : Nat) :
    (cellAt (changeCells s fun _ x => changeEntry n f x) d).roster =
      (changeEntry n f (cellAt s d)).roster := by
  by_cases hd : d < s.wind.cells.length
  · rw [cellAt_changeCells hd]
  · have hlen : (changeCells s fun _ x => changeEntry n f x).wind.cells.length =
        s.wind.cells.length := List.length_mapIdx
    have hnone : ∀ v : State, ¬ d < v.wind.cells.length → cellAt v d = Cell.initial := by
      intro v hv
      have : v.wind.cells[d]? = none := List.getElem?_eq_none (by omega)
      simp [cellAt, List.getD_eq_getElem?_getD, this]
    rw [hnone _ (hlen ▸ hd), hnone s hd]
    rfl

/-- The station's entry in a cell's record, its level. -/
def levelIn (x : Cell) (n : Nat) : Option Level :=
  (x.roster.find? fun e => e.station == n).bind (·.level)

theorem entryLevel_eq (s : State) (c n : Nat) : entryLevel s c n = levelIn (cellAt s c) n := rfl

theorem levelIn_congr (h : y.roster = x.roster) : levelIn y n = levelIn x n := by
  rw [levelIn, h]
  rfl

theorem levelIn_changeEntry {f : RosterEntry → RosterEntry} (hf : ∀ e, (f e).station = e.station)
    (x : Cell) : levelIn (changeEntry n f x) n =
      (x.roster.find? fun e => e.station == n).bind fun e => (f e).level := by
  have hstation : ((fun e : RosterEntry => e.station == n) ∘ fun e =>
      if e.station == n then f e else e) = fun e => e.station == n := funext fun e => by
    dsimp only [Function.comp]
    split
    · rw [hf]
    · rfl
  unfold levelIn changeEntry
  dsimp only
  rw [List.find?_map, hstation]
  cases h : x.roster.find? fun e => e.station == n with
  | none => rfl
  | some e =>
    have he : (e.station == n) = true := by simpa using List.find?_some h
    simp only [Option.map_some, Option.bind_some]
    rw [if_pos he]

theorem levelIn_joinRoster (n : Nat) (x : Cell) : levelIn (joinRoster n x) n = levelIn x n := by
  unfold joinRoster
  by_cases h : (x.roster.any (fun e => e.station == n) || decide (8 ≤ x.roster.length)) = true
  · rw [if_pos h]
  · rw [if_neg h]
    have hnone : x.roster.find? (fun e => e.station == n) = none := by
      refine List.find?_eq_none.2 fun e he hn => h ?_
      rw [Bool.or_eq_true]
      exact .inl (List.any_eq_true.2 ⟨e, he, hn⟩)
    unfold levelIn
    dsimp only
    rw [List.find?_append, hnone]
    simp

theorem mem_changeEntry {f : RosterEntry → RosterEntry} (he : e ∈ (changeEntry n f x).roster)
    (hn : e.station = n) :
    ∃ z ∈ x.roster, z.station = n ∧ e = f z := by
  obtain ⟨z, hz, rfl⟩ := List.mem_map.1 he
  by_cases hzn : (z.station == n) = true
  · exact ⟨z, hz, by simpa using hzn, if_pos hzn⟩
  · rw [if_neg hzn] at hn
    exact absurd (by simpa using hn) hzn

theorem changeEntry_mem (f : RosterEntry → RosterEntry) (he : e ∈ x.roster)
    (hn : e.station = n) : f e ∈ (changeEntry n f x).roster :=
  List.mem_map.2 ⟨e, he, if_pos (by simpa using hn)⟩

/-! ### The level report -/

/-- But for its entry, a level report leaves the rosters and all beside the stow order. -/
theorem levelReport_beside (s : State) (n c : Nat) (lv : Level) (k : Option WindCause) :
    Beside (reportEntry s n c fun e => { e with level := some lv }) (levelReport s n c lv k) := by
  unfold levelReport
  generalize reportEntry s n c (fun e => { e with level := some lv }) = t
  cases lv with
  | stow =>
    dsimp only
    split
    · exact changeCell_beside t c fun _ => rfl
    · refine Beside.trans ?_ (orderFor_beside _ c)
      exact changeCell_beside t c fun _ => rfl
  | watch => exact changeCell_beside t c fun x => by split <;> rfl
  | calm => exact .refl t

/-- A STOW report puts its cell in STOW and begins the hold again (R140). -/
theorem levelReport_stow (hc : c < s.wind.cells.length) (k : Option WindCause) :
    ∃ why, cellAt (levelReport s n c .stow k) c =
      { cellStow why (reportedCell s n c (fun e => { e with level := some .stow }) (cellAt s c))
        with
        lastStow := some (now s), holdRun := 0 } := by
  have hcell : ∀ f, cellAt (changeCell (reportEntry s n c fun e =>
      { e with level := some .stow }) c f) c =
      f (reportedCell s n c (fun e => { e with level := some .stow }) (cellAt s c)) := fun f => by
    rw [cellAt_changeCell (by rw [reportEntry_length]; exact hc), cellAt_reportEntry hc]
  have hnow : now (reportEntry s n c fun e => { e with level := some .stow }) = now s := by
    rw [(reportEntry_windOnly s n c _).only]
    rfl
  unfold levelReport
  dsimp only
  split
  · exact ⟨_, hcell _⟩
  · refine ⟨k.getD .speed, ?_⟩
    unfold cellAt
    rw [(orderFor_ruled _ c).cells]
    exact hcell _

/-! ### The sensor report of a BEACON -/

/-- The entry as a BEACON reports its status (R137, R139). -/
def beaconEntry (st : Status) (e : RosterEntry) : RosterEntry :=
  { e with status := st, working := st != .faulted }

/-- The state once the station has named its cell and reported its status. -/
def beaconNamed (s : State) (n c : Nat) (st : Status) : State :=
  reportEntry (nameCell s n c) n c (beaconEntry st)

/-- A level that is new is a level report (R139). -/
def beaconTold (s : State) (n c : Nat) (st : Status) (lv : Level) : State :=
  if st ≠ .faulted ∧ entryLevel (beaconNamed s n c st) c n ≠ some lv then
    levelReport (beaconNamed s n c st) n c lv none
  else beaconNamed s n c st

theorem beaconSensorReport_eq (hc : c ≤ 7) (hl : s.wind.cells.length = 8) (hroom : HasRoom s n c) :
    beaconSensorReport s n true c st lv = judgeCells (beaconTold s n c st lv) true := by
  have hname : cellAt (nameCell s n c) c = joinRoster n (cellAt s c) :=
    (cellAt_nameCell (by omega)).trans (if_pos (beq_self_eq_true c))
  have hin : inRoster (nameCell s n c) c n = true := by
    obtain ⟨e, he, hn⟩ := mem_joinRoster hroom
    rw [inRoster, hname]
    exact List.any_eq_true.2 ⟨e, he, by simpa using hn⟩
  unfold beaconSensorReport
  dsimp only
  rw [if_pos rfl, if_neg (by simp [hin])]
  unfold beaconTold
  by_cases h : st ≠ .faulted ∧ entryLevel (beaconNamed s n c st) c n ≠ some lv
  · rw [if_pos h]
    refine if_pos ?_
    show (st != .faulted && entryLevel (beaconNamed s n c st) c n != some lv) = true
    simp [h.1, h.2]
  · rw [if_neg h]
    refine if_neg fun hb => h ?_
    change (st != .faulted && entryLevel (beaconNamed s n c st) c n != some lv) = true at hb
    simpa using hb

theorem beaconNamed_windOnly (s : State) (n c : Nat) (st : Status) :
    WindOnly s (beaconNamed s n c st) :=
  (nameCell_windOnly s n c).trans (reportEntry_windOnly _ n c _)

theorem beaconNamed_length (s : State) (n c : Nat) (st : Status) :
    (beaconNamed s n c st).wind.cells.length = s.wind.cells.length :=
  (reportEntry_length _).trans List.length_mapIdx

theorem cellAt_beaconNamed (hk : keptOwn s n c = false) (hc : c < s.wind.cells.length) :
    cellAt (beaconNamed s n c st) c =
      changeEntry n (beaconEntry st) (joinRoster n (cellAt s c)) := by
  have hname : cellAt (nameCell s n c) c = joinRoster n (cellAt s c) :=
    (cellAt_nameCell hc).trans (if_pos (beq_self_eq_true c))
  have hlen : c < (nameCell s n c).wind.cells.length := by
    rw [show (nameCell s n c).wind.cells.length = _ from List.length_mapIdx]
    exact hc
  rw [beaconNamed, cellAt_reportEntry hlen, hname]
  exact if_neg (by rw [show keptOwn (nameCell s n c) n c = keptOwn s n c from rfl, hk]; exact nofun)

theorem cellAt_beaconNamed_ne (hk : keptOwn s n d = false) (hd : d ≠ c)
    (hl : d < s.wind.cells.length) :
    cellAt (beaconNamed s n c st) d = changeEntry n entryGone (cellAt s d) := by
  rw [beaconNamed, cellAt_reportEntry_ne hd, cellAt_nameCell hl, namedCell,
    if_neg (by simpa using hd), hk]
  rfl

/-- The level that a BEACON finds is the one held before it (R139). -/
theorem entryLevel_beaconNamed (hk : keptOwn s n c = false) (hc : c < s.wind.cells.length) :
    entryLevel (beaconNamed s n c st) c n = entryLevel s c n := by
  rw [entryLevel_eq, cellAt_beaconNamed hk hc, levelIn_changeEntry (f := beaconEntry st)
    fun _ => rfl]
  exact levelIn_joinRoster n (cellAt s c)

theorem beaconTold_level (h : st ≠ .faulted ∧ entryLevel (beaconNamed s n c st) c n ≠ some lv) :
    Beside (reportEntry (beaconNamed s n c st) n c fun e => { e with level := some lv })
      (beaconTold s n c st lv) := by
  rw [beaconTold, if_pos h]
  exact levelReport_beside _ n c lv none

theorem keptOwn_beaconNamed (s : State) (n c d : Nat) (st : Status) :
    keptOwn (beaconNamed s n c st) n d = keptOwn s n d := by
  unfold beaconNamed reportEntry
  split <;> rfl

/-- The station has an entry of its status and level in the cell it names. -/
theorem beaconTold_entry (hk : keptOwn s n c = false) (hc : c < s.wind.cells.length)
    (hroom : HasRoom s n c) : ∃ e ∈ (cellAt (beaconTold s n c st lv) c).roster, e.station = n ∧
      e.status = st ∧ e.working = decide (st ≠ .faulted) ∧
      (st ≠ .faulted → e.level = some lv) := by
  have hwork : (st != .faulted) = decide (st ≠ .faulted) := by cases st <;> rfl
  obtain ⟨z, hz, hn⟩ := mem_joinRoster hroom
  have hentry := changeEntry_mem (beaconEntry st) hz hn
  by_cases h : st ≠ .faulted ∧ entryLevel (beaconNamed s n c st) c n ≠ some lv
  · rw [cellAt_rosters (beaconTold_level h).rosters,
      cellAt_reportEntry (by rw [beaconNamed_length]; exact hc), cellAt_beaconNamed hk hc,
      reportedCell, keptOwn_beaconNamed, hk]
    exact ⟨_, changeEntry_mem _ hentry hn, hn, rfl, hwork, fun _ => rfl⟩
  · rw [beaconTold, if_neg h]
    by_cases hst : st = .faulted
    · rw [cellAt_beaconNamed hk hc]
      exact ⟨_, hentry, hn, rfl, hwork, fun hne => absurd hst hne⟩
    · have hlevel : entryLevel (beaconNamed s n c st) c n = some lv :=
        not_not.1 fun hne => h ⟨hst, hne⟩
      obtain ⟨e, hfind, hlv⟩ := Option.bind_eq_some_iff.1 hlevel
      have hmem := List.mem_of_find?_eq_some hfind
      have hen : e.station = n := by simpa using List.find?_some hfind
      have hmem' := hmem
      rw [cellAt_beaconNamed hk hc] at hmem'
      obtain ⟨y, -, -, hy⟩ := mem_changeEntry (f := beaconEntry st) hmem' hen
      exact ⟨e, hmem, hen, by rw [hy]; rfl, by rw [hy]; exact hwork, fun _ => hlv⟩

/-- Elsewhere the station's entry is gone (R137). -/
theorem beaconTold_elsewhere (hk : keptOwn s n d = false) (hd : d ≠ c)
    (he : e ∈ (cellAt (beaconTold s n c st lv) d).roster) (hn : e.station = n) :
    e.working = false ∧ e.level = none := by
  have hroster : (cellAt (beaconTold s n c st lv) d).roster =
      (cellAt (beaconNamed s n c st) d).roster := by
    by_cases h : st ≠ .faulted ∧ entryLevel (beaconNamed s n c st) c n ≠ some lv
    · rw [cellAt_rosters (beaconTold_level h).rosters, cellAt_reportEntry_ne hd]
    · rw [beaconTold, if_neg h]
  rw [hroster] at he
  by_cases hl : d < s.wind.cells.length
  · rw [cellAt_beaconNamed_ne hk hd hl] at he
    exact changeEntry_gone he hn
  · have hnone : (beaconNamed s n c st).wind.cells[d]? = none :=
      List.getElem?_eq_none (by rw [beaconNamed_length]; omega)
    rw [show cellAt (beaconNamed s n c st) d = Cell.initial by
      simp [cellAt, List.getD_eq_getElem?_getD, hnone]] at he
    cases he

/-- A new STOW puts the cell in STOW, and the judgement leaves it there (R139, R140, R142). -/
theorem beaconSensorReport_stow (hc : c ≤ 7) (hl : s.wind.cells.length = 8)
    (hroom : HasRoom s n c) (hk : keptOwn s n c = false) (hst : st ≠ .faulted)
    (hnew : entryLevel s c n ≠ some .stow) :
    (cellAt (beaconSensorReport s n true c st .stow) c).state = .stow ∧
      (cellAt (beaconSensorReport s n true c st .stow) c).holdRun = 0 ∧
      (cellAt (beaconSensorReport s n true c st .stow) c).lastStow = some (now s) := by
  have hlen : c < s.wind.cells.length := by omega
  have hcond : st ≠ .faulted ∧ entryLevel (beaconNamed s n c st) c n ≠ some .stow :=
    ⟨hst, by rw [entryLevel_beaconNamed hk hlen]; exact hnew⟩
  have hnow : now (beaconNamed s n c st) = now s := by
    rw [(beaconNamed_windOnly s n c st).only]
    rfl
  obtain ⟨why, hwhy⟩ := levelReport_stow (s := beaconNamed s n c st) (n := n) (c := c)
    (by rw [beaconNamed_length]; exact hlen) none
  have htold : beaconTold s n c st .stow = levelReport (beaconNamed s n c st) n c .stow none :=
    if_pos hcond
  rw [← htold] at hwhy
  obtain ⟨e, he, -, -, hwork, hlevel⟩ := beaconTold_entry (st := st) (lv := .stow) hk hlen hroom
  have hworks : e.working = true := hwork.trans (decide_eq_true hst)
  have htlen : (beaconTold s n c st .stow).wind.cells.length = 8 := by
    rw [length_rosters (beaconTold_level hcond).rosters, reportEntry_length, beaconNamed_length, hl]
  have hstay : cellAt (beaconSensorReport s n true c st .stow) c =
      cellAt (beaconTold s n c st .stow) c := by
    rw [beaconSensorReport_eq hc hl hroom, cellAt_judgeCells (by omega) (by omega),
      judgedCell_works (workingEntries_ne he hworks)]
    exact levelsCell_held (by rw [hwhy]; rfl)
      (allCalm_false he hworks (by rw [hlevel hst]; exact nofun))
  rw [hstay, hwhy]
  exact ⟨rfl, rfl, congrArg some hnow⟩

end Sys2Proof.Machine
end

section
/-! PROOFS. A BEACON of another station (R53, R81, R82, R84, R86 to R88, R137, R139). -/

namespace Sys2Proof.Machine

variable {s t u v w : State} {n sec : Nat} {p : BeaconPayload} {m : Scope} {lv : Level}
  {st : Status}

/-! ### The seconds adopted (R81, R82) -/

theorem heaterNotice_loans (h : LoansOk s.share) : LoansOk (heaterNotice s).share :=
  (heaterNotice_quiet (.refl s)).share h

theorem switchOne_loans (h : LoansOk s.share) : LoansOk (switchOne s).share := by
  unfold switchOne
  split
  · exact h
  · exact heaterNotice_loans h

/-- The instants of array time leave the Loan Table with one entry for a peer at most (R170). -/
theorem takeInstant_loans (h : LoansOk s.share) (i : Instr) : LoansOk (takeInstant s i).share := by
  unfold takeInstant
  split
  · exact (startTime_keeps (.refl s) _).share h
  · exact (deadline_keeps (.refl s) _).share h
  · unfold scanInstant beginScan
    split
    · split <;> exact h
    · exact h
  · unfold boundaryReached selection
    split
    · split
      · exact (settlePower_quiet (.refl _) s).share (heaterNotice_loans h)
      · exact h
    · exact h
  · unfold borrowedExpired
    split
    · split
      · exact (enqueueEntry_quiet (removeBorrowed_quiet (.refl s) _) _).share h
      · exact h
    · exact h
  · unfold lentExpired
    split
    · split
      · exact LoansOk.map h _ fun e => by split <;> rfl
      · exact h
    · exact h
  · unfold windowReached
    split
    · split
      · unfold windowOpen
        split
        · exact switchOne_loans (s := State.withHeater _ _) h
        · exact h
      · exact h
    · exact h
  · unfold windowEnded
    split
    · split
      · exact (claimFromNone_quiet (.refl s)).share h
      · exact h
    · exact h
  · exact h

theorem takeInstants_loans (h : LoansOk s.share) : LoansOk (takeInstants s).share := by
  unfold takeInstants
  generalize dueInstants s = l
  induction l generalizing s with
  | nil => exact h
  | cons i l ih => exact ih (takeInstant_loans h i)

theorem adopt_higher (h : s.time.sec < sec) :
    adopt s sec = takeInstants (s.withTime { s.time with sec := sec }) := if_pos h

theorem adopt_lower (h : sec ≤ s.time.sec) : adopt s sec = s := if_neg (by omega)

theorem adopt_timely (s : State) (sec : Nat) :
    Timely (s.withTime { s.time with sec := max s.time.sec sec }) (adopt s sec) := by
  by_cases h : s.time.sec < sec
  · rw [adopt_higher h, Nat.max_eq_right (Nat.le_of_lt h)]
    exact takeInstants_timely _
  · rw [adopt_lower (by omega), Nat.max_eq_left (by omega)]
    exact .refl s

theorem adopt_loans (h : LoansOk s.share) (sec : Nat) : LoansOk (adopt s sec).share := by
  unfold adopt
  split
  · exact takeInstants_loans h
  · exact h

/-! ### The lock mask of a neighbour (R53, R88) -/

/-- The mask in the Peer and the Keep-out Table, before the table-change notice. -/
def maskTaken (s : State) (n : Nat) (m : Scope) : State :=
  (setPeer s { peerEntry s n with mask := some m }).withKeepOut (maskedTable s n m)

theorem recordMask_taken (hn : n ≠ s.seq.number) (m : Scope) :
    Keeps (maskTaken s n m) (recordMask s n m) ∧ Beside (maskTaken s n m) (recordMask s n m) := by
  have hother : ¬ (n == s.seq.number) = true := by simpa using hn
  have heq : recordMask s n m = if maskedTable s n m == s.keepOut then
      setPeer s { peerEntry s n with mask := some m } else axisTableChange (maskTaken s n m) :=
    if_neg hother
  rw [heq]
  split
  · rename_i ht
    have hsame : maskTaken s n m = setPeer s { peerEntry s n with mask := some m } := by
      rw [maskTaken, beq_iff_eq.1 ht]
      rfl
    rw [hsame]
    exact ⟨.refl _, .refl _⟩
  · exact ⟨axisTableChange_keeps (.refl _), axisTableChange_beside _⟩

/-! ### The start flag (R86, R87) -/

/-- The entry with the restart-seen mark as the start flag gives it. -/
def startMarked (s : State) (n : Nat) (flag : Bool) : State :=
  setPeer s { peerEntry s n with restartSeen := flag }

theorem takeStartFlag_eq (s : State) (n : Nat) (flag : Bool) : takeStartFlag s n flag =
    if flag = true ∧ (peerEntry s n).restartSeen = false then
      peerRestarted (startMarked s n flag) n
    else startMarked s n flag := by
  unfold takeStartFlag
  dsimp only
  by_cases h : flag = true ∧ (peerEntry s n).restartSeen = false
  · rw [if_pos h]
    exact if_pos (by simp [h.1, h.2])
  · rw [if_neg h]
    exact if_neg (by simpa using h)

theorem takeStartFlag_sways (s : State) (n : Nat) (flag : Bool) :
    Sways (startMarked s n flag) (takeStartFlag s n flag) := by
  rw [takeStartFlag_eq]
  split
  · exact peerRestarted_sways _ n
  · exact (Keeps.refl _).sways

/-- The levels of a station that has restarted go from its entries (R137). -/
theorem peerRestarted_cell (s : State) (n d : Nat) : (cellAt (peerRestarted s n) d).roster =
    (changeEntry n (fun e => { e with level := none }) (cellAt s d)).roster := by
  have hkeeps := (sharePeerLost_quiet (.refl s) n).keeps.trans (compactPeerLost_keeps (.refl _) n)
  have hcell : cellAt (compactPeerLost (sharePeerLost s n) n) d = cellAt s d := hkeeps.cellAt d
  rw [peerRestarted, windPeerRestarted_eq, judgeEntries,
    cellAt_rosters (judgeCells_beside _ true).rosters, cellAt_changeEntries, hcell]

/-- The rosters of a cell as they were, or with the station's levels gone. -/
def SameStations (n : Nat) (x y : Cell) : Prop :=
  y.roster = x.roster ∨ y.roster = (changeEntry n (fun e => { e with level := none }) x).roster

theorem takeStartFlag_cell (s : State) (n : Nat) (flag : Bool) (d : Nat) :
    SameStations n (cellAt s d) (cellAt (takeStartFlag s n flag) d) := by
  rw [takeStartFlag_eq]
  split
  · exact .inr (peerRestarted_cell (startMarked s n flag) n d)
  · exact .inl rfl

theorem SameStations.hasRoom {c : Nat} (h : SameStations n (cellAt s c) (cellAt t c))
    (k : HasRoom s n c) : HasRoom t n c := by
  unfold HasRoom inRoster at k ⊢
  rcases h with h | h
  · rwa [h]
  · rw [h]
    have hany : ((changeEntry n (fun e => { e with level := none }) (cellAt s c)).roster.any
        fun e => e.station == n) = (cellAt s c).roster.any fun e => e.station == n := by
      simp only [changeEntry, List.any_map]
      refine congrArg _ (funext fun e => ?_)
      dsimp only [Function.comp]
      split <;> rfl
    have hlen : (changeEntry n (fun e => { e with level := none }) (cellAt s c)).roster.length =
        (cellAt s c).roster.length := List.length_map _
    rw [hany, hlen]
    exact k

theorem SameStations.entryLevel_ne {c : Nat} (h : SameStations n (cellAt s c) (cellAt t c))
    (k : entryLevel s c n ≠ some lv) : entryLevel t c n ≠ some lv := by
  rw [entryLevel_eq] at k ⊢
  rcases h with h | h
  · rwa [levelIn_congr h]
  · rw [levelIn_congr h, levelIn_changeEntry (f := fun e => { e with level := none })
      fun _ => rfl]
    simp

/-! ### What a BEACON's sensor report leaves of the loans and the records -/

theorem PeerLost.windOnly (h : PeerLost s t n) (k : WindOnly t u) : PeerLost s u n := by
  rw [k.only]
  exact ⟨h.loans, h.flag, h.left⟩

theorem PeerLost.beaconSensorReport (h : PeerLost s t n) (hs : t.seq = s.seq) (role : Bool)
    (c : Nat) (st : Status) (lv : Level) :
    PeerLost s (beaconSensorReport t n role c st lv) n := by
  have hjudge : ∀ {w}, PeerLost s w n → w.seq = s.seq → PeerLost s (judgeCells w true) n :=
    fun hw hws => hw.beside (judgeCells_beside _ true) hws
  have hname := nameCell_windOnly t n c
  have hnamed := (hname.trans (reportEntry_windOnly _ n c (beaconEntry st)))
  have hseq : ∀ {w}, WindOnly t w → w.seq = s.seq := fun hw => by rw [hw.only]; exact hs
  unfold Machine.beaconSensorReport
  dsimp only
  split
  · split
    · exact hjudge (h.windOnly hname) (hseq hname)
    · split
      · have hlevel := hnamed.trans (reportEntry_windOnly _ n c
          fun e => { e with level := some lv })
        have hbeside := levelReport_beside (reportEntry (nameCell t n c) n c (beaconEntry st)) n c
          lv none
        exact hjudge ((h.windOnly hlevel).beside hbeside (hseq hlevel))
          (hbeside.seq.trans (hseq hlevel))
      · exact hjudge (h.windOnly hnamed) (hseq hnamed)
  · exact h.judgeEntries hs entryGone

end Sys2Proof.Machine
end

section
/-! PROOFS. A BEACON as a whole (R53, R81, R84, R86 to R88, R137, R139). -/

namespace Sys2Proof.Machine

variable {s t u v w : State} {n : Nat} {p : BeaconPayload} {lv : Level} {st : Status}

/-- The state once a BEACON's contents are recorded, before its sensor report (R84, R86, R88). -/
def beaconKept (s : State) (n : Nat) (p : BeaconPayload) : State :=
  let t := takeStartFlag s n p.startFlag
  let u := setPeer t { peerEntry t n with beacon := some p }
  if isDish n then recordMask u n p.mask else u

theorem takeBeacon_eq (hd : beaconDefined p = true) (hn : n ≠ s.seq.number) :
    takeBeacon s n p = if isDish n then
      beaconSensorReport (beaconKept (adopt s p.sec) n p) n p.sensorRole p.cell
        ((statusOf p.sensorStatus).getD .ok) ((levelOf p.windLevel).getD .calm)
    else beaconKept (adopt s p.sec) n p := by
  have hother : ¬ (n == s.seq.number) = true := by simpa using hn
  unfold takeBeacon
  rw [if_pos hd]
  refine (if_neg hother).trans ?_
  unfold beaconKept
  dsimp only
  by_cases h : isDish n = true
  · rw [if_pos h, if_pos h, if_pos h]
  · rw [if_neg h, if_neg h, if_neg h]

/-- What a BEACON's contents leave, by the tables they are recorded in. -/
structure BeaconKept (s t : State) (n : Nat) (p : BeaconPayload) : Prop where
  time : t.time = s.time
  lock : t.lock = s.lock
  seq : t.seq = s.seq
  pins : t.pins = s.pins
  entry : ∀ k, peerEntry t k = if k = n then { peerEntry s n with
      restartSeen := p.startFlag, beacon := some p
      mask := if isDish n then some p.mask else (peerEntry s n).mask }
    else peerEntry s k
  keepOut : t.keepOut = if isDish n then maskedTable s n p.mask else s.keepOut
  wind : WindOk s.wind → WindOk t.wind
  cell : ∀ d, SameStations n (cellAt s d) (cellAt t d)
  lost : isDish n = true → p.startFlag = true → (peerEntry s n).restartSeen = false →
    PeerLost s t n

/-- The contents but for the mask, from the state the start flag has been taken in. -/
def beaconMarked (s : State) (n : Nat) (p : BeaconPayload) : State :=
  setPeer (takeStartFlag s n p.startFlag)
    { peerEntry (takeStartFlag s n p.startFlag) n with beacon := some p }

theorem peerEntry_setPeer_of {x : PeerEntry} (h : x.station = n) (s : State) (k : Nat) :
    peerEntry (setPeer s x) k = if k = n then x else peerEntry s k := by
  rw [peerEntry_setPeer, h]

theorem peerEntry_startMarked (s : State) (n : Nat) (flag : Bool) (k : Nat) :
    peerEntry (startMarked s n flag) k =
      if k = n then { peerEntry s n with restartSeen := flag } else peerEntry s k :=
  peerEntry_setPeer_of (x := { peerEntry s n with restartSeen := flag })
    (peerEntry_station s n) s k

theorem peerEntry_beaconMarked (s : State) (n : Nat) (p : BeaconPayload) (k : Nat) :
    peerEntry (beaconMarked s n p) k = if k = n then
      { peerEntry s n with restartSeen := p.startFlag, beacon := some p }
    else peerEntry s k := by
  have hflag : ∀ k, peerEntry (takeStartFlag s n p.startFlag) k =
      peerEntry (startMarked s n p.startFlag) k := fun k =>
    peerEntry_congr (congrArg PeerUnit.table (takeStartFlag_sways s n p.startFlag).peers) k
  have hstation := peerEntry_station (takeStartFlag s n p.startFlag) n
  rw [beaconMarked, peerEntry_setPeer_of (by exact hstation)]
  split
  · rename_i hk
    rw [hflag, peerEntry_startMarked, if_pos rfl]
  · rename_i hk
    rw [hflag, peerEntry_startMarked, if_neg hk]

theorem beaconMarked_lost (hd : isDish n = true) (hf : p.startFlag = true)
    (hr : (peerEntry s n).restartSeen = false) : PeerLost s (beaconMarked s n p) n := by
  have htaken : takeStartFlag s n p.startFlag = peerRestarted (startMarked s n p.startFlag) n := by
    rw [takeStartFlag_eq, if_pos ⟨hf, hr⟩]
  have hlost := peerRestarted_peerLost (s := startMarked s n p.startFlag) hd
  rw [← htaken] at hlost
  exact ⟨hlost.loans, hlost.flag, hlost.left⟩

theorem beaconKept_kept (hn : n ≠ s.seq.number) (p : BeaconPayload) :
    BeaconKept s (beaconKept s n p) n p := by
  have hsways := takeStartFlag_sways s n p.startFlag
  have hentry := peerEntry_beaconMarked s n p
  have hcell : ∀ d, SameStations n (cellAt s d) (cellAt (beaconMarked s n p) d) :=
    takeStartFlag_cell s n p.startFlag
  have hseq : (beaconMarked s n p).seq = s.seq := hsways.seq
  have hkeep : (beaconMarked s n p).keepOut = s.keepOut := hsways.keepOut
  by_cases hd : isDish n = true
  · have heq : beaconKept s n p = recordMask (beaconMarked s n p) n p.mask := if_pos hd
    obtain ⟨hkeeps, hbeside⟩ := recordMask_taken (s := beaconMarked s n p) (by rw [hseq]; exact hn)
      p.mask
    have hlost := beaconMarked_lost (s := s) (p := p) hd
    rw [heq]
    refine ⟨hkeeps.time.trans hsways.time, hkeeps.lock.trans hsways.lock,
      hkeeps.seq.trans hsways.seq, hkeeps.pins.trans hsways.pins, fun k => ?_, ?_, fun hw => ?_,
      fun d => ?_, fun _ hf hr => ?_⟩
    · rw [peerEntry_congr (congrArg PeerUnit.table hkeeps.peers)]
      show peerEntry (setPeer _ _) k = _
      rw [peerEntry_setPeer_of (by exact peerEntry_station _ n), hentry, hentry, if_pos rfl,
        if_pos hd]
      split <;> rfl
    · rw [hkeeps.keepOut, if_pos hd]
      show maskedTable (beaconMarked s n p) n p.mask = _
      rw [maskedTable, hkeep]
      rfl
    · exact hkeeps.sways.wind (hsways.wind hw)
    · have : cellAt (recordMask (beaconMarked s n p) n p.mask) d = cellAt (beaconMarked s n p) d :=
        hkeeps.cellAt d
      rw [this]
      exact hcell d
    · have htaken : PeerLost s (maskTaken (beaconMarked s n p) n p.mask) n :=
        ⟨(hlost hf hr).loans, (hlost hf hr).flag, (hlost hf hr).left⟩
      exact htaken.beside hbeside hseq
  · have heq : beaconKept s n p = beaconMarked s n p := if_neg hd
    rw [heq]
    refine ⟨hsways.time, hsways.lock, hseq, hsways.pins, fun k => ?_, ?_, hsways.wind, hcell,
      fun hd' => absurd hd' hd⟩
    · rw [hentry, if_neg hd]
    · rw [if_neg hd]
      exact hkeep

/-! ### The BEACON of a dish to the end -/

theorem takeBeacon_sways (hd : beaconDefined p = true) (hn : n ≠ s.seq.number) :
    Sways (beaconKept (adopt s p.sec) n p) (takeBeacon s n p) := by
  rw [takeBeacon_eq hd hn]
  split
  · exact beaconSensorReport_sways (.refl _) n _ _ _ _
  · exact (Keeps.refl _).sways

theorem takeBeacon_undefined (hd : beaconDefined p = false) : takeBeacon s n p = s :=
  if_neg (by simp [hd])

theorem takeBeacon_dish (hd : beaconDefined p = true) (hn : n ≠ s.seq.number)
    (h : isDish n = true) : takeBeacon s n p =
      beaconSensorReport (beaconKept (adopt s p.sec) n p) n p.sensorRole p.cell
        ((statusOf p.sensorStatus).getD .ok) ((levelOf p.windLevel).getD .calm) := by
  rw [takeBeacon_eq hd hn, if_pos h]

/-- A dish without the sensor role leaves the rosters (R137). -/
theorem beaconSensorReport_noRole (s : State) (n c : Nat) (st : Status) (lv : Level) :
    beaconSensorReport s n false c st lv = judgeEntries s n entryGone := if_neg Bool.false_ne_true

/-- A sensor report of a station with room in the cell it names (R137, R139). -/
theorem beaconSensorReport_reports {c : Nat} (hc : c ≤ 7) (hw : WindOk w.wind)
    (hroom : HasRoom w n c) (hn : n ≠ w.seq.number) (st : Status) (lv : Level) :
    (∃ e ∈ (cellAt (beaconSensorReport w n true c st lv) c).roster, e.station = n ∧
      e.status = st ∧ e.working = decide (st ≠ .faulted) ∧ (st ≠ .faulted → e.level = some lv)) ∧
    (∀ d, d ≠ c → ∀ e ∈ (cellAt (beaconSensorReport w n true c st lv) d).roster,
      e.station = n → e.working = false ∧ e.level = none) ∧
    (st ≠ .faulted → lv = .stow → entryLevel w c n ≠ some .stow →
      (cellAt (beaconSensorReport w n true c st lv) c).state = .stow ∧
      (cellAt (beaconSensorReport w n true c st lv) c).holdRun = 0 ∧
      (cellAt (beaconSensorReport w n true c st lv) c).lastStow = some (now w)) := by
  have hrosters : ∀ d, (cellAt (beaconSensorReport w n true c st lv) d).roster =
      (cellAt (beaconTold w n c st lv) d).roster := fun d => by
    rw [beaconSensorReport_eq hc hw.1 hroom]
    exact cellAt_rosters (judgeCells_beside _ true).rosters d
  have hkept := fun d => keptOwn_other hn d
  refine ⟨?_, fun d hd e he hen => ?_, fun hst hlv hnew => ?_⟩
  · rw [hrosters]
    exact beaconTold_entry (hkept c) (by rw [hw.1]; omega) hroom
  · rw [hrosters] at he
    exact beaconTold_elsewhere (hkept d) hd he hen
  · subst hlv
    exact beaconSensorReport_stow hc hw.1 hroom (hkept c) hst hnew

/-- A station is PRESENT by its entry, of which there is one (R83). -/
theorem isPresent_eq (ok : PeersOk s.peers) (n : Nat) :
    isPresent s n = (peerEntry s n).present := by
  unfold isPresent peerEntry
  cases hq : s.peers.table.find? fun x => x.station == n with
  | none =>
    refine List.any_eq_false.2 fun e he => ?_
    have hne := List.find?_eq_none.1 hq e he
    simp only [Bool.and_eq_true, not_and]
    exact fun h => absurd h hne
  | some y =>
    have hy : y.station = n := by simpa using List.find?_some hq
    have hm := List.mem_of_find?_eq_some hq
    rw [Option.getD_some, Bool.eq_iff_iff, List.any_eq_true]
    constructor
    · rintro ⟨e, he, hep⟩
      simp only [Bool.and_eq_true, beq_iff_eq] at hep
      have : e = y := List.inj_on_of_nodup_map (List.pairwise_map.2 (ok.1.imp fun k =>
        Nat.ne_of_lt k)) he hm (hep.1.trans hy.symm)
      exact this ▸ hep.2
    · exact fun hp => ⟨y, hm, by simp [hy, hp]⟩

/-- Settles O20: the seconds and their instants first, then the contents, then the sensor report. -/
theorem aBeaconIsRecorded : Obligations.ABeaconIsRecorded := by
  intro s n p hk
  have hexec : exec (.beaconReceived n p) s = .next (takeBeacon (frameRead s n) n p) :=
    congrArg Host.Outcome.next (takeFrame_known hk _)
  obtain ⟨-, -, -, hn, hpresent, ok⟩ := hk
  have hp : (peerEntry s n).present = true := (isPresent_eq ok n).symm.trans hpresent
  have hne : n ≠ (frameRead s n).seq.number := hn
  refine ⟨fun hd => hexec.trans (congrArg Host.Outcome.next (takeBeacon_undefined hd)),
    fun hd => ⟨adopt (frameRead s n) p.sec, _, hexec,
      fun h => adopt_lower (s := frameRead s n) h, fun hsec u hu => ?_, ?_⟩⟩
  · have hv : adopt (frameRead s n) p.sec = takeInstants u := by
      rw [hu]
      exact adopt_higher hsec
    rw [hv]
    exact ⟨runsThrough_foldl u fun i hi v => takeInstant_exec hi v, fun i => mem_dueInstants⟩
  have htimely := adopt_timely (frameRead s n) p.sec
  have hloans : LoansOk s.share → LoansOk (adopt (frameRead s n) p.sec).share := fun ok =>
    adopt_loans (s := frameRead s n) ok p.sec
  have hsways := takeBeacon_sways (s := frameRead s n) hd hne
  have hdish := takeBeacon_dish (s := frameRead s n) hd hne
  generalize takeBeacon (frameRead s n) n p = t at *
  generalize adopt (frameRead s n) p.sec = v at *
  have hnv : n ≠ v.seq.number := by rw [htimely.seq]; exact hn
  have hkept := beaconKept_kept hnv p
  generalize beaconKept v n p = w at *
  have htime : t.time = v.time := hsways.time.trans hkept.time
  have hpeer : ∀ k, peerEntry v k = peerEntry (frameRead s n) k := fun k =>
    peerEntry_congr (congrArg PeerUnit.table htimely.peers) k
  have hentry : ∀ k, peerEntry t k = peerEntry w k := fun k =>
    peerEntry_congr (congrArg PeerUnit.table hsways.peers) k
  refine ⟨htime.trans htimely.time, ?_, fun k hkn => ?_, ?_, ?_, ?_, ?_, fun h hf hr => ?_,
    fun h hw => ?_⟩
  · rw [hentry, hkept.entry, if_pos rfl, hpeer, peerEntry_frameRead hpresent]
    simp only [hp]
  · rw [hentry, hkept.entry, if_neg hkn, hpeer, peerEntry_frameRead_ne s hkn]
  · rw [hsways.keepOut, hkept.keepOut, maskedTable, htimely.keepOut]
    rfl
  · rw [hsways.lock, hkept.lock, htimely.lock]
    rfl
  · rw [hsways.seq, hkept.seq, htimely.seq]
    rfl
  · rw [hsways.pins, hkept.pins, htimely.pins]
    rfl
  · have hrestart : (peerEntry v n).restartSeen = false := by
      rw [hpeer, peerEntry_frameRead hpresent]
      exact hr
    have hlost := (hkept.lost h hf hrestart).beaconSensorReport hkept.seq p.sensorRole p.cell
      ((statusOf p.sensorStatus).getD .ok) ((levelOf p.windLevel).getD .calm)
    rw [← hdish h] at hlost
    exact ⟨fun ok => hlost.loans (hloans ok),
      fun _ id r m hr hl hm hy => hlost.left hnv hr hl hm hy⟩
  · have hww : WindOk w.wind := hkept.wind (by unfold WindOk; rw [htimely.cells]; exact hw)
    have hcell : ∀ d, cellAt v d = cellAt s d := fun d => by
      unfold cellAt
      rw [htimely.cells]
      rfl
    refine ⟨fun hrole => ?_, fun hrole hc hroom lv st hlv hst => ?_⟩
    · rw [hdish h, hrole, beaconSensorReport_noRole]
      exact judgeEntries_roster (f := entryGone) fun _ => ⟨rfl, rfl⟩
    · have hsame : SameStations n (cellAt s p.cell) (cellAt w p.cell) := hcell p.cell ▸
        hkept.cell p.cell
      obtain ⟨hin, hout, hstow⟩ := beaconSensorReport_reports hc hww (hsame.hasRoom hroom)
        (by rw [hkept.seq]; exact hnv) st lv
      have hnow : now t = now w := by unfold now; rw [hsways.time]
      rw [hdish h, hrole, hst, hlv]
      rw [hdish h, hrole, hst, hlv] at hnow
      rw [hnow]
      exact ⟨hin, hout, fun hne hlv hnew => hstow hne hlv (hsame.entryLevel_ne hnew)⟩

end Sys2Proof.Machine
end

section
/-! PROOFS. Frames from a station that was ABSENT, and from one that a station does not receive
(R61, R74, R84, R87, R137). -/

namespace Sys2Proof.Machine

variable {s t u : State} {i : Instr} {n p c : Nat} {x : Cell} {e : RosterEntry}

/-! ### The commands that are frames (R74) -/

/-- The command takes a frame of the station, and delivers it to its blocks. -/
def Delivers (i : Instr) (n : Nat) : Prop :=
  ∃ deliver, ∀ s, exec i s = .next (takeFrame s n deliver)

theorem delivers_event (n : Nat) : Delivers (.eventReceived n) n := ⟨_, fun _ => rfl⟩

theorem delivers_answer (n : Nat) : Delivers (.answerReceived n) n := ⟨_, fun _ => rfl⟩

theorem delivers_of_payload (h : (framePayload i).map (·.1) = some n) : Delivers i n := by
  unfold framePayload at h
  split at h
  case h_38 => cases h
  all_goals
    obtain rfl := Option.some.inj h
    exact ⟨_, fun _ => rfl⟩

/-- A station that does not receive takes no frame (R61). -/
theorem Delivers.deaf (h : Delivers i n) (hr : receives s = false) : exec i s = .next s := by
  obtain ⟨deliver, hexec⟩ := h
  rw [hexec, takeFrame, if_neg (by simp [hr])]

/-- A frame of another station is delivered in the state that its sender is recorded in. -/
theorem takeFrame_heard (hr : receives s = true) (h1 : 1 ≤ n) (h63 : n ≤ 63)
    (hn : n ≠ s.seq.number) (deliver : State → State) :
    takeFrame s n deliver = deliver (heard (cleanRead s) n) := by
  unfold takeFrame
  rw [if_pos (by simp [hr, h1, h63])]
  dsimp only
  rw [if_neg (by simp [hn])]

theorem exec_event_heard (hr : receives s = true) (h1 : 1 ≤ n) (h63 : n ≤ 63)
    (hn : n ≠ s.seq.number) : exec (.eventReceived n) s = .next (heard (cleanRead s) n) := by
  refine congrArg Host.Outcome.next ?_
  unfold takeDishFrame
  rw [takeFrame_heard hr h1 h63 hn]
  exact ite_self _

/-! ### A station read again (R84) -/

theorem cleanRead_of_onlyQueued (h : OnlyQueued (cleanRead s) t) : cleanRead t = t := by
  obtain ⟨q, a, hl⟩ := h
  unfold cleanRead
  rw [show { t.line with vetoCount := 0, passive := false } = t.line by rw [hl]; rfl]
  rfl

/-- The entry of a station just heard is left as it is by another frame. -/
theorem frameRead_heard (h : OnlyQueued (cleanRead s) t) (ok : PeersOk t.peers)
    (hl : (peerEntry t n).lastHeard = some (now t)) (hs : (peerEntry t n).silence = 0) :
    frameRead t n = t := by
  have htable : (t.peers.table.map fun e =>
      if e.station == n then { e with lastHeard := some (now t), silence := 0 } else e) =
      t.peers.table := by
    refine (List.map_congr_left fun e he => ?_).trans (List.map_id _)
    by_cases hn : e.station = n
    · have hentry : peerEntry t n = e := by
        unfold peerEntry
        cases hq : t.peers.table.find? fun x => x.station == n with
        | none => exact absurd hn (by simpa using List.find?_eq_none.1 hq e he)
        | some y =>
          have hy : y.station = n := by simpa using List.find?_some hq
          exact List.inj_on_of_nodup_map (List.pairwise_map.2 (ok.1.imp fun k => Nat.ne_of_lt k))
            (List.mem_of_find?_eq_some hq) he (hy.trans hn.symm)
      rw [hentry] at hl hs
      rw [if_pos (by simpa using hn), ← hl, ← hs]
      rfl
    · exact if_neg (by simpa using hn)
  have hclean := cleanRead_of_onlyQueued h
  unfold frameRead
  rw [htable]
  exact hclean

/-! ### The Line Unit in the notices of a lost peer -/

/-- A change of other units before a step. -/
theorem OnlyQueued.before (h : OnlyQueued t u) (ht : t.line = s.line) : OnlyQueued s u :=
  (OnlyQueued.of_eq ht).trans h

theorem removeBorrowed_onlyQueued (s : State) (p : Nat) : OnlyQueued s (removeBorrowed s p) := by
  unfold removeBorrowed
  dsimp only
  generalize committedShares s + _ - heldShares s = a
  have hshed := (shed_silent (.refl s) a).onlyQueued
  generalize shed s a = v at hshed ⊢
  exact hshed.trans ((settlePower_silent (.refl _) s).onlyQueued.before rfl)

theorem removeLent_onlyQueued (s : State) (p : Nat) : OnlyQueued s (removeLent s p) :=
  (settlePower_silent (.refl _) s).onlyQueued.before rfl

theorem setFlag_onlyQueued (s : State) (k d e : Nat) : OnlyQueued s (setFlag s k d e) :=
  (setFlag_silent s k d e).onlyQueued.before rfl

theorem dropLoanWith_onlyQueued (s : State) (p : Nat) : OnlyQueued s (dropLoanWith s p) := by
  unfold dropLoanWith
  split
  · exact (removeBorrowed_onlyQueued s p).trans (setFlag_onlyQueued _ _ _ _)
  · split
    · exact (removeLent_onlyQueued s p).trans (setFlag_onlyQueued _ _ _ _)
    · exact .of_eq rfl

theorem sharePeerLost_onlyQueued (s : State) (n : Nat) : OnlyQueued s (sharePeerLost s n) := by
  unfold sharePeerLost
  split
  · exact (dropLoanWith_onlyQueued s n).trans (withdrawFrames_silent (.refl _) _).onlyQueued
  · exact .of_eq rfl

theorem judgeEntries_onlyQueued (s : State) (n : Nat) (f : RosterEntry → RosterEntry) :
    OnlyQueued s (judgeEntries s n f) := by
  unfold judgeEntries
  exact (judgeCells_beside _ true).line.before rfl

theorem peerRestarted_onlyQueued (s : State) (n : Nat) : OnlyQueued s (peerRestarted s n) := by
  rw [peerRestarted, windPeerRestarted_eq]
  exact ((sharePeerLost_onlyQueued s n).trans (compactPeerLost_aside _ n).line).trans
    (judgeEntries_onlyQueued _ n _)

theorem windPeerPresent_onlyQueued (s : State) (n : Nat) (back : Bool) :
    OnlyQueued s (windPeerPresent s n back) := by
  unfold windPeerPresent
  split
  · dsimp only
    split
    · exact .of_eq rfl
    · exact (judgeCells_beside _ true).line.before rfl
  · exact .of_eq rfl

end Sys2Proof.Machine
end

section
/-! PROOFS. The return of a station (R84, R87, R110, R137, R175). -/

namespace Sys2Proof.Machine

variable {s t u : State} {i : Instr} {n c : Nat} {o : Bool} {x : Cell} {e : RosterEntry}

/-! ### A cell with an unknown level keeps its state (R137, R142, R143) -/

/-- A working entry whose level is absent keeps a cell from its release, and the entry itself from
NO_SENSOR (R137; log 75). -/
theorem judgedCell_unknown (he : e ∈ x.roster) (hw : e.working = true) (hl : e.level = none)
    (s : State) (c : Nat) : judgedCell s c x = x := by
  have hmem : e ∈ workingEntries x := List.mem_filter.2 ⟨he, hw⟩
  have hcalm : allCalm x = false := allCalm_false he hw (by rw [hl]; exact nofun)
  have hwatch : someWatch x = false := by
    unfold someWatch
    rw [Bool.and_eq_false_iff]
    exact .inl (List.all_eq_false.2 ⟨e, hmem, by simp [hl]⟩)
  rw [judgedCell_works (workingEntries_ne he hw), levelsCell, hcalm, hwatch]
  split <;> simp

/-- A cell that the judgement leaves, judged or not. -/
theorem judgeCells_leaves (hc : c < s.wind.cells.length)
    (h : judgedCell s c (cellAt s c) = cellAt s c) :
    cellAt (judgeCells s o) c = cellAt s c := by
  by_cases h8 : c < 8
  · rw [cellAt_judgeCells h8 hc, h]
  · exact (foldl_judgeCell_others _ (fun hm => h8 (List.mem_range.1 hm)) s).1

theorem lt_of_mem_roster (he : e ∈ (cellAt s c).roster) : c < s.wind.cells.length := by
  refine Nat.lt_of_not_le fun hle => ?_
  have hnone : s.wind.cells[c]? = none := List.getElem?_eq_none hle
  have hcell : cellAt s c = Cell.initial := by simp [cellAt, List.getD_eq_getElem?_getD, hnone]
  rw [hcell] at he
  cases he

/-- The restart of a peer whose entry in a cell works leaves the cell, but for the entry's level. -/
theorem peerRestarted_works (he : e ∈ (cellAt s c).roster) (hn : e.station = n)
    (hw : e.working = true) : cellAt (peerRestarted s n) c =
      changeEntry n (fun e => { e with level := none }) (cellAt s c) := by
  have hlen := lt_of_mem_roster he
  have hkeeps := (sharePeerLost_quiet (.refl s) n).keeps.trans (compactPeerLost_keeps (.refl _) n)
  rw [peerRestarted, windPeerRestarted_eq, judgeEntries]
  generalize compactPeerLost (sharePeerLost s n) n = v at hkeeps ⊢
  have hcell : cellAt v c = cellAt s c := hkeeps.cellAt c
  have hvlen : c < v.wind.cells.length := by rw [hkeeps.cells]; exact hlen
  have hchanged : cellAt (changeCells v fun _ x =>
      changeEntry n (fun e => { e with level := none }) x) c =
      changeEntry n (fun e => { e with level := none }) (cellAt s c) := by
    rw [cellAt_changeCells hvlen, hcell]
  have hentry := changeEntry_mem (fun e : RosterEntry => { e with level := none }) he hn
  rw [judgeCells_leaves (by exact (List.length_mapIdx).symm ▸ hvlen) ?_, hchanged]
  rw [hchanged]
  exact judgedCell_unknown hentry hw rfl _ c

/-! ### The peer-present notice (R84, R137) -/

/-- The entry of a station heard while ABSENT (R84). -/
def heardEntry (s : State) (n : Nat) : PeerEntry :=
  { peerEntry s n with
    present := true, lastHeard := some (now s), silence := 0
    restartSeen := (peerEntry s n).restartSeen || (peerEntry s n).lastHeard.isSome }

/-- The state with that entry, before the notices. -/
def heardMarked (s : State) (n : Nat) : State := setPeer (cleanRead s) (heardEntry s n)

theorem heard_absent (hn : n ≠ s.seq.number) (hp : (peerEntry s n).present = false) :
    heard (cleanRead s) n = if (peerEntry s n).lastHeard.isSome then
      peerRestarted (windPeerPresent (heardMarked s n) n true) n
    else windPeerPresent (heardMarked s n) n false := by
  have hother : ¬ (n == (cleanRead s).seq.number) = true := by simpa [cleanRead] using hn
  have hp' : (peerEntry (cleanRead s) n).present = false := hp
  unfold heard
  generalize peerRestarted = restart, windPeerPresent = back
  rw [if_neg hother]
  dsimp only
  rw [hp', if_neg Bool.false_ne_true]
  show (if (peerEntry s n).lastHeard.isSome then
      restart (back (heardMarked s n) n (peerEntry s n).lastHeard.isSome) n
    else back (heardMarked s n) n (peerEntry s n).lastHeard.isSome) = _
  cases (peerEntry s n).lastHeard.isSome <;> rfl

/-- What the peer-present notice leaves at a return: the station's entry in the cell it last named
works again, and nothing else changes before the peer-restarted notice (R137). -/
theorem windPeerPresent_back (s : State) (n : Nat) : WindOnly s (windPeerPresent s n true) := by
  unfold windPeerPresent
  split
  · exact changeCell_windOnly s _ _
  · exact ⟨rfl, rfl, rfl⟩

theorem windPeerPresent_unnamed (h : lastNamed s n = none) (back : Bool) :
    windPeerPresent s n back = s := by
  unfold windPeerPresent
  rw [h]

/-- The entry works again, and the cell keeps its state. -/
theorem windPeerPresent_cell (h : lastNamed s n = some c) (he : e ∈ (cellAt s c).roster)
    (hn : e.station = n) (hs : e.status ≠ .faulted) :
    (cellAt (windPeerPresent s n true) c).state = (cellAt s c).state ∧
      ∃ x ∈ (cellAt (windPeerPresent s n true) c).roster, x.station = n ∧ x.working = true := by
  have hcell : cellAt (windPeerPresent s n true) c = changeEntry n
      (fun e => { e with working := e.working || e.status != .faulted }) (cellAt s c) := by
    unfold windPeerPresent
    rw [h]
    exact cellAt_changeCell (lt_of_mem_roster he) _
  rw [hcell]
  exact ⟨rfl, _, changeEntry_mem _ he hn, hn, by simp [hs]⟩

/-- At a return the station's entry in the cell it last named works, and the cell keeps its state
(R137; log 75). -/
theorem returned_cell (h : lastNamed s n = some c) (he : e ∈ (cellAt s c).roster)
    (hn : e.station = n) (hs : e.status ≠ .faulted) :
    (cellAt (peerRestarted (windPeerPresent s n true) n) c).state = (cellAt s c).state ∧
      ∃ x ∈ (cellAt (peerRestarted (windPeerPresent s n true) n) c).roster,
        x.station = n ∧ x.working = true := by
  obtain ⟨hstate, x, hx, hxn, hw⟩ := windPeerPresent_cell h he hn hs
  rw [peerRestarted_works hx hxn hw]
  exact ⟨hstate, _, changeEntry_mem _ hx hxn, hxn, hw⟩

/-! ### A frame of a station that was ABSENT -/

/-- What the first frame of a station leaves beside its notices. -/
structure Heard (s t : State) (n : Nat) : Prop where
  sways : Sways (heardMarked s n) t
  line : OnlyQueued (heardMarked s n) t

theorem heard_heard (hn : n ≠ s.seq.number) (hp : (peerEntry s n).present = false) :
    Heard s (heard (cleanRead s) n) n := by
  rw [heard_absent hn hp]
  have hpresent := windPeerPresent_sways (.refl (heardMarked s n)) n
  split
  · exact ⟨(hpresent true).trans (peerRestarted_sways _ n),
      (windPeerPresent_onlyQueued _ n true).trans (peerRestarted_onlyQueued _ n)⟩
  · exact ⟨hpresent false, windPeerPresent_onlyQueued _ n false⟩

theorem Heard.entry (h : Heard s t n) (k : Nat) :
    peerEntry t k = if k = n then heardEntry s n else peerEntry s k := by
  rw [peerEntry_congr (congrArg PeerUnit.table h.sways.peers), heardMarked,
    peerEntry_setPeer_of (by exact peerEntry_station s n)]
  rfl

theorem heardMarked_peersOk (ok : PeersOk s.peers) (h1 : 1 ≤ n) (h63 : n ≤ 63) :
    PeersOk (heardMarked s n).peers := by
  refine ⟨putPeer_pairwise _ _ ok.1, fun e he => ?_, ok.2.2⟩
  rcases mem_putPeer he with rfl | he
  · have hst : (heardEntry s n).station = n := peerEntry_station s n
    exact ⟨hst.symm ▸ h1, hst.symm ▸ h63, Nat.zero_le _⟩
  · exact ok.2.1 e he

/-- The frame is delivered as one of a PRESENT station is (R74). -/
theorem Heard.delivers (h : Heard s t n) (hr : receives s = true) (h1 : 1 ≤ n) (h63 : n ≤ 63)
    (hn : n ≠ s.seq.number) (ok : PeersOk s.peers) (ht : t = heard (cleanRead s) n)
    (hi : Delivers i n) : exec i s = exec i t := by
  obtain ⟨deliver, hexec⟩ := hi
  have hseq : t.seq = s.seq := h.sways.seq
  have hnow : now t = now s := congrArg (fun x : TimeUnit => (⟨x.sec, x.ms⟩ : ATime)) h.sways.time
  have hok : PeersOk t.peers := by
    rw [h.sways.peers]
    exact heardMarked_peersOk ok h1 h63
  have hentry : peerEntry t n = heardEntry s n := (h.entry n).trans (if_pos rfl)
  have hknown : Known t n := by
    refine ⟨?_, h1, h63, by rw [hseq]; exact hn, ?_, hok⟩
    · unfold receives isReady isClash isConfigFault at hr ⊢
      rwa [hseq]
    · rw [isPresent_eq hok, hentry]
      rfl
  have hread : frameRead t n = t := frameRead_heard (s := s) (OnlyQueued.before h.line rfl) hok
    (by rw [hentry, hnow]; rfl) (by rw [hentry]; rfl)
  rw [hexec, hexec, takeFrame_heard hr h1 h63 hn, takeFrame_known hknown, hread, ht]

/-- A station's first frame, of one that has named no cell, reaches no block (R84). -/
theorem heard_first (hn : n ≠ s.seq.number) (hp : (peerEntry s n).present = false)
    (hl : (peerEntry s n).lastHeard = none) (hc : lastNamed s n = none) :
    heard (cleanRead s) n = heardMarked s n := by
  rw [heard_absent hn hp, if_neg (by simp [hl])]
  exact windPeerPresent_unnamed (s := heardMarked s n) hc false

theorem heard_return (hn : n ≠ s.seq.number) (hp : (peerEntry s n).present = false)
    (hl : (peerEntry s n).lastHeard.isSome = true) : heard (cleanRead s) n =
      peerRestarted (windPeerPresent (heardMarked s n) n true) n := by
  rw [heard_absent hn hp, if_pos hl]

/-- The notices of a return, from the state the frame came in. -/
theorem heard_peerLost (hn : n ≠ s.seq.number) (hp : (peerEntry s n).present = false)
    (hl : (peerEntry s n).lastHeard.isSome = true) (hd : isDish n = true) :
    PeerLost s (heard (cleanRead s) n) n := by
  obtain ⟨w, hw⟩ : ∃ w, windPeerPresent (heardMarked s n) n true = (heardMarked s n).withWind w :=
    ⟨_, (windPeerPresent_back (heardMarked s n) n).only⟩
  have hlost := peerRestarted_peerLost (s := (heardMarked s n).withWind w) hd
  rw [heard_return hn hp hl, hw]
  generalize peerRestarted ((heardMarked s n).withWind w) n = t at *
  exact ⟨hlost.loans, hlost.flag, hlost.left⟩

/-- Settles O18: the frame's sender is recorded, the notices of its return follow, and the frame is
then one of a PRESENT station. -/
theorem framesRecordTheirSender : Obligations.FramesRecordTheirSender := by
  refine ⟨fun s n hk => ?_, fun s n hr h1 h63 hn ok habsent => ?_, fun s i n hr hi => ?_⟩
  · have htaken : takeDishFrame s n id = frameRead s n := by
      unfold takeDishFrame
      rw [takeFrame_known hk]
      exact ite_self _
    exact ⟨congrArg Host.Outcome.next htaken, congrArg Host.Outcome.next htaken⟩
  · have hp : (peerEntry s n).present = false := (isPresent_eq ok n).symm.trans habsent
    have hheard := heard_heard hn hp
    obtain ⟨t, ht⟩ : ∃ t, t = heard (cleanRead s) n := ⟨_, rfl⟩
    have hexec := exec_event_heard hr h1 h63 hn
    rw [← ht] at hheard hexec
    have hsways := hheard.sways
    refine ⟨t, hexec, (hheard.entry n).trans (if_pos rfl),
      fun m hm => (hheard.entry m).trans (if_neg hm), hsways.time, hsways.lock, hsways.seq,
      hsways.keepOut, fun i hi => hheard.delivers hr h1 h63 hn ok ht (delivers_of_payload hi),
      fun hl hc => ?_, fun hl => ⟨fun hd hok => ?_, fun hd _ id r m hf hlive hm hy => ?_, ?_,
        fun c e hc he hen hst => ?_⟩⟩
    · rw [ht, heard_first hn hp hl hc]
      exact ⟨rfl, rfl, rfl, rfl, rfl, rfl, rfl⟩
    · have hlost := heard_peerLost hn hp hl hd
      rw [← ht] at hlost
      exact ⟨hlost.loans hok, fun hl16 he => hlost.flag hok hl16 he⟩
    · have hlost := heard_peerLost hn hp hl hd
      rw [← ht] at hlost
      exact hlost.left hn hf hlive hm hy
    · rw [ht, heard_return hn hp hl]
      exact peerRestarted_roster _ n
    · rw [ht, heard_return hn hp hl]
      exact returned_cell (s := heardMarked s n) hc he hen hst
  · have hdelivers : Delivers i n := by
      rcases hi with h | rfl | rfl
      · exact delivers_of_payload h
      · exact delivers_event n
      · exact delivers_answer n
    exact hdelivers.deaf hr

end Sys2Proof.Machine
end

section
/-! PROOFS. The station in FAULTED for a clash: no frame is queued and nothing starts, so that the
orders and the judgements change the engine, the marks, the cells and STOW_BLOCKED alone (R29,
R76, R147). -/

namespace Sys2Proof.Machine

variable {s t u : State} {c d n k : Nat} {o : Bool} {x : Cell} {r : StopReason}

/-! ### What is left of the blocks' work after a clash -/

/-- The axes, the Compact and the Wind Unit and the flag records have changed, no compact has come,
no flag but STOW_BLOCKED has been set, and HALTED has been neither entered nor left. -/
structure ClashWork (s t : State) : Prop where
  only : t = (((s.withAxis t.axis).withCompact t.compact).withWind t.wind).withReport t.report
  list : t.compact.list = s.compact.list
  flags : ∀ k, k ≠ flagStowBlocked → flagRecord t k = flagRecord s k
  flagCount : t.report.flags.length = s.report.flags.length
  halted : t.axis.motion = .halted ↔ s.axis.motion = .halted

theorem ClashWork.refl (s : State) : ClashWork s s := ⟨rfl, rfl, fun _ _ => rfl, rfl, .rfl⟩

theorem ClashWork.trans (h : ClashWork s t) (k : ClashWork t u) : ClashWork s u where
  only := k.only.trans (by rw [h.only]; rfl)
  list := k.list.trans h.list
  flags := fun j hj => (k.flags j hj).trans (h.flags j hj)
  flagCount := k.flagCount.trans h.flagCount
  halted := k.halted.trans h.halted

theorem ClashWork.seq (h : ClashWork s t) : t.seq = s.seq := by rw [h.only]; rfl

theorem ClashWork.clash (h : ClashWork s t) (hc : isClash s = true) : isClash t = true := by
  unfold isClash at hc ⊢
  rwa [h.seq]

theorem isReady_clash (h : isClash s = true) : isReady s = false := by
  have hst : s.seq.station = .faulted .clash := by simpa [isClash] using h
  simp [isReady, hst]

/-- A change of the engine that enters and leaves HALTED never. -/
theorem withAxis_clashWork {a : AxisUnit} (h : a.motion = .halted ↔ s.axis.motion = .halted) :
    ClashWork s (s.withAxis a) := ⟨rfl, rfl, fun _ _ => rfl, rfl, h⟩

theorem withWind_clashWork (s : State) (w : WindUnit) : ClashWork s (s.withWind w) :=
  ⟨rfl, rfl, fun _ _ => rfl, rfl, .rfl⟩

theorem recordFlag_clashWork (s : State) (d e : Nat) :
    ClashWork s (recordFlag s flagStowBlocked d e) := by
  refine ⟨rfl, rfl, fun k hk => ?_, List.length_set .., .rfl⟩
  simp [flagRecord, recordFlag, List.getD_eq_getElem?_getD, List.getElem?_set_ne (Ne.symm hk)]

theorem judgeBlocked_clashWork (h : isClash s = true) : ClashWork s (judgeBlocked s) := by
  have hset : ∀ (u : State), isClash u = true → ∀ d e,
      ClashWork u (setFlag u flagStowBlocked d e) := fun u hu d e => by
    rw [setFlag_clash hu]
    exact recordFlag_clashWork u d e
  unfold judgeBlocked
  split
  · split
    · exact .refl s
    · have hmark : ClashWork s ((s.withWind { s.wind with blocked := true }).withReport
          { s.report with lampOn := true, lampRun := 0 }) :=
        ⟨rfl, rfl, fun _ _ => rfl, rfl, .rfl⟩
      exact hmark.trans (hset _ (hmark.clash h) _ _)
  · split
    · exact ⟨rfl, rfl, fun _ _ => rfl, rfl, .rfl⟩
    · exact .refl s

/-- No compact is left for a removed JOINT entry (R29). -/
theorem noticeRemoved_clash (h : isClash s = true) (gone : List MoveEntry) (cause : Nat) :
    noticeRemoved s gone cause = s := by
  unfold noticeRemoved
  induction gone with
  | nil => rfl
  | cons e l ih =>
    have hstep : (if e.origin == .joint then jointWithdrawn s e.compactId cause else s) = s := by
      rw [jointWithdrawn, if_pos h, ite_self]
    rw [List.foldl_cons, hstep]
    exact ih

theorem flush_clash (h : isClash s = true) (cause : Nat) :
    flush s cause = s.withAxis (flushed s.axis) :=
  noticeRemoved_clash (s := s.withAxis (flushed s.axis)) h _ cause

theorem addReason_clashWork (s : State) (r : StopReason) : ClashWork s (addReason s r) := by
  unfold addReason
  split
  · exact withAxis_clashWork .rfl
  · exact .refl s

theorem beginStop_clashWork (h : isClash s = true) (hm : s.axis.motion ≠ .halted)
    (r : StopReason) : ClashWork s (beginStop s r) := by
  have hstop : ClashWork s (s.withAxis { s.axis with
      leg := none, stop := some ⟨[r], 0, 0⟩, motion := .stopping }) :=
    withAxis_clashWork ⟨nofun, fun hh => absurd hh hm⟩
  exact hstop.trans (judgeBlocked_clashWork (hstop.clash h))

theorem toIdle_clashWork (h : isClash s = true) (hm : s.axis.motion ≠ .halted) :
    ClashWork s (toIdle s) := by
  unfold toIdle
  refine ClashWork.trans (withAxis_clashWork (s := s) ?_) (judgeBlocked_clashWork ?_)
  · exact ⟨nofun, fun hh => absurd hh hm⟩
  · exact h

/-! ### The orders (R5, R24, R104) -/

theorem axisStowOrder_clashWork (h : isClash s = true) : ClashWork s (axisStowOrder s) := by
  obtain ⟨v, hv⟩ : ∃ v, v = s.withAxis { s.axis with
      stowMark := true, queue := [stowEntry s], jointHeld := false, withdrawPending := false } :=
    ⟨_, rfl⟩
  have hwork : ClashWork s v := hv ▸ withAxis_clashWork .rfl
  have hclash : isClash v = true := hwork.clash h
  have hmotion : v.axis.motion = s.axis.motion := by rw [hv]; rfl
  unfold axisStowOrder
  split
  · exact withAxis_clashWork .rfl
  · dsimp only
    rw [← hv, noticeRemoved_clash hclash]
    split
    · rw [tryStart_not_ready (isReady_clash hclash)]
      exact hwork
    · rename_i hm
      rw [if_pos (by simp [isReady_clash hclash])]
      exact hwork.trans (toIdle_clashWork hclash (by rw [hmotion, hm]; exact nofun))
    · rename_i hm
      exact hwork.trans (beginStop_clashWork hclash (by rw [hmotion, hm]; exact nofun) _)
    · exact hwork.trans (addReason_clashWork v _)
    · exact hwork

/-- Without a compact the Compact Unit takes the order as its mark alone (R104). -/
theorem compactStowOrder_empty (h : s.compact.list = []) :
    compactStowOrder s = s.withCompact { s.compact with stowMark := true } := by
  unfold compactStowOrder
  exact leaveAll_none (by simp [ownFlying, h]) _

theorem stowOrder_clashWork (h : isClash s = true) (he : s.compact.list = []) :
    ClashWork s (stowOrder s) := by
  have hwind := withWind_clashWork s { s.wind with ordered := true }
  have haxis := hwind.trans (axisStowOrder_clashWork (hwind.clash h))
  unfold stowOrder
  generalize axisStowOrder (s.withWind { s.wind with ordered := true }) = v at haxis ⊢
  have hmark : ClashWork v (compactStowOrder v) := by
    rw [compactStowOrder_empty (haxis.list.trans he)]
    exact ⟨rfl, rfl, fun _ _ => rfl, rfl, .rfl⟩
  have hall := haxis.trans hmark
  exact hall.trans (judgeBlocked_clashWork (hall.clash h))

theorem axisCalmNotice_clashWork (h : isClash s = true) : ClashWork s (axisCalmNotice s) := by
  have hstart : ∀ {v}, ClashWork s v → ClashWork s (tryStart v) := fun {v} hv => by
    rw [tryStart_not_ready (isReady_clash (hv.clash h))]
    exact hv
  have hmark : ClashWork s (s.withAxis { s.axis with stowMark := false }) :=
    withAxis_clashWork .rfl
  have hdrop : ∀ a : AxisUnit, (dropStow a).motion = a.motion := fun a => rfl
  unfold axisCalmNotice
  dsimp only
  split
  · rename_i hm
    refine hstart (hmark.trans (toIdle_clashWork (hmark.clash h) ?_))
    show s.axis.motion ≠ .halted
    rw [hm]
    exact nofun
  · exact hstart (withAxis_clashWork .rfl)
  · exact withAxis_clashWork .rfl
  · refine ClashWork.trans ?_ (addReason_clashWork _ _)
    exact withAxis_clashWork .rfl
  · exact hmark

theorem calmNotice_clashWork (h : isClash s = true) : ClashWork s (calmNotice s) := by
  have hwind := withWind_clashWork s { s.wind with ordered := false }
  have haxis := hwind.trans (axisCalmNotice_clashWork (hwind.clash h))
  unfold calmNotice
  generalize axisCalmNotice (s.withWind { s.wind with ordered := false }) = v at haxis ⊢
  have hmark : ClashWork v (compactCalmNotice v) := ⟨rfl, rfl, fun _ _ => rfl, rfl, .rfl⟩
  have hall := haxis.trans hmark
  exact hall.trans (judgeBlocked_clashWork (hall.clash h))

/-! ### The judgement of the cells (R142 to R147) -/

theorem changeCell_clashWork (s : State) (c : Nat) (f : Cell → Cell) :
    ClashWork s (changeCell s c f) := withWind_clashWork s _

theorem calmFor_clashWork (h : isClash s = true) (c : Nat) : ClashWork s (calmFor s c) := by
  unfold calmFor
  split
  · exact calmNotice_clashWork h
  · exact .refl s

/-- A judgement that gives no orders. -/
theorem judgeNoSensor_clashWork (s : State) (c : Nat) :
    ClashWork s (judgeNoSensor false s c) := by
  have hrun := changeCell_clashWork s c fun x => { x with holdRun := 0 }
  have hstow := hrun.trans (changeCell_clashWork _ c (cellStow .noSensor))
  unfold judgeNoSensor
  dsimp only
  split
  · split
    · split
      · exact hstow
      · exact hstow
    · exact hrun
  · exact .refl s

theorem judgeLevels_clashWork (h : isClash s = true) (c : Nat) :
    ClashWork s (judgeLevels s c) := by
  have hrelease := changeCell_clashWork s c (cellRelease .calm)
  have hcalm := hrelease.trans (calmFor_clashWork (hrelease.clash h) c)
  unfold judgeLevels
  dsimp only
  split
  · split
    · exact changeCell_clashWork s c _
    · exact .refl s
  · split
    · exact hcalm
    · split
      · exact changeCell_clashWork s c _
      · exact .refl s
  · split
    · exact hcalm
    · exact .refl s
  · exact .refl s

theorem judgeCells_clashWork (h : isClash s = true) : ClashWork s (judgeCells s false) := by
  unfold judgeCells
  generalize List.range 8 = l
  induction l generalizing s with
  | nil => exact .refl s
  | cons c l ih =>
    have hno := judgeNoSensor_clashWork s c
    have hcell : ClashWork s (judgeCell false s c) :=
      hno.trans (judgeLevels_clashWork (hno.clash h) c)
    exact hcell.trans (ih (hcell.clash h))

theorem orderIfStowed_clashWork (h : isClash s = true) (he : s.compact.list = []) :
    ClashWork s (orderIfStowed s) := by
  have hcells := judgeCells_clashWork h
  unfold orderIfStowed
  dsimp only
  split
  · exact hcells.trans (stowOrder_clashWork (hcells.clash h) (hcells.list.trans he))
  · exact hcells

end Sys2Proof.Machine
end

section
/-! PROOFS. The entry into FAULTED for a clash, block by block (R3, R29, R76, R116, R118, R164,
R179). -/

namespace Sys2Proof.Machine

variable {s t u : State} {n p k d e : Nat}

/-! ### The Axis Engine (R29) -/

theorem axisClash_clashWork (h : isClash s = true) : ClashWork s (axisClash s) := by
  have hflush : ∀ {v}, ClashWork s v → ClashWork s (flush v reasonFault) := fun {v} hv => by
    rw [flush_clash (hv.clash h)]
    exact hv.trans (withAxis_clashWork .rfl)
  have hstop : s.axis.motion ≠ .halted → ClashWork s (beginStop s .clash) := fun hm =>
    beginStop_clashWork h hm .clash
  unfold axisClash
  split
  · rename_i hm
    exact hflush (hstop (by rw [hm]; exact nofun))
  · rename_i hm
    exact hflush (hstop (by rw [hm]; exact nofun))
  · rename_i hm
    exact hflush (hstop (by rw [hm]; exact nofun))
  · exact hflush (addReason_clashWork s .clash)
  · exact hflush (.refl s)

/-- The engine after the state notice of the clash. -/
theorem axisClash_axis (s : State) :
    (s.axis.motion = .leg ∨ s.axis.motion = .gap ∨ s.axis.motion = .stowing →
      (axisClash s).axis = flushed (stopping s.axis .clash)) ∧
    (∀ x, s.axis.motion = .stopping → s.axis.stop = some x →
      (axisClash s).axis = flushed { s.axis with
        stop := some { x with
          reasons := if .clash ∈ x.reasons then x.reasons else x.reasons ++ [.clash] } }) ∧
    (s.axis.motion = .idle ∨ s.axis.motion = .stowed ∨ s.axis.motion = .halted →
      (axisClash s).axis = flushed s.axis) := by
  have hstop : (flush (beginStop s .clash) reasonFault).axis =
      flushed (stopping s.axis .clash) := by rw [flush_axis, beginStop_axis]
  refine ⟨fun hm => ?_, fun x hm hx => ?_, fun hm => ?_⟩
  · unfold axisClash
    rcases hm with hm | hm | hm <;> rw [hm] <;> exact hstop
  · unfold axisClash
    rw [hm]
    dsimp only
    rw [flush_axis, addReason_axis hx]
  · unfold axisClash
    rcases hm with hm | hm | hm <;> rw [hm] <;> exact flush_axis s _

/-! ### The Compact Unit (R116, R118) -/

/-- The compacts have gone, and COMPACT_FAILED alone may have been set. -/
structure CompactsGone (s t : State) : Prop where
  only : t = ((s.withCompact t.compact).withReport t.report).withFree t.free
  list : t.compact.list = []
  flags : ∀ k, k ≠ flagCompactFailed → flagRecord t k = flagRecord s k
  flagCount : t.report.flags.length = s.report.flags.length
  unnamed : liveAccepted s = [] → flagRecord t flagCompactFailed = flagRecord s flagCompactFailed

theorem recordFlag_other (hk : k ≠ n) : flagRecord (recordFlag s n d e) k = flagRecord s k := by
  simp [flagRecord, recordFlag, List.getD_eq_getElem?_getD, List.getElem?_set_ne (Ne.symm hk)]

theorem compactClash_gone (h : isClash s = true) : CompactsGone s (compactClash s) := by
  have hset : ∀ (free a b : Nat), liveAccepted s ≠ [] → CompactsGone s
      (compactFailed ((s.withCompact { s.compact with list := [] }).withFree free) a b) :=
    fun free a b hne => by
      unfold compactFailed
      rw [setFlag_clash (by exact h)]
      exact ⟨rfl, rfl, fun k hk => recordFlag_other hk, List.length_set ..,
        fun hnil => absurd hnil hne⟩
  unfold compactClash
  dsimp only
  split
  · exact ⟨rfl, rfl, fun _ _ => rfl, rfl, fun _ => rfl⟩
  · rename_i id hid
    exact hset _ _ _ (by rw [hid]; exact nofun)
  · rename_i id rest _ hid
    exact hset _ _ _ (by rw [hid]; exact nofun)

/-! ### The Share Unit (R179) -/

/-- Loans have gone, and LOAN_LOST alone may have been set. -/
structure LoansGone (s t : State) : Prop where
  only : t = (s.withShare { s.share with loans := t.share.loans }).withReport t.report
  flags : ∀ k, k ≠ flagLoanLost → flagRecord t k = flagRecord s k

theorem LoansGone.refl (s : State) : LoansGone s s := ⟨rfl, fun _ _ => rfl⟩

theorem LoansGone.trans (h : LoansGone s t) (k : LoansGone t u) : LoansGone s u :=
  ⟨k.only.trans (by rw [h.only]; rfl), fun j hj => (k.flags j hj).trans (h.flags j hj)⟩

theorem LoansGone.clash (h : LoansGone s t) (hc : isClash s = true) : isClash t = true := by
  rw [h.only]
  exact hc

theorem LoansGone.dark (h : LoansGone s t) (hd : Dark s) : Dark t := by
  rw [h.only]
  exact hd.of_eq rfl rfl rfl rfl

theorem dropLoanWith_gone (h : isClash s = true) (hd : Dark s) (p : Nat) :
    LoansGone s (dropLoanWith s p) := by
  have hready : ∀ x : ShareUnit, isReady (s.withShare x) = false := fun x => isReady_clash h
  have hlost : ∀ {v}, LoansGone s v → LoansGone s (setFlag v flagLoanLost p 0) := fun {v} hv => by
    rw [setFlag_clash (hv.clash h)]
    exact hv.trans ⟨rfl, fun k hk => recordFlag_other hk⟩
  have hborrowed : LoansGone s (removeBorrowed s p) := by
    rw [removeBorrowed, hd.shed, settlePower_not_ready (hready _)]
    exact ⟨rfl, fun _ _ => rfl⟩
  have hlent : LoansGone s (removeLent s p) := by
    rw [removeLent, settlePower_not_ready (hready _)]
    exact ⟨rfl, fun _ _ => rfl⟩
  unfold dropLoanWith
  split
  · exact hlost hborrowed
  · split
    · exact hlost hlent
    · exact .refl s

theorem foldl_dropLoanWith_gone (l : List Nat) (h : isClash s = true) (hd : Dark s) :
    LoansGone s (l.foldl dropLoanWith s) := by
  induction l generalizing s with
  | nil => exact .refl s
  | cons p l ih =>
    have hdrop := dropLoanWith_gone h hd p
    exact hdrop.trans (ih (hdrop.clash h) (hdrop.dark hd))

/-- The loans with a list of peers dropped one after the other. -/
theorem foldl_dropLoanWith_loans (l : List Nat) (ok : LoansOk s.share) :
    (l.foldl dropLoanWith s).share.loans =
      s.share.loans.filter fun x => !l.contains x.peer := by
  induction l generalizing s with
  | nil => simp
  | cons p l ih =>
    have hdrop := (dropLoanWith_drops ok p).1
    rw [List.foldl_cons, ih ((dropLoanWith_quiet (.refl s) p).share ok), hdrop, List.filter_filter]
    refine List.filter_congr fun x _ => ?_
    by_cases hx : x.peer = p
    · simp [hx]
    · simp [hx]

theorem shareClash_gone (h : isClash s = true) (hd : Dark s) :
    LoansGone (s.withShare { s.share with claim := .none }) (shareClash s) :=
  foldl_dropLoanWith_gone _ (s := s.withShare { s.share with claim := .none }) h
    (hd.of_eq rfl rfl rfl rfl)

theorem shareClash_loans (ok : LoansOk s.share) : (shareClash s).share.loans = [] := by
  unfold shareClash
  dsimp only
  rw [foldl_dropLoanWith_loans _ (by exact ok)]
  refine List.filter_eq_nil_iff.2 fun x hx => ?_
  simp only [Bool.not_eq_true, Bool.not_eq_false', List.contains_iff_mem]
  exact List.mem_map_of_mem hx

end Sys2Proof.Machine
end

section
/-! PROOFS. What the clash leaves of every block, before the cells are judged (R76). -/

namespace Sys2Proof.Machine

variable {s t u : State} {n k : Nat}

/-- The station in FAULTED, its queue empty, ID_CLASH set and the BEACONs at an end. -/
def clashBegun (s : State) : State :=
  let t := setFlag ((s.withSeq { s.seq with station := .faulted .clash }).withLine
    { s.line with queue := [], sending := none }) flagIdClash 0 0
  t.withPeers { t.peers with beaconRun := none }

/-- The blocks told of the clash, before the cells are judged in LISTEN. -/
def clashTold (s : State) : State :=
  shareClash (allOff (compactClash (axisClash (clashBegun s))) .reset)

theorem enterClash_eq (s : State) : enterClash s =
    if (s.seq.station == .listen) = true then orderIfStowed (clashTold s) else clashTold s := rfl

theorem clashBegun_eq (s : State) : clashBegun s =
    (recordFlag ((s.withSeq { s.seq with station := .faulted .clash }).withLine
      { s.line with queue := [], sending := none }) flagIdClash 0 0).withPeers
        { s.peers with beaconRun := none } := by
  unfold clashBegun
  rw [setFlag_clash (by rfl)]
  rfl

/-- What the clash leaves of the blocks, by their records. -/
structure ClashTold (s t : State) : Prop where
  seq : t.seq = { s.seq with station := .faulted .clash }
  peers : t.peers = { s.peers with beaconRun := none }
  compact : t.compact.list = []
  lock : t.lock = s.lock
  time : t.time = s.time
  sensor : t.sensor = s.sensor
  keepOut : t.keepOut = s.keepOut
  queue : t.line.queue = []
  line : OnlyQueued (s.withLine { s.line with sending := none }) t
  idClash : s.report.flags.length = 16 → flagRecord t flagIdClash = ⟨true, 0, 0, now s⟩
  unnamed : liveAccepted s = [] → flagRecord t flagCompactFailed = flagRecord s flagCompactFailed
  named : s.report.flags.length = 16 → liveAccepted s ≠ [] → ∃ d, ∃ id ∈ liveAccepted s,
    flagRecord t flagCompactFailed = ⟨true, d, id, now s⟩
  zones : t.heater.zones = s.heater.zones.map (zoneOff .reset)
  claims : t.heater.claims = []
  onOrder : t.heater.onOrder = []
  claim : t.share.claim = .none
  loans : LoansOk s.share → t.share.loans = []
  axis : t.axis = (axisClash (clashBegun s)).axis
  halted : t.axis.motion = .halted ↔ s.axis.motion = .halted
  cells : t.wind.cells = s.wind.cells
  ordered : t.wind.ordered = s.wind.ordered

theorem liveAccepted_congr (hl : t.compact.list = s.compact.list)
    (hn : t.seq.number = s.seq.number) : liveAccepted t = liveAccepted s := by
  unfold liveAccepted ownAccepted
  rw [hl, hn]

theorem shareClash_keeps (s : State) : Keeps s (shareClash s) := by
  have hclaim : Quiet s (s.withShare { s.share with claim := .none }) :=
    (Quiet.refl s).withShare fun ok => ok
  have hfold : ∀ (l : List Nat) {v}, Quiet s v → Quiet s (l.foldl dropLoanWith v) := fun l => by
    induction l with
    | nil => exact fun hv => hv
    | cons p l ih => exact fun hv => ih (dropLoanWith_quiet hv p)
  exact (hfold _ hclaim).keeps

/-- What every block of the clash keeps. -/
theorem clashTold_keeps (s : State) : Keeps (clashBegun s) (clashTold s) :=
  ((axisClash_keeps (.refl _)).trans (compactClash_keeps (.refl _))).trans
    ((allOff_quiet (.refl _) .reset).keeps.trans (shareClash_keeps _))

theorem clashBegun_idClash (h : s.report.flags.length = 16) :
    flagRecord (clashBegun s) flagIdClash = ⟨true, 0, 0, now s⟩ := by
  have hlt : flagIdClash < s.report.flags.length := by
    rw [h]
    decide
  rw [clashBegun_eq]
  simp only [flagRecord, recordFlag, State.withReport, List.getD_eq_getElem?_getD]
  exact congrArg (Option.getD · FlagRecord.initial) (List.getElem?_set_self hlt)

theorem clashBegun_other (s : State) (hk : k ≠ flagIdClash) :
    flagRecord (clashBegun s) k = flagRecord s k := by
  rw [clashBegun_eq]
  exact recordFlag_other hk

theorem clashBegun_flagCount (s : State) :
    (clashBegun s).report.flags.length = s.report.flags.length := by
  rw [clashBegun_eq]
  exact List.length_set ..

theorem clashTold_told (s : State) : ClashTold s (clashTold s) := by
  have hbegun := clashBegun_eq s
  have hid := clashBegun_idClash (s := s)
  have hother := clashBegun_other s (k := flagCompactFailed) (by decide)
  have hcount := clashBegun_flagCount s
  have hclash : isClash (clashBegun s) = true := by rw [hbegun]; rfl
  have hkeeps := clashTold_keeps s
  have haxis := axisClash_clashWork hclash
  unfold clashTold at hkeeps ⊢
  generalize hb : clashBegun s = b at *
  generalize ha : axisClash b = a at *
  have hgone := compactClash_gone (haxis.clash hclash)
  have hnames := compactClash_names (s := a)
  have haccepted : liveAccepted a = liveAccepted s := liveAccepted_congr
    (haxis.list.trans (by rw [hbegun]; rfl)) (by rw [haxis.seq, hbegun]; rfl)
  have hnow : now a = now s := by
    rw [show now a = now b by rw [haxis.only]; rfl, hbegun]
    rfl
  have hcclash : isClash (compactClash a) = true := by
    rw [hgone.only]
    exact haxis.clash hclash
  generalize compactClash a = c at *
  have hline : c.line = { s.line with queue := [], sending := none } := by
    rw [hgone.only]
    show a.line = _
    rw [haxis.only, hbegun]
    rfl
  have hheat : c.heater = s.heater := by
    rw [hgone.only]
    show a.heater = _
    rw [haxis.only, hbegun]
    rfl
  have hshare : c.share = s.share := by
    rw [hgone.only]
    show a.share = _
    rw [haxis.only, hbegun]
    rfl
  have hcaxis : c.axis = a.axis := by rw [hgone.only]; rfl
  have hoff := allOff_silent (.refl c) .reset
  obtain ⟨hdark, hheater, hqueue⟩ := allOff_dark c .reset
  generalize allOff c .reset = f at *
  have hfclash : isClash f = true := by
    unfold isClash at hcclash ⊢
    rwa [hoff.seq]
  have hlent := shareClash_gone hfclash hdark
  have hloans := shareClash_loans (s := f)
  generalize shareClash f = g at *
  have hgline : g.line = f.line := by rw [hlent.only]; rfl
  have hgheater : g.heater = { s.heater with
      zones := s.heater.zones.map (zoneOff .reset)
      claims := [], onOrder := [], admitted := 0 } := by
    rw [show g.heater = f.heater by rw [hlent.only]; rfl, hheater, hheat]
  have hgaxis : g.axis = a.axis := by
    rw [show g.axis = f.axis by rw [hlent.only]; rfl, hoff.axis, hcaxis]
  have hflag : ∀ k, k ≠ flagLoanLost → flagRecord g k = flagRecord c k := fun k hk => by
    rw [hlent.flags k hk]
    show flagRecord f k = _
    unfold flagRecord
    rw [hoff.report]
  exact {
    seq := hkeeps.seq.trans (by rw [hbegun]; rfl)
    peers := hkeeps.peers.trans (by rw [hbegun]; rfl)
    compact := by
      rw [show g.compact = f.compact by rw [hlent.only]; rfl, hoff.compact]
      exact hgone.list
    lock := hkeeps.lock.trans (by rw [hbegun]; rfl)
    time := hkeeps.time.trans (by rw [hbegun]; rfl)
    sensor := hkeeps.sensor.trans (by rw [hbegun]; rfl)
    keepOut := hkeeps.keepOut.trans (by rw [hbegun]; rfl)
    queue := by
      rw [hgline]
      exact hqueue (by rw [hline])
    line := ⟨_, _, by rw [hgline, hoff.counters, hline]; rfl⟩
    idClash := fun hl => by
      rw [hflag _ (by decide), hgone.flags _ (by decide), haxis.flags _ (by decide)]
      exact hid hl
    unnamed := fun hnil => by
      rw [hflag _ (by decide), hgone.unnamed (haccepted.trans hnil), haxis.flags _ (by decide),
        hother]
    named := fun hl hne => by
      rw [hflag _ (by decide), ← haccepted, ← hnow]
      exact hnames (by rw [haxis.flagCount, hcount, hl]) (by rw [haccepted]; exact hne)
    zones := by rw [hgheater]
    claims := by rw [hgheater]
    onOrder := by rw [hgheater]
    claim := by rw [hlent.only]; rfl
    loans := fun ok => hloans (by unfold LoansOk; rw [hoff.loans, hshare]; exact ok)
    axis := by rw [hgaxis, hb, ha]
    halted := by rw [hgaxis, haxis.halted, hbegun]; rfl
    cells := hkeeps.cells.trans (by rw [hbegun]; rfl)
    ordered := hkeeps.ordered.trans (by rw [hbegun]; rfl) }

end Sys2Proof.Machine
end

section
/-! PROOFS. A frame that bears the own number (R3, R29, R74, R76, R116, R118, R147, R164, R179). -/

namespace Sys2Proof.Machine

variable {s t u : State} {i : Instr} {n c : Nat} {o : Bool} {x : Cell}

theorem WindOnly.seq (h : WindOnly s t) : t.seq = s.seq := by
  rw [h.only]
  rfl

theorem WindOnly.axis (h : WindOnly s t) : t.axis = s.axis := by
  rw [h.only]
  rfl

/-! ### The cells judged in LISTEN, without orders (R144, R147) -/

/-- Without a stow order in force a judgement that gives none changes the cells alone. -/
theorem judgeCell_unordered (h : s.wind.ordered = false) (c : Nat) :
    WindOnly s (judgeCell false s c) := by
  have hno : WindOnly s (judgeNoSensor false s c) := by
    have hrun := changeCell_windOnly s c fun x => { x with holdRun := 0 }
    have hstow := hrun.trans (changeCell_windOnly _ c (cellStow .noSensor))
    unfold judgeNoSensor
    dsimp only
    split
    · split
      · split
        · exact hstow
        · exact hstow
      · exact hrun
    · exact ⟨rfl, rfl, rfl⟩
  have hcalm : ∀ {v : State}, v.wind.ordered = false → ∀ f,
      WindOnly v (calmFor (changeCell v c f) c) := fun {v} hv f => by
    have hc := changeCell_windOnly v c f
    rw [calmFor, hc.ordered, hv]
    exact hc
  have hord : (judgeNoSensor false s c).wind.ordered = false := hno.ordered.trans h
  unfold judgeCell
  generalize judgeNoSensor false s c = v at hno hord ⊢
  refine hno.trans ?_
  unfold judgeLevels
  dsimp only
  split
  · split
    · exact changeCell_windOnly v c _
    · exact ⟨rfl, rfl, rfl⟩
  · split
    · exact hcalm hord _
    · split
      · exact changeCell_windOnly v c _
      · exact ⟨rfl, rfl, rfl⟩
  · split
    · exact hcalm hord _
    · exact ⟨rfl, rfl, rfl⟩
  · exact ⟨rfl, rfl, rfl⟩

theorem judgeCells_unordered (h : s.wind.ordered = false) : WindOnly s (judgeCells s false) := by
  unfold judgeCells
  generalize List.range 8 = l
  induction l generalizing s with
  | nil => exact ⟨rfl, rfl, rfl⟩
  | cons c l ih =>
    have hcell := judgeCell_unordered h c
    exact hcell.trans (ih (hcell.ordered.trans h))

theorem judgedCell_calm (hw : workingEntries x ≠ []) (hx : x.state = .calm ∨ x.state = .watch)
    (s : State) (c : Nat) :
    (judgedCell s c x).state = .calm ∨ (judgedCell s c x).state = .watch := by
  rw [judgedCell_works hw, levelsCell]
  rcases hx with h | h
  · rw [h]
    exact .inl h
  · rw [h]
    dsimp only
    split
    · exact .inl rfl
    · exact .inr h

/-- A cell that calls for a stow calls for it once it is judged (R142, R143, R144). -/
theorem judgedCell_holds (ho : obeys s c = true) (hg : givesOrders s = true)
    (h : workingEntries x = [] ∨ x.state = .stow ∨
      x.state = .settle ∧ x.settleRun < (cfg s).settleTime * 1000) :
    (judgedCell s c x).state = .stow ∨ (judgedCell s c x).state = .settle := by
  by_cases hw : workingEntries x = []
  · rw [judgedCell_noSensor hw ho hg]
    exact .inl rfl
  · rw [judgedCell_works hw, levelsCell]
    rcases h.resolve_left hw with h | ⟨h, hrun⟩
    · rw [h]
      dsimp only
      split
      · exact .inr rfl
      · exact .inl h
    · have hpassed : settlePassed s x = false := by
        simp [settlePassed]
        omega
      rw [h, hpassed]
      exact .inr h

theorem windHolds_iff : windHolds s = true ↔
    ∃ c ∈ obeyed s, (cellAt s c).state = .stow ∨ (cellAt s c).state = .settle := by
  simp [windHolds]

theorem obeyed_congr (h : t.seq = s.seq) : obeyed t = obeyed s := by
  unfold obeyed
  rw [h]

/-- No obeyed cell calls for a stow (R147). -/
theorem orderIfStowed_none (ho : s.wind.ordered = false)
    (hw : ∀ c ∈ obeyed s, workingEntries (cellAt s c) ≠ [])
    (hs : ∀ c ∈ obeyed s, (cellAt s c).state = .calm ∨ (cellAt s c).state = .watch) :
    WindOnly s (orderIfStowed s) := by
  have honly := judgeCells_unordered ho
  have hseq : (judgeCells s false).seq = s.seq := honly.seq
  have hnone : windHolds (judgeCells s false) = false := by
    refine Bool.eq_false_iff.2 fun hholds => ?_
    obtain ⟨c, hc, hstate⟩ := windHolds_iff.1 hholds
    rw [obeyed_congr hseq] at hc
    have hjudged : (cellAt (judgeCells s false) c).state = .calm ∨
        (cellAt (judgeCells s false) c).state = .watch := by
      obtain ⟨e, he⟩ := List.exists_mem_of_ne_nil _ (hw c hc)
      have hlen := lt_of_mem_roster (List.mem_filter.1 he).1
      by_cases h8 : c < 8
      · rw [cellAt_judgeCells h8 hlen]
        exact judgedCell_calm (hw c hc) (hs c hc) s c
      · rw [judgeCells, (foldl_judgeCell_others _ (fun hm => h8 (List.mem_range.1 hm)) s).1]
        exact hs c hc
    rcases hstate with h | h <;> rw [h] at hjudged <;> rcases hjudged with k | k <;> cases k
  unfold orderIfStowed
  dsimp only
  rw [hnone]
  exact honly

/-- An obeyed cell calls for a stow (R147). -/
theorem orderIfStowed_orders (ho : s.wind.ordered = false) (hl : s.wind.cells.length = 8)
    (hg : givesOrders s = true) (hc : c ∈ obeyed s) (h8 : c < 8)
    (h : workingEntries (cellAt s c) = [] ∨ (cellAt s c).state = .stow ∨
      (cellAt s c).state = .settle ∧ (cellAt s c).settleRun < (cfg s).settleTime * 1000) :
    ∃ v, WindOnly s v ∧ orderIfStowed s = stowOrder v := by
  have honly := judgeCells_unordered ho
  have hseq : (judgeCells s false).seq = s.seq := honly.seq
  have hobeys : obeys s c = true := List.contains_iff_mem.2 hc
  refine ⟨judgeCells s false, honly, ?_⟩
  unfold orderIfStowed
  refine if_pos (windHolds_iff.2 ⟨c, by rw [obeyed_congr hseq]; exact hc, ?_⟩)
  rw [cellAt_judgeCells h8 (by omega)]
  exact judgedCell_holds hobeys hg h

/-- The stow order at rest in FAULTED for a clash leaves the STOW entry waiting (R21, R29). -/
theorem stowOrder_rest (h : isClash s = true) (hm : s.axis.stowMark = false)
    (hr : s.axis.motion = .idle ∨ s.axis.motion = .halted) :
    (stowOrder s).axis = stowWaits s := by
  obtain ⟨w, hw⟩ : ∃ w, w = s.withWind { s.wind with ordered := true } := ⟨_, rfl⟩
  have hclash : isClash w = true := hw ▸ h
  have hmark : w.axis.stowMark = false := by rw [hw]; exact hm
  have hmotion : w.axis.motion = s.axis.motion := by rw [hw]; rfl
  have hwaits : isClash (w.withAxis (stowWaits w)) = true := hclash
  have haxis : (axisStowOrder w).axis = stowWaits w := by
    unfold axisStowOrder
    rw [if_neg (by rcases hr with h | h <;> simp [hmark, hmotion, h])]
    dsimp only
    rw [show w.withAxis { w.axis with
        stowMark := true, queue := [stowEntry w], jointHeld := false, withdrawPending := false } =
      w.withAxis (stowWaits w) from rfl, noticeRemoved_clash hwaits, hmotion]
    rcases hr with h | h
    · rw [h]
      exact congrArg State.axis (tryStart_not_ready (isReady_clash hwaits))
    · rw [h]
      rfl
  rw [hw] at haxis
  exact (stowOrder_axis_of haxis (stowWaits_noJoint s)).trans rfl

/-! ### The frame (R74, R76) -/

theorem heard_own (s : State) : heard s s.seq.number = s := if_pos (beq_self_eq_true _)

/-- A frame with the own number has the station enter FAULTED, and is then delivered. -/
theorem takeFrame_own (hr : receives s = true) (h1 : 1 ≤ s.seq.number) (h59 : s.seq.number ≤ 59)
    (hc : isClash s = false) (hn : (enterClash (cleanRead s)).seq.number = s.seq.number)
    (deliver : State → State) :
    takeFrame s s.seq.number deliver = deliver (enterClash (cleanRead s)) := by
  have hclash : (s.seq.number == s.seq.number && !isClash s) = true := by simp [hc]
  unfold takeFrame
  rw [if_pos (by simp [hr, h1]; omega)]
  dsimp only
  rw [if_pos hclash]
  generalize enterClash (cleanRead s) = t at hn ⊢
  rw [← hn, heard_own]

/-- A further one is delivered at once. -/
theorem takeFrame_clashed (hr : receives s = true) (h1 : 1 ≤ s.seq.number)
    (h59 : s.seq.number ≤ 59) (hc : isClash s = true) (deliver : State → State) :
    takeFrame s s.seq.number deliver = deliver (cleanRead s) := by
  have hno : ¬ (s.seq.number == s.seq.number && !isClash s) = true := by simp [hc]
  unfold takeFrame
  rw [if_pos (by simp [hr, h1]; omega)]
  dsimp only
  rw [if_neg hno]
  exact congrArg deliver (heard_own (cleanRead s))

end Sys2Proof.Machine
end

section
/-! PROOFS. The clash as a whole (R74, R76, R147). -/

namespace Sys2Proof.Machine

variable {s t u : State} {i : Instr} {n c : Nat}


theorem enterClash_listen (h : s.seq.station = .listen) :
    enterClash s = orderIfStowed (clashTold s) := by
  rw [enterClash_eq, if_pos (by simpa using h)]

theorem enterClash_other (h : s.seq.station ≠ .listen) : enterClash s = clashTold s := by
  rw [enterClash_eq, if_neg (by simpa using h)]

theorem ClashTold.clash (h : ClashTold s t) : isClash t = true := by
  unfold isClash
  rw [h.seq]
  rfl

theorem enterClash_work (s : State) : ClashWork (clashTold s) (enterClash s) := by
  have htold := clashTold_told s
  by_cases hl : s.seq.station = .listen
  · rw [enterClash_listen hl]
    exact orderIfStowed_clashWork htold.clash htold.compact
  · rw [enterClash_other hl]
    exact .refl _

theorem ClashTold.obeyed (h : ClashTold s t) : Machine.obeyed t = Machine.obeyed s := by
  unfold Machine.obeyed
  rw [h.seq]

theorem ClashTold.cellAt (h : ClashTold s t) (c : Nat) :
    Machine.cellAt t c = Machine.cellAt s c := by
  unfold Machine.cellAt
  rw [h.cells]

theorem clashBegun_axis (s : State) : (clashBegun s).axis = s.axis := by
  rw [clashBegun_eq]
  rfl

/-- Where no cell calls for a stow, the axes and the order are as the blocks leave them. -/
theorem enterClash_stays (h : s.seq.station ≠ .listen ∨ NoStowDue s) :
    (enterClash s).axis = (axisClash (clashBegun s)).axis ∧
      (enterClash s).wind.ordered = s.wind.ordered := by
  have htold := clashTold_told s
  by_cases hl : s.seq.station = .listen
  · obtain ⟨⟨hord, hworks⟩, hstates⟩ := h.resolve_left (not_not.2 hl)
    rw [enterClash_listen hl]
    generalize clashTold s = t at htold ⊢
    have hcells : ∀ c ∈ obeyed t, workingEntries (cellAt t c) ≠ [] :=
      fun c hc => by
        rw [htold.cellAt]
        exact hworks c (htold.obeyed ▸ hc)
    have honly := orderIfStowed_none (htold.ordered.trans hord) hcells fun c hc => by
      rw [htold.cellAt]
      exact hstates c (htold.obeyed ▸ hc)
    exact ⟨honly.axis.trans htold.axis, honly.ordered.trans htold.ordered⟩
  · rw [enterClash_other hl]
    exact ⟨htold.axis, htold.ordered⟩

/-- In LISTEN a cell that calls for a stow gives the stow order. -/
theorem enterClash_orders (hl : s.seq.station = .listen) (hh : s.seq.held = false)
    (h : StowDue s) : InStow (enterClash s) ∧
      (s.axis.stowMark = false → s.axis.motion = .idle ∨ s.axis.motion = .halted →
        (enterClash s).axis =
          { flushed s.axis with stowMark := true, queue := [stowEntry s] }) := by
  have htold := clashTold_told s
  obtain ⟨hord, hlen, c, hc, h8, hcalls⟩ := h
  rw [enterClash_listen hl]
  generalize clashTold s = t at htold ⊢
  have hgives : givesOrders t = true := by
    unfold givesOrders
    rw [htold.clash, htold.seq, Bool.or_true, Bool.true_and]
    simpa using hh
  have hcfg : cfg t = cfg s := by
    unfold cfg
    rw [htold.seq]
  obtain ⟨v, hv, horder⟩ := orderIfStowed_orders (htold.ordered.trans hord)
    (by rw [htold.cells]; exact hlen) hgives (by rw [htold.obeyed]; exact hc) h8
    (by rw [htold.cellAt, hcfg]; exact hcalls)
  have haxis : v.axis = (axisClash (clashBegun s)).axis := hv.axis.trans htold.axis
  rw [horder]
  refine ⟨stowOrder_inStow v, fun hm hr => ?_⟩
  obtain ⟨-, -, hrest⟩ := axisClash_axis (clashBegun s)
  rw [clashBegun_axis] at hrest
  have hflushed : v.axis = flushed s.axis := haxis.trans (hrest (hr.imp_right .inr))
  have hvclash : isClash v = true := by
    have := htold.clash
    unfold isClash at this ⊢
    rwa [hv.seq]
  have hentry : stowEntry v = stowEntry s := by
    have hvcfg : cfg v = cfg s := by
      rw [← hcfg]
      unfold cfg
      rw [hv.seq]
    unfold stowEntry
    rw [hvcfg, hflushed]
    rfl
  rw [stowOrder_rest hvclash (by rw [hflushed]; exact hm) (by rw [hflushed]; exact hr), stowWaits,
    hentry, hflushed]
  rfl

/-- Settles O19: the clash block by block (`clashTold_told`), the cells in LISTEN, and the delivery
of the frame in the state that the clash leaves. -/
theorem theOwnNumberOnTheLineIsAClash : Obligations.TheOwnNumberOnTheLineIsAClash := by
  intro s hstation hh h1 h59
  have hclash : isClash s = false := by
    rcases hstation with h | h | h <;> simp [isClash, h]
  have hreceives : receives s = true := by
    rcases hstation with h | h | h <;> simp [receives, isReady, isConfigFault, hh, h]
  have htold := clashTold_told (cleanRead s)
  have hwork := enterClash_work (cleanRead s)
  have hstays := enterClash_stays (s := cleanRead s)
  have horders := enterClash_orders (s := cleanRead s)
  have htaken := takeFrame_own hreceives h1 h59 hclash (by rw [hwork.seq, htold.seq]; rfl)
  generalize clashTold (cleanRead s) = v at *
  generalize enterClash (cleanRead s) = t at *
  have hseq : t.seq = { s.seq with station := .faulted .clash } := hwork.seq.trans htold.seq
  have hline : t.line = v.line := by rw [hwork.only]; rfl
  have hexec : exec (.answerReceived s.seq.number) s = .next t := by
    refine congrArg Host.Outcome.next ?_
    unfold takeDishFrame
    rw [htaken]
    exact ite_self _
  have hpeers : t.peers = { s.peers with beaconRun := none } := by
    rw [show t.peers = v.peers by rw [hwork.only]; rfl]
    exact htold.peers
  have hheater : t.heater = v.heater := by rw [hwork.only]; rfl
  have hshare : t.share = v.share := by rw [hwork.only]; rfl
  obtain ⟨q, a, hqueued⟩ := htold.line
  obtain ⟨hstop, hstopping, hrest⟩ := axisClash_axis (clashBegun (cleanRead s))
  rw [clashBegun_axis] at hstop hstopping hrest
  refine ⟨t, hexec, hseq, by rw [hpeers], by rw [hpeers], hwork.list.trans htold.compact, ?_, ?_,
    ?_, ?_, by rw [hline]; exact htold.queue, by rw [hline, hqueued]; rfl, fun hl => ?_,
    fun hnil => ?_, fun hl hne => ?_, by rw [hheater]; exact htold.zones,
    by rw [hheater]; exact htold.claims, by rw [hheater]; exact htold.onOrder,
    by rw [hshare]; exact htold.claim, fun ok => by rw [hshare]; exact htold.loans ok, ?_,
    fun h => ?_, fun hl h => ?_, fun i hi => ?_⟩
  · rw [show t.lock = v.lock by rw [hwork.only]; rfl]
    exact htold.lock
  · rw [show t.time = v.time by rw [hwork.only]; rfl]
    exact htold.time
  · rw [show t.sensor = v.sensor by rw [hwork.only]; rfl]
    exact htold.sensor
  · rw [show t.keepOut = v.keepOut by rw [hwork.only]; rfl]
    exact htold.keepOut
  · rw [hwork.flags _ (by decide)]
    exact htold.idClash hl
  · rw [hwork.flags _ (by decide)]
    exact htold.unnamed hnil
  · rw [hwork.flags _ (by decide)]
    exact htold.named hl hne
  · have hhalted : t.axis.motion = .halted ↔ s.axis.motion = .halted :=
      hwork.halted.trans htold.halted
    have hmay : mayEnable t.seq = true := by simp [mayEnable, hseq, hh]
    unfold amplifiersEnabled
    rw [hmay, Bool.true_and, Bool.eq_iff_iff]
    simp [hhalted]
  · obtain ⟨haxis, hordered⟩ := hstays h
    rw [haxis]
    exact ⟨hordered, hstop, hstopping, hrest⟩
  · obtain ⟨hin, haxis⟩ := horders hl hh h
    exact ⟨hin.ordered, hin.compactMark, hin.axisMark, haxis⟩
  · obtain ⟨deliver, hdeliver⟩ := delivers_of_payload hi
    have htclash : isClash t = true := by
      unfold isClash
      rw [hseq]
      rfl
    have htreceives : receives t = true := by simp [receives, htclash, hseq, hh]
    have hclean : cleanRead t = t := cleanRead_of_onlyQueued
      (s := s.withLine { s.line with sending := none }) ⟨q, a, by rw [hline, hqueued]; rfl⟩
    have hown : t.seq.number = s.seq.number := by rw [hseq]
    have htaken' := takeFrame_clashed htreceives (by rw [hown]; exact h1) (by rw [hown]; exact h59)
      htclash deliver
    rw [hown, hclean] at htaken'
    rw [hdeliver, hdeliver, htaken, htaken']

end Sys2Proof.Machine
end
